-- ==== Sys2Proof/Word.lean ====
section
/-! DEFINITION. The word types of the T7 and the plainest arithmetic on them (spec/00, R2; spec/04, R89).
Registers are bit vectors; addresses used as keys of memory and counts are natural numbers. -/

namespace Sys2Proof

/-- A byte of memory (R2). -/
abbrev Byte := BitVec 8
/-- A 32-bit lane value (R132, R188). -/
abbrev Word := BitVec 32
/-- A 64-bit control-core value or register pair (R31, R188). -/
abbrev Word64 := BitVec 64

/-- Bits `hi .. lo` of a number, both ends included (R2). -/
def bitsOf (n hi lo : Nat) : Nat := (n >>> lo) % 2 ^ (hi + 1 - lo)

/-- One bit of a number (R2). -/
def bitOf (n i : Nat) : Bool := n.testBit i

/-- 1 for true and 0 for false. -/
def boolNat (b : Bool) : Nat := if b then 1 else 0

/-- Signed saturation to `w` bits (R89, sats). -/
def sats (x : Int) (w : Nat) : Int :=
  if x < -(2 ^ (w - 1) : Int) then -(2 ^ (w - 1) : Int)
  else if x > (2 ^ (w - 1) : Int) - 1 then (2 ^ (w - 1) : Int) - 1 else x

/-- Unsigned saturation to `w` bits (R89, satz). -/
def satz (x : Int) (w : Nat) : Int :=
  if x < 0 then 0 else if x > (2 ^ w : Int) - 1 then (2 ^ w : Int) - 1 else x

/-- The low 32 bits of a 64-bit value. -/
def lo32 (x : Word64) : Word := x.truncate 32
/-- The high 32 bits of a 64-bit value. -/
def hi32 (x : Word64) : Word := (x >>> 32).truncate 32
/-- A 64-bit value from its halves (R188: the low half in the even register). -/
def join64 (lo hi : Word) : Word64 := hi ++ lo

end Sys2Proof
end

