-- ==== Sys2Proof/Syntax.lean ====
section
/-! DEFINITION. The instructions and steps of the T7: one constructor of `Instr` per row of spec/opcode_table.json.
Control-slice instructions (spec/06 R139-R145, spec/07), lane words (spec/06 R130-R138, spec/08, spec/09, spec/10),
engine words (spec/06 R146-R149, spec/10), and the steps of the hardware and of the outside world (spec/95). -/

namespace Sys2Proof

/-- A register number x0-x31 of the control core. -/
abbrev XReg := BitVec 5

/-- The guard of a lane word (R130): none, p1-p7, or st0-st7. -/
inductive Guard where
  | none
  | p (i : BitVec 3)
  | st (i : BitVec 3)
deriving DecidableEq, Repr, Inhabited

/-- A source operand of a lane word (R132). -/
inductive Src where
  | v (i : BitVec 7)
  | p (i : BitVec 3)
  | iqPop (q : BitVec 3)
  | iqPeek (q : BitVec 3)
  | k (i : BitVec 4)
  | lane | grp | hearth | pass | trip | gcclo | seq | fflags
  | imm (i : BitVec 6)
deriving DecidableEq, Repr, Inhabited

/-- A destination operand of a lane word (R134). -/
inductive Dst where
  | v (i : BitVec 7)
  | p (i : BitVec 3)
  | oq (q : BitVec 2)
  | fflags
  | discard
deriving DecidableEq, Repr, Inhabited

/-- The address fields of format LM and its scope and class (R131, R136: LM, SC and SH). -/
structure Lm where
  scope : BitVec 2
  cls : BitVec 2
  sx : Bool
  shift : BitVec 2
  imm : BitVec 12
deriving DecidableEq, Repr, Inhabited

/-- The condition of ICMP and ICMP64 (R136 IC, R196). -/
inductive IntCond where
  | eq | ne | lt | ge | ltu | geu
deriving DecidableEq, Repr, Inhabited

/-- The condition of FCMP (R136 FC, R197). -/
inductive FloatCond where
  | eq | lt | le | un | ne
deriving DecidableEq, Repr, Inhabited

/-- The mode of PVOTE (R136 VM, R224). -/
inductive VoteMode where
  | all | any | uni
deriving DecidableEq, Repr, Inhabited

/-- The operation of SCAN and REDUCE (R136 SO, R228). -/
inductive ScanOp where
  | add | min | max | umin | umax | fadd | fmin | fmax
deriving DecidableEq, Repr, Inhabited

/-- The rounding modes (R82). -/
inductive Rm where
  | rne | rtz | rdn | rup | rod
deriving DecidableEq, Repr, Inhabited

/-- The types of FCVT (R136 CT). -/
inductive CvtTy where
  | f32 | f16 | bf16 | s32 | u32 | s64 | u64
deriving DecidableEq, Repr, Inhabited

/-- The type and the b selection of a packed-half word (R136 HT, R205). -/
structure Ht where
  bf : Bool
  bsel : BitVec 2
deriving DecidableEq, Repr, Inhabited

/-- The format of MSCAT, ACCST and ACCLD (R136 AC, R148). -/
inductive AccFmt where
  | f32 | bf16 | f16
deriving DecidableEq, Repr, Inhabited

/-- The widths of LDAQ, STRL and the plain loads and stores: 1, 2, 4 or 8 bytes. -/
inductive MemW where
  | b | h | w | d
deriving DecidableEq, Repr, Inhabited

/-- A plain RV load or store (R152). -/
inductive RvMem where
  | load (width : MemW) (unsigned : Bool) (rd rs1 : XReg) (imm : BitVec 12)
  | store (width : MemW) (rs1 rs2 : XReg) (imm : BitVec 12)
deriving DecidableEq, Repr, Inhabited

/-- LR and SC of the A extension (R152); `d` chooses the 8-byte form. -/
inductive RvLrsc where
  | lr (d aq rl : Bool) (rd rs1 : XReg)
  | sc (d aq rl : Bool) (rd rs1 rs2 : XReg)
deriving DecidableEq, Repr, Inhabited

/-- The operations of the A and Zacas extensions (R151, R152). -/
inductive AmoOp where
  | swap | add | xor | and | or | min | max | minu | maxu | cas
deriving DecidableEq, Repr, Inhabited

/-- The widths of an AMO: 4, 8 or, for AMOCAS.Q alone, 16 bytes. -/
inductive AmoW where
  | w | d | q
deriving DecidableEq, Repr, Inhabited

/-- The conditions of the RV branches. -/
inductive BrCond where
  | eq | ne | lt | ge | ltu | geu
deriving DecidableEq, Repr, Inhabited

/-- The register-immediate operations of RV64I. -/
inductive AluI where
  | addi | slti | sltiu | xori | ori | andi | addiw
deriving DecidableEq, Repr, Inhabited

/-- The shift-immediate operations of RV64I, Zba and Zbb. -/
inductive AluSh where
  | slli | srli | srai | rori | slliUw | slliw | srliw | sraiw | roriw
deriving DecidableEq, Repr, Inhabited

/-- The register-register operations of RV64I, M, Zba and Zbb. -/
inductive AluR where
  | add | sub | sll | slt | sltu | xor | srl | sra | or | and
  | addw | subw | sllw | srlw | sraw
  | mul | mulh | mulhsu | mulhu | div | divu | rem | remu
  | mulw | divw | divuw | remw | remuw
  | addUw | sh1add | sh2add | sh3add | sh1addUw | sh2addUw | sh3addUw
  | andn | orn | xnor | max | maxu | min | minu | rol | ror | rolw | rorw
deriving DecidableEq, Repr, Inhabited

/-- The one-source operations of Zbb. -/
inductive AluU where
  | clz | ctz | cpop | clzw | ctzw | cpopw | sextb | sexth | zexth | orcb | rev8
deriving DecidableEq, Repr, Inhabited

/-- The CSRs of R151 and R154 that an instruction can read. -/
inductive Csr where
  | ybbase | yscope | yxwin | yfuse | ygcc | yhearth | ygrp | ypart | ytask | cycle | time | instret
deriving DecidableEq, Repr, Inhabited

/-- How a CSR instruction forms the written value: replace, set bits, clear bits. -/
inductive CsrOp where
  | rw | rs | rc
deriving DecidableEq, Repr, Inhabited

/-- The source of a CSR write: a register or a 5-bit immediate. -/
inductive CsrSrc where
  | reg (rs1 : XReg)
  | imm (u : BitVec 5)
deriving DecidableEq, Repr, Inhabited

/-- The register instructions of the base (row RV_INTEGER_INSTRUCTION, R151). -/
inductive RvInt where
  | lui (rd : XReg) (imm : BitVec 20)
  | auipc (rd : XReg) (imm : BitVec 20)
  | jal (rd : XReg) (off : BitVec 20)
  | opI (op : AluI) (rd rs1 : XReg) (imm : BitVec 12)
  | opSh (op : AluSh) (rd rs1 : XReg) (sh : BitVec 6)
  | opR (op : AluR) (rd rs1 rs2 : XReg)
  | opU (op : AluU) (rd rs1 : XReg)
  | csrRead (rd : XReg) (csr : Csr)
deriving DecidableEq, Repr, Inhabited

/-- A host access to device memory: a read, a write of bytes, or an AtomicOp (R348, R385). -/
inductive HostOp where
  | read (len : Nat)
  | readOwn
  | write (bytes : List Byte)
  | fetchAdd (len : Nat) (v : Nat)
  | swap (len : Nat) (v : Nat)
  | cas (len : Nat) (cmp v : Nat)
  /-- another atomic of UALink: 0 xor, 1 and, 2 or, 3 min, 4 max, 5 unsigned min, 6 unsigned max, 7 the FP32 sum (R430, R433) -/
  | amo (len : Nat) (op v : Nat)
deriving DecidableEq, Repr, Inhabited

/-- A request that a peer sends through UALink (R430, R435). -/
structure PeerReq where
  aid : Nat
  part : Nat
  win : Nat
  key : Nat
  off : Nat
  op : HostOp
  /-- a child package's merged stream instead: tree, port at the ingress, words (R440) -/
  stream : Option (Nat × Nat × List Nat) := none
deriving DecidableEq, Repr, Inhabited

/-- What the outside world fixes of one start-up: the failures of steps that depend on it, the fitted DDR5 size,
the fingerprint bits and the firmware image's digest (R425, R426); the operator has had the retirement log erased (R450). -/
structure BootEnv where
  logErased : Bool
  counterFails : Bool
  dieFails : List Nat
  causewayFails : Bool
  linksFail : Bool
  ddr5 : Nat
  fingerprint : List Byte
  fwDigest : List Byte
deriving DecidableEq, Repr, Inhabited

/-- A reading of the sensor of a hearth or of an HBM4 stack, in 1/16 °C (R448, R452). -/
inductive ThermKind where
  | hearth (h : Nat) (t : Int)
  | hbm (stack : Nat) (t : Int)
deriving DecidableEq, Repr, Inhabited

/-- The links of R439 and R430 that can fail. -/
inductive LinkKind where
  | ualink (port : Nat) | ethernet (port : Nat) | hostLink
deriving DecidableEq, Repr, Inhabited

/-- An agent that keeps a program timestamp (R60, R375): a CC thread, a lane group or an engine queue. -/
inductive AgentId where
  | cc (h t : Nat)
  | grp (h g : Nat)
  | eng (q : Nat)
deriving DecidableEq, Repr, Inhabited

/-- The waits that the watchdog watches (R417, R418). -/
inductive WaitAt where
  | thread (h t : Nat)
  | group (h g : Nat)
  | command (q n : Nat)
  | queue (q : Nat)
deriving DecidableEq, Repr, Inhabited

/-- The instructions of the three encodings and the steps of the part: one constructor per row of the opcode table. -/
inductive Instr where
  -- control extension: block and predicate queues (R140)
  | bemit (rs1 rs2 : XReg) (blk : BitVec 12)
  | bemitRl (rs1 rs2 : XReg) (blk : BitVec 12)
  | kset (n : BitVec 4) (rs1 : XReg)
  | bwin (rs1 : XReg)
  | bcancel (rd rs1 : XReg)
  | ppop (rd : XReg)
  | ppopAq (rd : XReg)
  | ptry (rd : XReg)
  | pflush (rd : XReg)
  | bseq (rd : XReg)
  | bqdrain
  | split (rs1 : XReg) (off : BitVec 12)
  | merge
  -- engines (R141)
  | esend (rs1 : XReg) (count : BitVec 2) (eng : BitVec 2)
  | erun (rs1 : XReg) (eng : BitVec 2)
  | cmprd (rd : XReg) (n : BitVec 3)
  | cmpwait (rs1 : XReg) (n : BitVec 3)
  | cmpdisc (rs1 : XReg) (n : BitVec 3)
  | publish (rd rs1 : XReg)
  | efence (eng : BitVec 2)
  -- tasks, named barriers and the Causeway (R143)
  | tspawn (rs1 : XReg)
  | tjoin (rs1 : XReg)
  | tdone
  | tyield (rs1 : XReg)
  | tself (rd : XReg)
  | nbinit (n : BitVec 4) (rs1 : XReg)
  | nbarrive (n : BitVec 4)
  | nbwait (rd : XReg) (n : BitVec 4)
  | nbinval (n : BitVec 4)
  | nbstat (rd : XReg) (n : BitVec 4)
  | cwarrive (rs1 : XReg)
  | cwwait (rs1 : XReg)
  | cwbcast (rs1 rs2 : XReg)
  | cwrecv (rd rs1 : XReg)
  | cwrsum (rd rs1 rs2 : XReg)
  | cwrmin (rd rs1 rs2 : XReg)
  | cwrmax (rd rs1 rs2 : XReg)
  | sstep (rs1 : XReg)
  -- scoped memory and system (R144)
  | ldaq (rd rs1 : XReg) (width : BitVec 3) (cls scope : BitVec 2)
  | strl (rs1 rs2 : XReg) (width : BitVec 3) (cls scope : BitVec 2)
  | fences (scope : BitVec 2)
  | iinval (scope : BitVec 2)
  | tmark (imm : BitVec 12)
  -- the ratified base (R151-R156)
  | ccLoadStore (op : RvMem)
  | lrSc (op : RvLrsc)
  | amo (op : AmoOp) (width : AmoW) (aq rl : Bool) (rd rs1 rs2 : XReg)
  | rvFence
  | fenceI
  | rvBranch (c : BrCond) (rs1 rs2 : XReg) (off : BitVec 12)
  | jalr (rd rs1 : XReg) (imm : BitVec 12)
  | ebreak
  | ecall
  | ccIllegalInstruction (custom : Bool)
  | rvIntegerInstruction (op : RvInt)
  | ybbaseWrite (op : CsrOp) (rd : XReg) (src : CsrSrc)
  | yscopeWrite (op : CsrOp) (rd : XReg) (src : CsrSrc)
  | yxwinWrite (op : CsrOp) (rd : XReg) (src : CsrSrc)
  -- lane words: integer and logic (R192-R196)
  | nop (g : Guard)
  | mov (g : Guard) (d : Dst) (a : Src)
  | movi (g : Guard) (d : Dst) (imm : BitVec 32)
  | iadd (g : Guard) (d : Dst) (a b : Src)
  | isub (g : Guard) (d : Dst) (a b : Src)
  | iaddi (g : Guard) (d : Dst) (a : Src) (imm : BitVec 24)
  | imul (g : Guard) (d : Dst) (a b : Src)
  | imulh (g : Guard) (d : Dst) (a b : Src)
  | imulhu (g : Guard) (d : Dst) (a b : Src)
  | imad (g : Guard) (d : Dst) (a b c : Src)
  | imin (g : Guard) (d : Dst) (a b : Src)
  | imax (g : Guard) (d : Dst) (a b : Src)
  | umin (g : Guard) (d : Dst) (a b : Src)
  | umax (g : Guard) (d : Dst) (a b : Src)
  | iabs (g : Guard) (d : Dst) (a : Src)
  | iadds (g : Guard) (d : Dst) (a b : Src) (u : Bool)
  | and (g : Guard) (d : Dst) (a b : Src)
  | or (g : Guard) (d : Dst) (a b : Src)
  | xor (g : Guard) (d : Dst) (a b : Src)
  | andn (g : Guard) (d : Dst) (a b : Src)
  | ltab (g : Guard) (d : Dst) (a b c : Src) (table : BitVec 8)
  | shl (g : Guard) (d : Dst) (a b : Src)
  | shr (g : Guard) (d : Dst) (a b : Src)
  | sar (g : Guard) (d : Dst) (a b : Src)
  | rotl (g : Guard) (d : Dst) (a b : Src)
  | clz (g : Guard) (d : Dst) (a : Src)
  | popc (g : Guard) (d : Dst) (a : Src)
  | brev (g : Guard) (d : Dst) (a : Src)
  | bfx (g : Guard) (d : Dst) (a : Src) (lsb widthM1 : BitVec 5) (sx : Bool)
  | bfi (g : Guard) (d : Dst) (a b : Src) (lsb widthM1 : BitVec 5)
  | sel (g : Guard) (d : Dst) (a b : Src) (c : BitVec 3)
  | iadd64 (g : Guard) (d : Dst) (a b : Src)
  | isub64 (g : Guard) (d : Dst) (a b : Src)
  | shl64 (g : Guard) (d : Dst) (a b : Src)
  | shr64 (g : Guard) (d : Dst) (a b : Src)
  | imulw (g : Guard) (d : Dst) (a b : Src) (u : Bool)
  | icmp (g : Guard) (c : IntCond) (d : Dst) (a b : Src)
  | icmp64 (g : Guard) (c : IntCond) (d : Dst) (a b : Src)
  -- lane words: float (R197-R204)
  | fadd (g : Guard) (rm : Rm) (d : Dst) (a b : Src)
  | fsub (g : Guard) (rm : Rm) (d : Dst) (a b : Src)
  | fmul (g : Guard) (rm : Rm) (d : Dst) (a b : Src)
  | ffma (g : Guard) (rm : Rm) (d : Dst) (a b c : Src)
  | fmin (g : Guard) (d : Dst) (a b : Src)
  | fmax (g : Guard) (d : Dst) (a b : Src)
  | frcp (g : Guard) (d : Dst) (a : Src)
  | frsq (g : Guard) (d : Dst) (a : Src)
  | fsqrt (g : Guard) (rm : Rm) (d : Dst) (a : Src)
  | fexp2 (g : Guard) (d : Dst) (a : Src)
  | flog2 (g : Guard) (d : Dst) (a : Src)
  | fsinpi (g : Guard) (d : Dst) (a : Src)
  | fcospi (g : Guard) (d : Dst) (a : Src)
  | fcmp (g : Guard) (c : FloatCond) (d : Dst) (a b : Src)
  | fclass (g : Guard) (d : Dst) (a : Src)
  | fcvt (g : Guard) (rm : Rm) (dst src : CvtTy) (d : Dst) (a : Src)
  | frnd (g : Guard) (rm : Rm) (d : Dst) (a : Src)
  | pkadd (g : Guard) (rm : Rm) (ht : Ht) (d : Dst) (a b : Src)
  | pkmul (g : Guard) (rm : Rm) (ht : Ht) (d : Dst) (a b : Src)
  | pkfma (g : Guard) (rm : Rm) (ht : Ht) (d : Dst) (a b c : Src)
  | pkdot (g : Guard) (rm : Rm) (ht : Ht) (d : Dst) (a b c : Src)
  | fcvtq (g : Guard) (rm : Rm) (p : BitVec 4) (uns : Bool) (d : Dst) (a b : Src)
  | plnpack (g : Guard) (plane pM1 : BitVec 3) (d : Dst) (a : Src)
  | plnunpack (g : Guard) (plane pM1 : BitVec 3) (d : Dst) (a b : Src)
  -- lane words: memory (R214-R219)
  | ldb (g : Guard) (m : Lm) (d : Dst) (base off : Src)
  | ldbs (g : Guard) (m : Lm) (d : Dst) (base off : Src)
  | ldh (g : Guard) (m : Lm) (d : Dst) (base off : Src)
  | ldhs (g : Guard) (m : Lm) (d : Dst) (base off : Src)
  | ldw (g : Guard) (m : Lm) (d : Dst) (base off : Src)
  | ldd (g : Guard) (m : Lm) (d : Dst) (base off : Src)
  | stb (g : Guard) (m : Lm) (base off c : Src)
  | sth (g : Guard) (m : Lm) (base off c : Src)
  | stw (g : Guard) (m : Lm) (base off c : Src)
  | std (g : Guard) (m : Lm) (base off c : Src)
  | lds (g : Guard) (m : Lm) (d : Dst) (base off : Src)
  | sts (g : Guard) (m : Lm) (base off c : Src)
  | stx (g : Guard) (m : Lm) (target off c : Src)
  | ldp (g : Guard) (m : Lm) (d : Dst) (base off : Src)
  | stp (g : Guard) (m : Lm) (base off c : Src)
  | pref (g : Guard) (m : Lm) (base off : Src)
  -- atomics (R220-R222)
  | aadd (g : Guard) (m : Lm) (d : Dst) (base off c : Src)
  | amin (g : Guard) (m : Lm) (d : Dst) (base off c : Src)
  | amax (g : Guard) (m : Lm) (d : Dst) (base off c : Src)
  | aumin (g : Guard) (m : Lm) (d : Dst) (base off c : Src)
  | aumax (g : Guard) (m : Lm) (d : Dst) (base off c : Src)
  | aand (g : Guard) (m : Lm) (d : Dst) (base off c : Src)
  | aor (g : Guard) (m : Lm) (d : Dst) (base off c : Src)
  | axor (g : Guard) (m : Lm) (d : Dst) (base off c : Src)
  | axchg (g : Guard) (m : Lm) (d : Dst) (base off c : Src)
  | aaddf (g : Guard) (m : Lm) (d : Dst) (base off c : Src)
  | acas (g : Guard) (m : Lm) (v : BitVec 7) (base off c : Src)
  | acas64 (g : Guard) (m : Lm) (v : BitVec 7) (base off : Src) (c : BitVec 7)
  | acas128 (g : Guard) (m : Lm) (v : BitVec 7) (base off : Src) (c : BitVec 7)
  -- predicates, cross-lane, work distribution (R223-R231, R237)
  | pand (g : Guard) (d a b : BitVec 3)
  | por (g : Guard) (d a b : BitVec 3)
  | pxor (g : Guard) (d a b : BitVec 3)
  | pandn (g : Guard) (d a b : BitVec 3)
  | pset (g : Guard) (d : BitVec 3) (a : Src)
  | ballot (g : Guard) (d : Dst) (a : BitVec 3)
  | pvote (g : Guard) (m : VoteMode) (d a : BitVec 3)
  | pret (g : Guard) (a : BitVec 3) (tag : BitVec 8)
  | xl (g : Guard) (own : Bool) (d : Dst) (a b : Src)
  | scan (g : Guard) (op : ScanOp) (excl : Bool) (d : Dst) (a : Src)
  | reduce (g : Guard) (op : ScanOp) (d : Dst) (a : Src)
  | compact (g : Guard) (d : Dst) (a : Src) (b : BitVec 3)
  | exit (g : Guard)
  -- tile words (R249-R252)
  | mma (g : Guard) (bank : BitVec 2) (fmt idx : BitVec 7) (k : BitVec 4) (ver : BitVec 16)
  | mzero (g : Guard) (bank : BitVec 2)
  | mrd (g : Guard) (d : Dst) (bank : BitVec 2) (col : BitVec 5)
  | mwr (g : Guard) (a : Src) (bank : BitVec 2) (col : BitVec 5)
  | mscat (g : Guard) (rm : Rm) (a : Src) (bank : BitVec 2) (fmt : AccFmt)
  | mver (g : Guard) (d : Dst) (bank : BitVec 2)
  | rebal (g : Guard) (d : Dst) (a b : Src) (k : BitVec 4)
  | lbound (g : Guard) (d : Dst) (a b c : Src)
  -- waiting, transfer and system words (R233-R238)
  | wait (g : Guard) (l st c t : BitVec 4)
  | fence (g : Guard) (scope : BitVec 2)
  | nbarriveLane (g : Guard) (n : BitVec 4)
  | nbwaitLane (g : Guard) (n : BitVec 4)
  | xmit (g : Guard) (a : BitVec 7) (port : BitVec 3)
  | xsel (g : Guard) (d : Dst) (port : BitVec 3) (cyc : BitVec 16)
  | xselF (g : Guard) (d : Dst) (port port2 : BitVec 3) (cyc : BitVec 16)
  | tmarkLane (g : Guard) (mark : BitVec 16)
  | brk (g : Guard) (code : BitVec 16)
  | cntr (g : Guard) (d : Dst) (n : BitVec 4)
  | unassignedLaneOpcode (w : BitVec 64)
  -- engine words (R146, R148)
  | litPush (n : BitVec 14)
  | litContinue (n : BitVec 14)
  | engineNop
  | dup
  | drop
  | swap
  | over
  | neg
  | shli (n : BitVec 8)
  | add
  | gccp (n : BitVec 8)
  | post (n : BitVec 3)
  | arrive (n : BitVec 4)
  | mode (rm : BitVec 3) (ftz : Bool)
  | efenceWord
  | accst (bank : BitVec 2) (fmt : BitVec 2)
  | accld (bank : BitVec 2) (fmt : BitVec 2)
  | accclr (bank : BitVec 2)
  | vmode (on : Bool)
  | spgemm
  | fibre
  | cpy
  | srct
  | dstt
  | box (dM1 : BitVec 2)
  | tcpy
  | tgath (wide : Bool)
  | tscat (wide : Bool)
  | bloadb
  | slred
  | zero
  | xch
  | strm (q : BitVec 3)
  | strmt (q : BitVec 3)
  | ostrm (q : BitVec 2)
  | scloseIq (q : BitVec 3)
  | scloseOq (q : BitVec 2)
  | rvtab
  | rxin (bf : Bool)
  | rprog
  | ryout
  | rdlim (d : BitVec 8)
  | reval (bM1 : BitVec 3)
  -- tasks and scheduling (R22-R31)
  | dispatch (h c : Nat)
  | copyRecordDispatch (p e : Nat)
  | copyRecordComplete (e : Nat)
  | joinDecrement (p : Nat)
  | fanoutWalk (p : Nat)
  | readyPush (p level : Nat)
  -- lane group steps (R35, R41, R298, R232)
  | blockTake (h g : Nat)
  | ksetApply (h g : Nat)
  | windowChangeApply (h g : Nat)
  | passStart (h g : Nat)
  | fixedLatencyWriteback (h g : Nat)
  | laneLoadComplete (h g id : Nat)
  | oqLoadPush (h g id : Nat)
  | laneStoreComplete (h g id : Nat)
  | tileOpComplete (h g : Nat)
  | tileOpStart (h g : Nat)
  | prqPush (h g : Nat)
  | stxArrive (n : Nat)
  | exchangeSwap (ch : Nat)
  -- engines (R171, R243-R245, R263, R271)
  | engineTurn (h e : Nat)
  | scriptFetchAppend (q : Nat)
  | copyCommandStart (e : Nat)
  | commandElementFault (q n : Nat)
  | engineCommandComplete (q n : Nat)
  | markerPerform (q : Nat)
  | streamOpen (q n : Nat)
  | streamElement (q n : Nat)
  -- Causeway and Sluice (R105-R122, R269)
  | causewayRelease (ch : Nat)
  | reductionRelease (ch : Nat)
  | broadcastArrive (ch : Nat)
  | bcastHeldSend (ch : Nat)
  | phaseBlockStart (h g : Nat)
  | xmitBeatArrive (n : Nat)
  | phaseEnd (ch : Nat)
  | phaseAbort (ch : Nat)
  | sluiceSegmentEmit (p tree node : Nat)
  | sluiceRootStore (p tree : Nat)
  | publishFlip (p tid : Nat)
  -- pre-emption, traps, faults (R411-R419, R365)
  | preemptSignal (p : Nat)
  | preemptStop (h c : Nat)
  | trapRecordWrite (p : Nat)
  | faultEntryWrite (p : Nat)
  | watchdogExpire (w : WaitAt)
  | pageWalk (n : Nat)
  | gccResync (die : Nat)
  | clockStepChange (h : Nat)
  | sliceRebase (home : Nat)
  -- homes and networks (R376-R386)
  | rd (n : Nat)
  | rnw (n : Nat)
  | wr (n : Nat)
  | wb (n : Nat)
  | at_ (n : Nat)
  | dat (n : Nat)
  | rnwok (n : Nat)
  | wack (n : Nat)
  | nack (n : Nat)
  | err (n : Nat)
  | rec_ (n : Nat)
  | trec (n : Nat)
  | zrec (n : Nat)
  | pack (n : Nat)
  | fillReturn (atom : Nat) (host : Option (List Byte))
  | l2Evict (atom : Nat)
  | birsp (line : Nat) (dirty : List (Nat × Byte))
  | hostSnoop (line : Nat)
  | hostCxlMemAccess (pa : Nat) (op : HostOp)
  | bar1Access (pa : Nat) (op : HostOp) (relaxed : Bool)
  | atsCompletion (n : Nat) (read write : Bool) (frame : Nat) (size : Nat)
  | atsInvalidate (pasid addr len : Nat)
  | prgSuccess (n : Nat)
  | prgInvalidRequest (n : Nat)
  | prgResponseFailure (n : Nat)
  | pcieAtomicCompletion (n : Nat) (ok : Option Nat)
  | flitError (die bad : Nat) (reg : Option Nat)
  -- the driver's registers (R324, R401, R419-R421, R352, R357, R366-R369)
  | launchPush (p : Nat) (v : BitVec 64)
  | launchClear (p : Nat)
  | partitionStart (p : Nat)
  | partitionStop (p : Nat)
  | partitionDrainDone (p : Nat)
  | pstepWrite (p j : Nat) (v : BitVec 64)
  | tactResume (p token : Nat)
  | tactKillContext (p token : Nat)
  | tactKillPartition (p token : Nat)
  | tactDump (p token act : Nat)
  | kill (p h c : Nat)
  | killAll (p : Nat)
  | killDone (p h c : Nat)
  | invcmdRange (p count : Nat)
  | invcmdPartition (p : Nat)
  | invcmdTensor (p tid : Nat)
  | invalidationComplete (p : Nat)
  | replay (p token : Nat)
  | replayRefuse (p token : Nat)
  | zcmd (die count : Nat)
  | zeroComplete (die : Nat)
  | sweeperStep (die : Nat)
  | budgetPeriod
  | debugHalt (h c : Nat)
  | haltReached (h c : Nat)
  | debugResume (h c : Nat)
  | debugStep (h c : Nat)
  | posSample (h c : Nat)
  | traceBaseWrite (h c : Nat) (v : BitVec 64)
  | traceLossResync (h c : Nat)
  -- Ethernet and pods (R435-R445)
  | qpload (qpn : Nat)
  | qpSendDoorbell (qpn : Nat)
  | qpReceiveDoorbell (qpn : Nat)
  | roceSendReceive (qpn : Nat) (data : List Byte)
  | roceWriteReceive (qpn key va : Nat) (data : List Byte)
  | roceReadReceive (qpn key va len : Nat)
  | qpEntryComplete (qpn : Nat) (ok : Bool) (data : List Byte)
  | qpRetryTimeout (qpn : Nat)
  | peerRequest (r : PeerReq)
  | peerRefusal (n sub : Nat)
  -- start-up, fleet (R425-R429, R446-R452)
  | mbReadCert
  | mbAttest
  | mbStageRecord
  | boot (env : BootEnv)
  | powerLoss (tornSlot : Option Nat)
  | correctedError (die src loc : Nat)
  | uncorrectableError (die src loc : Nat)
  | retirement (die src loc : Nat)
  | rowSpareComplete (die src loc : Nat)
  | rasClear (die : Nat)
  | powerTick (eighthWatts : Nat) (dies : List Nat)
  | thermalEvent (k : ThermKind)
  -- the remaining rows
  | registerWrite (bar off : Nat) (v : BitVec 64)
  | bqEntryOtherKind (h g : Nat)
  | programTimestampWaitEnd (a : AgentId)
  | exchangeWindowSettingArrive (h : Nat)
  | linkFailure (k : LinkKind)
  | peerResponse (n : Nat) (ok : Bool) (data : List Byte)
  | pcieCompletion (n : Nat) (ok : Bool) (data : List Byte)
  | pfcPauseFrame (port prio : Nat) (pause : Bool)
deriving DecidableEq, Repr, Inhabited

end Sys2Proof
end

