-- ==== Sys2Proof/WellFormed.lean ====
section
/-! DEFINITION. Well-formed instructions: the operand classes and field limits of spec/06 (R135, R136, R140-R144, R148)
and the index ranges of the steps (R7, R12, R13, R400, R403). -/

namespace Sys2Proof

/-- A guard names p1-p7 or a stage predicate (R130). -/
def Guard.wf : Guard → Bool
  | .none => true
  | .p i => i != 0#3
  | .st _ => true

/-- Class s64: a pair, k or a small immediate (R135). -/
def Src.isS64 : Src → Bool
  | .v i => i.toNat % 2 == 0
  | .k _ => true
  | .imm _ => true
  | _ => false

/-- Class base: a pair or k (R135). -/
def Src.isBase : Src → Bool
  | .v i => i.toNat % 2 == 0
  | .k _ => true
  | _ => false

/-- Class d (R135). -/
def Dst.isD : Dst → Bool
  | .p _ => false
  | _ => true

/-- Class vp (R135). -/
def Dst.isVp : Dst → Bool
  | .v _ => true
  | .p i => i != 0#3
  | .discard => true
  | _ => false

/-- Class e as a destination (R135). -/
def Dst.isE : Dst → Bool
  | .v i => i.toNat % 2 == 0
  | .discard => true
  | _ => false

/-- A v register or discard (XSEL, R137). -/
def Dst.isV : Dst → Bool
  | .v _ => true
  | .discard => true
  | _ => false

/-- Scope 11 is reserved (R61, R136 SC). -/
def Lm.wf (m : Lm) : Bool := m.scope != 3#2

/-- Scope other than 00 is reserved (R136 SH). -/
def Lm.wfH (m : Lm) : Bool := m.scope == 0#2

/-- The FCVT pairs that R136 CT admits: at least one float type, the types different. -/
def ctOk (d s : CvtTy) : Bool :=
  d != s && ((d == .f32 || d == .f16 || d == .bf16) || (s == .f32 || s == .f16 || s == .bf16))

/-- A CSR write with a set or clear form has a source other than x0 and immediate 0 (Zicsr: such a form only reads). -/
def csrWrites (op : CsrOp) (src : CsrSrc) : Bool :=
  match op, src with
  | .rw, _ => true
  | _, .reg r => r != 0#5
  | _, .imm u => u != 0#5

/-- The limits of a base load or store: an unsigned doubleword load does not exist. -/
def RvMem.wf : RvMem → Bool
  | .load wd u _ _ _ => !(u && wd == .d)
  | .store .. => true

/-- AMOCAS.Q alone has the 16-byte width, and names even registers (Zacas). -/
def amoWf (op : AmoOp) (wd : AmoW) (rd rs2 : XReg) : Bool :=
  wd != .q || (op == .cas && rd.toNat % 2 == 0 && rs2.toNat % 2 == 0)

/-- Word forms shift by less than 32. -/
def aluShWf (op : AluSh) (sh : BitVec 6) : Bool :=
  match op with
  | .slliw | .srliw | .sraiw | .roriw => decide (sh.toNat < 32)
  | _ => true

/-- The register instructions: only the word shifts have a limit. -/
def RvInt.wf : RvInt → Bool
  | .opSh op _ _ sh => aluShWf op sh
  | _ => true

/-- A hearth number (R12). -/
def hearthOk (h : Nat) : Bool := decide (h < 192)
/-- A context or lane group number (R13). -/
def ctxOk (h c : Nat) : Bool := decide (h < 192) && decide (c < 4)
/-- A partition number (R400). -/
def partOk (p : Nat) : Bool := decide (p < 16)

/-- The well-formed instructions: every code inside the class of its field, no reserved subfield value, and the indices of
a step inside the part. -/
def Instr.wf : Instr → Bool
  -- control extension
  | .ldaq _ _ wd _ s => decide (wd.toNat < 4) && s != 3#2
  | .strl _ _ wd _ s => decide (wd.toNat < 4) && s != 3#2
  | .fences s => s != 3#2
  | .iinval s => s != 3#2
  | .ccLoadStore op => op.wf
  | .amo op wd _ _ x1 _ x2 => amoWf op wd x1 x2
  | .ccIllegalInstruction _ => false
  | .ybbaseWrite op _ src => csrWrites op src
  | .yscopeWrite op _ src => csrWrites op src
  | .yxwinWrite op _ src => csrWrites op src
  | .rvIntegerInstruction op => op.wf
  -- lane words
  | .nop g => g.wf
  | .mov g d _ => g.wf && d.isD
  | .movi g d _ => g.wf && d.isD
  | .iadd g d _ _ => g.wf && d.isD
  | .isub g d _ _ => g.wf && d.isD
  | .iaddi g d _ _ => g.wf && d.isD
  | .imul g d _ _ => g.wf && d.isD
  | .imulh g d _ _ => g.wf && d.isD
  | .imulhu g d _ _ => g.wf && d.isD
  | .imad g d _ _ _ => g.wf && d.isD
  | .imin g d _ _ => g.wf && d.isD
  | .imax g d _ _ => g.wf && d.isD
  | .umin g d _ _ => g.wf && d.isD
  | .umax g d _ _ => g.wf && d.isD
  | .iabs g d _ => g.wf && d.isD
  | .iadds g d _ _ _ => g.wf && d.isD
  | .and g d _ _ => g.wf && d.isD
  | .or g d _ _ => g.wf && d.isD
  | .xor g d _ _ => g.wf && d.isD
  | .andn g d _ _ => g.wf && d.isD
  | .ltab g d _ _ _ _ => g.wf && d.isD
  | .shl g d _ _ => g.wf && d.isD
  | .shr g d _ _ => g.wf && d.isD
  | .sar g d _ _ => g.wf && d.isD
  | .rotl g d _ _ => g.wf && d.isD
  | .clz g d _ => g.wf && d.isD
  | .popc g d _ => g.wf && d.isD
  | .brev g d _ => g.wf && d.isD
  | .bfx g d _ l wd _ => g.wf && d.isD && decide (l.toNat + wd.toNat < 32)
  | .bfi g d _ _ l wd => g.wf && d.isD && decide (l.toNat + wd.toNat < 32)
  | .sel g d _ _ _ => g.wf && d.isD
  | .iadd64 g d a b => g.wf && d.isE && a.isS64 && b.isS64
  | .isub64 g d a b => g.wf && d.isE && a.isS64 && b.isS64
  | .shl64 g d a _ => g.wf && d.isE && a.isS64
  | .shr64 g d a _ => g.wf && d.isE && a.isS64
  | .imulw g d _ _ _ => g.wf && d.isE
  | .icmp g _ d _ _ => g.wf && d.isVp
  | .icmp64 g _ d a b => g.wf && d.isVp && a.isS64 && b.isS64
  | .fadd g rm d _ _ => g.wf && rm != .rod && d.isD
  | .fsub g rm d _ _ => g.wf && rm != .rod && d.isD
  | .fmul g rm d _ _ => g.wf && rm != .rod && d.isD
  | .ffma g rm d _ _ _ => g.wf && rm != .rod && d.isD
  | .fmin g d _ _ => g.wf && d.isD
  | .fmax g d _ _ => g.wf && d.isD
  | .frcp g d _ => g.wf && d.isD
  | .frsq g d _ => g.wf && d.isD
  | .fsqrt g rm d _ => g.wf && rm != .rod && d.isD
  | .fexp2 g d _ => g.wf && d.isD
  | .flog2 g d _ => g.wf && d.isD
  | .fsinpi g d _ => g.wf && d.isD
  | .fcospi g d _ => g.wf && d.isD
  | .fcmp g _ d _ _ => g.wf && d.isVp
  | .fclass g d _ => g.wf && d.isD
  | .fcvt g rm dt st d a => g.wf && ctOk dt st && (rm != .rod || dt == .f16 || dt == .bf16) && (if dt == .s64 || dt == .u64 then d.isE else d.isD) && (if st == .s64 || st == .u64 then a.isS64 else true)
  | .frnd g rm d _ => g.wf && rm != .rod && d.isD
  | .pkadd g rm _ d _ _ => g.wf && rm != .rod && d.isD
  | .pkmul g rm _ d _ _ => g.wf && rm != .rod && d.isD
  | .pkfma g rm _ d _ _ _ => g.wf && rm != .rod && d.isD
  | .pkdot g rm _ d _ _ _ => g.wf && rm != .rod && d.isD
  | .fcvtq g rm p _ d _ _ => g.wf && rm != .rod && decide (2 ≤ p.toNat) && decide (p.toNat ≤ 8) && d.isD
  | .plnpack g i p d _ => g.wf && decide (1 ≤ p.toNat) && decide (i.toNat ≤ p.toNat) && d.isD
  | .plnunpack g i p d _ _ => g.wf && decide (1 ≤ p.toNat) && decide (i.toNat ≤ p.toNat) && d.isD
  | .ldb g m d a _ => g.wf && m.wf && d.isD && a.isBase
  | .ldbs g m d a _ => g.wf && m.wf && d.isD && a.isBase
  | .ldh g m d a _ => g.wf && m.wf && d.isD && a.isBase
  | .ldhs g m d a _ => g.wf && m.wf && d.isD && a.isBase
  | .ldw g m d a _ => g.wf && m.wf && d.isD && a.isBase
  | .ldd g m d a _ => g.wf && m.wf && d.isE && a.isBase
  | .stb g m a _ _ => g.wf && m.wf && a.isBase
  | .sth g m a _ _ => g.wf && m.wf && a.isBase
  | .stw g m a _ _ => g.wf && m.wf && a.isBase
  | .std g m a _ c => g.wf && m.wf && a.isBase && c.isS64
  | .lds g m d _ _ => g.wf && m.wfH && d.isD
  | .sts g m _ _ _ => g.wf && m.wfH
  | .stx g m _ _ _ => g.wf && m.wfH
  | .ldp g m d _ _ => g.wf && m.wfH && d.isD
  | .stp g m _ _ _ => g.wf && m.wfH
  | .pref g m a _ => g.wf && m.wf && a.isBase
  | .aadd g m d a _ _ => g.wf && m.wf && d.isD && a.isBase
  | .amin g m d a _ _ => g.wf && m.wf && d.isD && a.isBase
  | .amax g m d a _ _ => g.wf && m.wf && d.isD && a.isBase
  | .aumin g m d a _ _ => g.wf && m.wf && d.isD && a.isBase
  | .aumax g m d a _ _ => g.wf && m.wf && d.isD && a.isBase
  | .aand g m d a _ _ => g.wf && m.wf && d.isD && a.isBase
  | .aor g m d a _ _ => g.wf && m.wf && d.isD && a.isBase
  | .axor g m d a _ _ => g.wf && m.wf && d.isD && a.isBase
  | .axchg g m d a _ _ => g.wf && m.wf && d.isD && a.isBase
  | .aaddf g m d a _ _ => g.wf && m.wf && d.isD && a.isBase
  | .acas g m _ a _ _ => g.wf && m.wf && a.isBase
  | .acas64 g m v a _ c => g.wf && m.wf && v.toNat % 2 == 0 && a.isBase && c.toNat % 2 == 0
  | .acas128 g m v a _ c => g.wf && m.wf && v.toNat % 4 == 0 && a.isBase && c.toNat % 4 == 0
  | .pand g d _ _ => g.wf && d != 0#3
  | .por g d _ _ => g.wf && d != 0#3
  | .pxor g d _ _ => g.wf && d != 0#3
  | .pandn g d _ _ => g.wf && d != 0#3
  | .pset g d _ => g.wf && d != 0#3
  | .ballot g d _ => g.wf && d.isD
  | .pvote g _ d _ => g.wf && d != 0#3
  | .pret g _ _ => g.wf
  | .xl g _ d _ _ => g.wf && d.isD
  | .scan g _ _ d _ => g.wf && d.isD
  | .reduce g _ d _ => g.wf && d.isD
  | .compact g d _ _ => g.wf && d.isD
  | .exit g => g.wf
  | .mma g _ _ _ _ _ => g.wf
  | .mzero g _ => g.wf
  | .mrd g d _ _ => g.wf && d.isD
  | .mwr g _ _ _ => g.wf
  | .mscat g rm _ _ fm => g.wf && (rm != .rod || fm != .f32)
  | .mver g d _ => g.wf && d.isD
  | .rebal g d _ _ _ => g.wf && d.isE
  | .lbound g d _ _ _ => g.wf && d.isD
  | .wait g _ _ _ _ => g.wf
  | .fence g s => g.wf && s != 3#2
  | .nbarriveLane g _ => g.wf
  | .nbwaitLane g _ => g.wf
  | .xmit g _ p => g.wf && decide (p.toNat < 6)
  | .xsel g d p _ => g.wf && d.isV && decide (p.toNat < 6)
  | .xselF g d p p2 _ => g.wf && d.isV && decide (p.toNat < 6) && decide (p2.toNat < 6)
  | .tmarkLane g _ => g.wf
  | .brk g _ => g.wf
  | .cntr g d _ => g.wf && d.isD
  | .unassignedLaneOpcode _ => false
  -- engine words
  | .shli n => decide (n.toNat < 64)
  | .mode rm _ => decide (rm.toNat < 4)
  | .accst _ f => f != 3#2
  | .accld _ f => f != 3#2
  | .rdlim d => decide (1 ≤ d.toNat) && decide (d.toNat < 64)
  -- steps
  | .dispatch h c => ctxOk h c
  | .copyRecordDispatch p e => partOk p && decide (e < 256)
  | .copyRecordComplete e => decide (e < 256)
  | .joinDecrement p => partOk p
  | .fanoutWalk p => partOk p
  | .readyPush p level => partOk p && decide (level < 256)
  | .blockTake h g => ctxOk h g
  | .ksetApply h g => ctxOk h g
  | .windowChangeApply h g => ctxOk h g
  | .passStart h g => ctxOk h g
  | .fixedLatencyWriteback h g => ctxOk h g
  | .laneLoadComplete h g _ => ctxOk h g
  | .oqLoadPush h g _ => ctxOk h g
  | .laneStoreComplete h g _ => ctxOk h g
  | .tileOpComplete h g => ctxOk h g
  | .tileOpStart h g => ctxOk h g
  | .prqPush h g => ctxOk h g
  | .phaseBlockStart h g => ctxOk h g
  | .bqEntryOtherKind h g => ctxOk h g
  | .engineTurn h e => hearthOk h && decide (e < 4)
  | .preemptStop h c => ctxOk h c
  | .kill p h c => partOk p && ctxOk h c
  | .killDone p h c => partOk p && ctxOk h c
  | .debugHalt h c => ctxOk h c
  | .haltReached h c => ctxOk h c
  | .debugResume h c => ctxOk h c
  | .debugStep h c => ctxOk h c
  | .posSample h c => ctxOk h c
  | .traceBaseWrite h c _ => ctxOk h c
  | .traceLossResync h c => ctxOk h c
  | .clockStepChange h => hearthOk h
  | .exchangeWindowSettingArrive h => hearthOk h
  | .gccResync d => decide (d < 4)
  | .zcmd d n => decide (d < 4) && decide (1 ≤ n) && decide (n < 2 ^ 32)
  | .zeroComplete d => decide (d < 4)
  | .sweeperStep d => decide (d < 4)
  | .rasClear d => decide (d < 4)
  | .sliceRebase home => decide (home < 48)
  | .causewayRelease ch => decide (ch < 384)
  | .reductionRelease ch => decide (ch < 384)
  | .broadcastArrive ch => decide (ch < 384)
  | .bcastHeldSend ch => decide (ch < 384)
  | .exchangeSwap ch => decide (ch < 384)
  | .phaseEnd ch => decide (ch < 384)
  | .phaseAbort ch => decide (ch < 384)
  | .invcmdRange p n => partOk p && decide (1 ≤ n) && decide (n < 2 ^ 32)
  | .qpload q => decide (q < 4096)
  | .qpSendDoorbell q => decide (q < 4096)
  | .qpReceiveDoorbell q => decide (q < 4096)
  | .qpEntryComplete q _ _ => decide (q < 4096)
  | .qpRetryTimeout q => decide (q < 4096)
  -- every other form is admitted with every value of its operands
  | .bemit _ _ _ => true
  | .bemitRl _ _ _ => true
  | .kset _ _ => true
  | .bwin _ => true
  | .bcancel _ _ => true
  | .ppop _ => true
  | .ppopAq _ => true
  | .ptry _ => true
  | .pflush _ => true
  | .bseq _ => true
  | .bqdrain => true
  | .split _ _ => true
  | .merge => true
  | .esend _ _ _ => true
  | .erun _ _ => true
  | .cmprd _ _ => true
  | .cmpwait _ _ => true
  | .cmpdisc _ _ => true
  | .publish _ _ => true
  | .efence _ => true
  | .tspawn _ => true
  | .tjoin _ => true
  | .tdone => true
  | .tyield _ => true
  | .tself _ => true
  | .nbinit _ _ => true
  | .nbarrive _ => true
  | .nbwait _ _ => true
  | .nbinval _ => true
  | .nbstat _ _ => true
  | .cwarrive _ => true
  | .cwwait _ => true
  | .cwbcast _ _ => true
  | .cwrecv _ _ => true
  | .cwrsum _ _ _ => true
  | .cwrmin _ _ _ => true
  | .cwrmax _ _ _ => true
  | .sstep _ => true
  | .tmark _ => true
  | .lrSc _ => true
  | .rvFence => true
  | .fenceI => true
  | .rvBranch _ _ _ _ => true
  | .jalr _ _ _ => true
  | .ebreak => true
  | .ecall => true
  | .litPush _ => true
  | .litContinue _ => true
  | .engineNop => true
  | .dup => true
  | .drop => true
  | .swap => true
  | .over => true
  | .neg => true
  | .add => true
  | .gccp _ => true
  | .post _ => true
  | .arrive _ => true
  | .efenceWord => true
  | .accclr _ => true
  | .vmode _ => true
  | .spgemm => true
  | .fibre => true
  | .cpy => true
  | .srct => true
  | .dstt => true
  | .box _ => true
  | .tcpy => true
  | .tgath _ => true
  | .tscat _ => true
  | .bloadb => true
  | .slred => true
  | .zero => true
  | .xch => true
  | .strm _ => true
  | .strmt _ => true
  | .ostrm _ => true
  | .scloseIq _ => true
  | .scloseOq _ => true
  | .rvtab => true
  | .rxin _ => true
  | .rprog => true
  | .ryout => true
  | .reval _ => true
  | .stxArrive _ => true
  | .scriptFetchAppend _ => true
  | .copyCommandStart _ => true
  | .commandElementFault _ _ => true
  | .engineCommandComplete _ _ => true
  | .markerPerform _ => true
  | .streamOpen _ _ => true
  | .streamElement _ _ => true
  | .xmitBeatArrive _ => true
  | .sluiceSegmentEmit _ _ _ => true
  | .sluiceRootStore _ _ => true
  | .publishFlip _ _ => true
  | .preemptSignal _ => true
  | .trapRecordWrite _ => true
  | .faultEntryWrite _ => true
  | .watchdogExpire _ => true
  | .pageWalk _ => true
  | .rd _ => true
  | .rnw _ => true
  | .wr _ => true
  | .wb _ => true
  | .at_ _ => true
  | .dat _ => true
  | .rnwok _ => true
  | .wack _ => true
  | .nack _ => true
  | .err _ => true
  | .rec_ _ => true
  | .trec _ => true
  | .zrec _ => true
  | .pack _ => true
  | .fillReturn _ _ => true
  | .l2Evict _ => true
  | .birsp _ _ => true
  | .hostSnoop _ => true
  | .hostCxlMemAccess _ _ => true
  | .bar1Access _ _ _ => true
  | .atsCompletion _ _ _ _ _ => true
  | .atsInvalidate _ _ _ => true
  | .prgSuccess _ => true
  | .prgInvalidRequest _ => true
  | .prgResponseFailure _ => true
  | .pcieAtomicCompletion _ _ => true
  | .flitError _ _ _ => true
  | .launchPush _ _ => true
  | .launchClear _ => true
  | .partitionStart _ => true
  | .partitionStop _ => true
  | .partitionDrainDone _ => true
  | .pstepWrite _ _ _ => true
  | .tactResume _ _ => true
  | .tactKillContext _ _ => true
  | .tactKillPartition _ _ => true
  | .tactDump _ _ _ => true
  | .killAll _ => true
  | .invcmdPartition _ => true
  | .invcmdTensor _ _ => true
  | .invalidationComplete _ => true
  | .replay _ _ => true
  | .replayRefuse _ _ => true
  | .budgetPeriod => true
  | .roceSendReceive _ _ => true
  | .roceWriteReceive _ _ _ _ => true
  | .roceReadReceive _ _ _ _ => true
  | .peerRequest _ => true
  | .peerRefusal _ _ => true
  | .mbReadCert => true
  | .mbAttest => true
  | .mbStageRecord => true
  | .boot _ => true
  | .powerLoss _ => true
  | .correctedError _ _ _ => true
  | .uncorrectableError _ _ _ => true
  | .retirement _ _ _ => true
  | .rowSpareComplete _ _ _ => true
  | .powerTick _ _ => true
  | .thermalEvent _ => true
  | .registerWrite _ _ _ => true
  | .programTimestampWaitEnd _ => true
  | .linkFailure _ => true
  | .peerResponse _ _ _ => true
  | .pcieCompletion _ _ _ => true
  | .pfcPauseFrame _ _ _ => true

end Sys2Proof
end

