-- ==== Sys2Proof/Decode.lean ====
section
/-! DEFINITION. Decoding and encoding of the three kinds of code (spec/06): 64-bit lane words, 32-bit control words (and the
16-bit forms of the C extension), 16-bit engine words. Decoding is total: a pattern that is no instruction is refused by name. -/

namespace Sys2Proof

/-! ## Lane words (R130-R138) -/

/-- The eight fields of a lane word (R130). -/
structure LaneFields where
  op : BitVec 8 := 0
  g : BitVec 4 := 0
  m : BitVec 4 := 0
  d : BitVec 8 := 0
  a : BitVec 8 := 0
  b : BitVec 8 := 0
  c : BitVec 8 := 0
  x : BitVec 16 := 0
deriving DecidableEq, Repr

/-- The fields of a word (R130). -/
def laneFields (w : BitVec 64) : LaneFields where
  op := w.extractLsb' 56 8
  g := w.extractLsb' 52 4
  m := w.extractLsb' 48 4
  d := w.extractLsb' 40 8
  a := w.extractLsb' 32 8
  b := w.extractLsb' 24 8
  c := w.extractLsb' 16 8
  x := w.extractLsb' 0 16

/-- The word of the fields (R130). -/
def lanePack (f : LaneFields) : BitVec 64 := f.op ++ f.g ++ f.m ++ f.d ++ f.a ++ f.b ++ f.c ++ f.x

/-- Why a lane word is no instruction (R138); each raises the encoding trap 0x01. -/
inductive LaneError where
  /-- a code outside its field's class, a non-zero reserved field or a reserved subfield value -/
  | badField
deriving DecidableEq, Repr

/-- A reserved field (class rsv, R135). -/
def z4 (x : BitVec 4) : Option Unit := if x = 0#4 then some () else none
/-- A reserved field (class rsv, R135). -/
def z8 (x : BitVec 8) : Option Unit := if x = 0#8 then some () else none
/-- A reserved field (class rsv, R135). -/
def z16 (x : BitVec 16) : Option Unit := if x = 0#16 then some () else none

/-- The guard of code G (R130). -/
def guardOf (g : BitVec 4) : Guard :=
  if g = 0#4 then .none else if g.getLsbD 3 then .st (g.extractLsb' 0 3) else .p (g.extractLsb' 0 3)

/-- The code of a guard (R130). -/
def guardCode : Guard → BitVec 4
  | .none => 0#4
  | .p i => 0#1 ++ i
  | .st i => 1#1 ++ i

/-- The source operand of a code (R132). -/
def srcOf (c : BitVec 8) : Option Src :=
  let n := c.toNat
  if n < 0x80 then some (.v (c.extractLsb' 0 7))
  else if n < 0x88 then some (.p (c.extractLsb' 0 3))
  else if n < 0x90 then some (.iqPop (c.extractLsb' 0 3))
  else if n < 0x98 then some (.iqPeek (c.extractLsb' 0 3))
  else if n < 0xA0 then none
  else if n < 0xB0 then some (.k (c.extractLsb' 0 4))
  else if n = 0xB0 then some .lane
  else if n = 0xB1 then some .grp
  else if n = 0xB2 then some .hearth
  else if n = 0xB3 then some .pass
  else if n = 0xB4 then some .trip
  else if n = 0xB6 then some .gcclo
  else if n = 0xB7 then some .seq
  else if n = 0xB8 then some .fflags
  else if n < 0xC0 then none
  else some (.imm (c.extractLsb' 0 6))

/-- The code of a source operand (R132). -/
def srcCode : Src → BitVec 8
  | .v i => 0#1 ++ i
  | .p i => 0b10000#5 ++ i
  | .iqPop q => 0b10001#5 ++ q
  | .iqPeek q => 0b10010#5 ++ q
  | .k i => 0xA#4 ++ i
  | .lane => 0xB0
  | .grp => 0xB1
  | .hearth => 0xB2
  | .pass => 0xB3
  | .trip => 0xB4
  | .gcclo => 0xB6
  | .seq => 0xB7
  | .fflags => 0xB8
  | .imm i => 0b11#2 ++ i

/-- The destination operand of a code (R134). -/
def dstOf (c : BitVec 8) : Option Dst :=
  let n := c.toNat
  if n < 0x80 then some (.v (c.extractLsb' 0 7))
  else if n = 0x80 then none
  else if n < 0x88 then some (.p (c.extractLsb' 0 3))
  else if n < 0x8C then some (.oq (c.extractLsb' 0 2))
  else if n = 0x8C then some .fflags
  else if n = 0xFF then some .discard
  else none

/-- The code of a destination operand (R134). -/
def dstCode : Dst → BitVec 8
  | .v i => 0#1 ++ i
  | .p i => 0b10000#5 ++ i
  | .oq q => 0b100010#6 ++ q
  | .fflags => 0x8C
  | .discard => 0xFF

/-- An optional value kept when a test holds. -/
def keep {α : Type} (f : α → Bool) : Option α → Option α
  | some a => if f a then some a else none
  | none => none

/-- Class s64 (R135). -/
def srcS64 (c : BitVec 8) : Option Src := keep Src.isS64 (srcOf c)
/-- Class base (R135). -/
def srcBase (c : BitVec 8) : Option Src := keep Src.isBase (srcOf c)
/-- Class d (R135). -/
def dstD (c : BitVec 8) : Option Dst := keep Dst.isD (dstOf c)
/-- Class vp (R135). -/
def dstVp (c : BitVec 8) : Option Dst := keep Dst.isVp (dstOf c)
/-- Class e as a destination (R135). -/
def dstE (c : BitVec 8) : Option Dst := keep Dst.isE (dstOf c)
/-- A v register or discard (R137, XSEL). -/
def dstV (c : BitVec 8) : Option Dst := keep Dst.isV (dstOf c)
/-- Class v (R135). -/
def vOf (c : BitVec 8) : Option (BitVec 7) := if c.getLsbD 7 then none else some (c.extractLsb' 0 7)
/-- Class e without discard (R135). -/
def veOf (c : BitVec 8) : Option (BitVec 7) := keep (fun v => v.toNat % 2 == 0) (vOf c)
/-- Class q (R135). -/
def vqOf (c : BitVec 8) : Option (BitVec 7) := keep (fun v => v.toNat % 4 == 0) (vOf c)
/-- Class pp (R135). -/
def ppOf (c : BitVec 8) : Option (BitVec 3) := if c.extractLsb' 3 5 = 0b10000#5 then some (c.extractLsb' 0 3) else none
/-- The code of a predicate. -/
def ppCode (i : BitVec 3) : BitVec 8 := 0b10000#5 ++ i
/-- Class p as a destination (R135). -/
def pdOf (c : BitVec 8) : Option (BitVec 3) := keep (fun i => i != 0#3) (ppOf c)
/-- Class k (R135). -/
def kOf (c : BitVec 8) : Option (BitVec 4) := if c.extractLsb' 4 4 = 0xA#4 then some (c.extractLsb' 0 4) else none
/-- Class bank (R135). -/
def bankOf (c : BitVec 8) : Option (BitVec 2) := if c.extractLsb' 2 6 = 0#6 then some (c.extractLsb' 0 2) else none

/-- RM in M (R136, R82). -/
def rmOf (m : BitVec 4) : Option Rm :=
  if m = 0#4 then some .rne else if m = 1#4 then some .rtz else if m = 2#4 then some .rdn
  else if m = 3#4 then some .rup else if m = 4#4 then some .rod else none
/-- The code of a rounding mode (R82). -/
def rmCode : Rm → BitVec 4
  | .rne => 0 | .rtz => 1 | .rdn => 2 | .rup => 3 | .rod => 4
/-- ROD only where a narrowing conversion admits it (R82). -/
def rodOnly (rm : Rm) (narrowing : Bool) : Option Unit := if rm == .rod && !narrowing then none else some ()
/-- U in M (R136). -/
def uOf (m : BitVec 4) : Option Bool := if m = 0#4 then some false else if m = 1#4 then some true else none
/-- IC in M (R136). -/
def icOf (m : BitVec 4) : Option IntCond :=
  if m = 0#4 then some .eq else if m = 1#4 then some .ne else if m = 2#4 then some .lt
  else if m = 3#4 then some .ge else if m = 4#4 then some .ltu else if m = 5#4 then some .geu else none
/-- The code of an integer condition (R136). -/
def icCode : IntCond → BitVec 4
  | .eq => 0 | .ne => 1 | .lt => 2 | .ge => 3 | .ltu => 4 | .geu => 5
/-- FC in M (R136). -/
def fcOf (m : BitVec 4) : Option FloatCond :=
  if m = 0#4 then some .eq else if m = 1#4 then some .lt else if m = 2#4 then some .le
  else if m = 3#4 then some .un else if m = 4#4 then some .ne else none
/-- The code of a float condition (R136). -/
def fcCode : FloatCond → BitVec 4
  | .eq => 0 | .lt => 1 | .le => 2 | .un => 3 | .ne => 4
/-- VM in M (R136). -/
def vmOf (m : BitVec 4) : Option VoteMode :=
  if m = 0#4 then some .all else if m = 1#4 then some .any else if m = 2#4 then some .uni else none
/-- The code of a vote mode (R136). -/
def vmCode : VoteMode → BitVec 4
  | .all => 0 | .any => 1 | .uni => 2
/-- SO in M[2:0] (R136). -/
def soOf (m : BitVec 3) : ScanOp :=
  if m = 0#3 then .add else if m = 1#3 then .min else if m = 2#3 then .max else if m = 3#3 then .umin
  else if m = 4#3 then .umax else if m = 5#3 then .fadd else if m = 6#3 then .fmin else .fmax
/-- The code of a scan operation (R136). -/
def soCode : ScanOp → BitVec 3
  | .add => 0 | .min => 1 | .max => 2 | .umin => 3 | .umax => 4 | .fadd => 5 | .fmin => 6 | .fmax => 7

/-- SC and LM (R131, R136). -/
def lmSC (m : BitVec 4) (x : BitVec 16) : Option Lm :=
  if x.getLsbD 15 then none
  else keep Lm.wf (some ⟨m.extractLsb' 2 2, m.extractLsb' 0 2, x.getLsbD 14, x.extractLsb' 12 2, x.extractLsb' 0 12⟩)
/-- SH and LM (R131, R136, R56). -/
def lmSH (m : BitVec 4) (x : BitVec 16) : Option Lm := keep Lm.wfH (lmSC m x)
/-- The M field of an address form. -/
def lmM (m : Lm) : BitVec 4 := m.scope ++ m.cls
/-- The X field of an address form. -/
def lmX (m : Lm) : BitVec 16 := (((0#1 ++ BitVec.ofBool m.sx : BitVec 2) ++ m.shift : BitVec 4)) ++ m.imm

/-- HT in X (R136). -/
def htOf (x : BitVec 16) : Option Ht :=
  if x.extractLsb' 3 13 = 0#13 then some ⟨x.getLsbD 0, x.extractLsb' 1 2⟩ else none
/-- The code of a packed-half type. -/
def htCode (h : Ht) : BitVec 16 := (0#13 ++ h.bsel : BitVec 15) ++ BitVec.ofBool h.bf
/-- One type code of CT (R136). -/
def cvtOf (t : BitVec 4) : Option CvtTy :=
  if t = 0#4 then some .f32 else if t = 1#4 then some .f16 else if t = 2#4 then some .bf16 else if t = 3#4 then some .s32
  else if t = 4#4 then some .u32 else if t = 5#4 then some .s64 else if t = 6#4 then some .u64 else none
/-- The code of a conversion type (R136). -/
def cvtCode : CvtTy → BitVec 4
  | .f32 => 0 | .f16 => 1 | .bf16 => 2 | .s32 => 3 | .u32 => 4 | .s64 => 5 | .u64 => 6
/-- CT in X: destination and source type (R136). -/
def ctOf (x : BitVec 16) : Option (CvtTy × CvtTy) := do
  z8 (x.extractLsb' 8 8)
  let d ← cvtOf (x.extractLsb' 4 4)
  let s ← cvtOf (x.extractLsb' 0 4)
  if ctOk d s then some (d, s) else none
/-- The X field of a conversion. -/
def ctCode (d s : CvtTy) : BitVec 16 := (0#8 ++ cvtCode d : BitVec 12) ++ cvtCode s
/-- QP in X (R136). -/
def qpOf (x : BitVec 16) : Option (BitVec 4 × Bool) :=
  let p := x.extractLsb' 0 4
  if x.extractLsb' 5 11 = 0#11 && decide (2 ≤ p.toNat) && decide (p.toNat ≤ 8) then some (p, x.getLsbD 4) else none
/-- PL in X: plane and P - 1 (R136). -/
def plOf (x : BitVec 16) : Option (BitVec 3 × BitVec 3) :=
  let i := x.extractLsb' 0 3
  let p := x.extractLsb' 4 3
  if x.extractLsb' 7 9 = 0#9 && !x.getLsbD 3 && decide (1 ≤ p.toNat) && decide (i.toNat ≤ p.toNat) then some (i, p) else none
/-- BF in X: lsb, width - 1, SX (R136). -/
def bfOf (x : BitVec 16) : Option (BitVec 5 × BitVec 5 × Bool) :=
  let l := x.extractLsb' 0 5
  let w := x.extractLsb' 5 5
  if x.extractLsb' 11 5 = 0#5 && decide (l.toNat + w.toNat < 32) then some (l, w, x.getLsbD 10) else none
/-- The X field of BFX and BFI. -/
def bfCode (l w : BitVec 5) (sx : Bool) : BitVec 16 := ((0#5 ++ BitVec.ofBool sx : BitVec 6) ++ w : BitVec 11) ++ l
/-- An 8-bit value in X. -/
def x8Of (x : BitVec 16) : Option (BitVec 8) := if x.extractLsb' 8 8 = 0#8 then some (x.extractLsb' 0 8) else none
/-- A 4-bit value in X. -/
def x4Of (x : BitVec 16) : Option (BitVec 4) := if x.extractLsb' 4 12 = 0#12 then some (x.extractLsb' 0 4) else none
/-- A 2-bit value in X. -/
def x2Of (x : BitVec 16) : Option (BitVec 2) := if x.extractLsb' 2 14 = 0#14 then some (x.extractLsb' 0 2) else none
/-- A 1-bit value in X. -/
def x1Of (x : BitVec 16) : Option Bool := if x.extractLsb' 1 15 = 0#15 then some (x.getLsbD 0) else none
/-- AC in X for MRD and MWR: bank and column (R136). -/
def acColOf (x : BitVec 16) : Option (BitVec 2 × BitVec 5) :=
  if x.extractLsb' 7 9 = 0#9 then some (x.extractLsb' 0 2, x.extractLsb' 2 5) else none
/-- AC in X for MSCAT: bank and format (R136). -/
def acFmtOf (x : BitVec 16) : Option (BitVec 2 × AccFmt) :=
  let t := x.extractLsb' 2 2
  if x.extractLsb' 4 12 = 0#12 then
    (if t = 0#2 then some (x.extractLsb' 0 2, .f32) else if t = 1#2 then some (x.extractLsb' 0 2, .bf16)
     else if t = 2#2 then some (x.extractLsb' 0 2, .f16) else none)
  else none
/-- The X field of MSCAT. -/
def acFmtCode (k : BitVec 2) (f : AccFmt) : BitVec 16 :=
  (0#12 ++ (match f with | .f32 => 0#2 | .bf16 => 1#2 | .f16 => 2#2) : BitVec 14) ++ k
/-- PT in M: port and F (R136). -/
def portOf (m : BitVec 4) : Option (BitVec 3 × Bool) :=
  let p := m.extractLsb' 0 3
  if p.toNat < 6 then some (p, m.getLsbD 3) else none
/-- The output port of XSEL.F (R137). -/
def port2Of (c : BitVec 8) : Option (BitVec 3) :=
  let p := c.extractLsb' 0 3
  if c.extractLsb' 3 5 = 0#5 && decide (p.toNat < 6) then some p else none
/-- The scope of a lane FENCE (R137). -/
def fsOf (m : BitVec 4) : Option (BitVec 2) :=
  if m.extractLsb' 0 2 = 0#2 && m.extractLsb' 2 2 != 3#2 then some (m.extractLsb' 2 2) else none

/-- The lane instruction of the fields, by the lane opcode map (R137); `none` where a field breaks its class.
An unassigned opcode is the instruction that raises the encoding trap (R138). -/
def laneOfFields (w : BitVec 64) (f : LaneFields) : Option Instr :=
  let g := guardOf f.g
  match f.op.toNat with
  | 0x00 => do z8 f.d; z8 f.a; z8 f.b; z8 f.c; z4 f.m; z16 f.x; some (.nop g)
  | 0x01 => do z8 f.b; z8 f.c; z4 f.m; z16 f.x; let d ← dstD f.d; let a ← srcOf f.a; some (.mov g d a)
  | 0x02 => do z8 f.a; z4 f.m; let d ← dstD f.d; some (.movi g d (f.b ++ f.c ++ f.x))
  | 0x03 => do z8 f.c; z4 f.m; z16 f.x; let d ← dstD f.d; let a ← srcOf f.a; let b ← srcOf f.b; some (.iadd g d a b)
  | 0x04 => do z8 f.c; z4 f.m; z16 f.x; let d ← dstD f.d; let a ← srcOf f.a; let b ← srcOf f.b; some (.isub g d a b)
  | 0x05 => do z8 f.b; z4 f.m; let d ← dstD f.d; let a ← srcOf f.a; some (.iaddi g d a (f.c ++ f.x))
  | 0x06 => do z8 f.c; z4 f.m; z16 f.x; let d ← dstD f.d; let a ← srcOf f.a; let b ← srcOf f.b; some (.imul g d a b)
  | 0x07 => do z8 f.c; z4 f.m; z16 f.x; let d ← dstD f.d; let a ← srcOf f.a; let b ← srcOf f.b; some (.imulh g d a b)
  | 0x08 => do z8 f.c; z4 f.m; z16 f.x; let d ← dstD f.d; let a ← srcOf f.a; let b ← srcOf f.b; some (.imulhu g d a b)
  | 0x09 => do z4 f.m; z16 f.x; let d ← dstD f.d; let a ← srcOf f.a; let b ← srcOf f.b; let c ← srcOf f.c; some (.imad g d a b c)
  | 0x0A => do z8 f.c; z4 f.m; z16 f.x; let d ← dstD f.d; let a ← srcOf f.a; let b ← srcOf f.b; some (.imin g d a b)
  | 0x0B => do z8 f.c; z4 f.m; z16 f.x; let d ← dstD f.d; let a ← srcOf f.a; let b ← srcOf f.b; some (.imax g d a b)
  | 0x0C => do z8 f.c; z4 f.m; z16 f.x; let d ← dstD f.d; let a ← srcOf f.a; let b ← srcOf f.b; some (.umin g d a b)
  | 0x0D => do z8 f.c; z4 f.m; z16 f.x; let d ← dstD f.d; let a ← srcOf f.a; let b ← srcOf f.b; some (.umax g d a b)
  | 0x0E => do z8 f.b; z8 f.c; z4 f.m; z16 f.x; let d ← dstD f.d; let a ← srcOf f.a; some (.iabs g d a)
  | 0x0F => do z8 f.c; z16 f.x; let d ← dstD f.d; let a ← srcOf f.a; let b ← srcOf f.b; let u ← uOf f.m; some (.iadds g d a b u)
  | 0x10 => do z8 f.c; z4 f.m; z16 f.x; let d ← dstD f.d; let a ← srcOf f.a; let b ← srcOf f.b; some (.and g d a b)
  | 0x11 => do z8 f.c; z4 f.m; z16 f.x; let d ← dstD f.d; let a ← srcOf f.a; let b ← srcOf f.b; some (.or g d a b)
  | 0x12 => do z8 f.c; z4 f.m; z16 f.x; let d ← dstD f.d; let a ← srcOf f.a; let b ← srcOf f.b; some (.xor g d a b)
  | 0x13 => do z8 f.c; z4 f.m; z16 f.x; let d ← dstD f.d; let a ← srcOf f.a; let b ← srcOf f.b; some (.andn g d a b)
  | 0x14 => do z4 f.m; let d ← dstD f.d; let a ← srcOf f.a; let b ← srcOf f.b; let c ← srcOf f.c; let t ← x8Of f.x; some (.ltab g d a b c t)
  | 0x18 => do z8 f.c; z4 f.m; z16 f.x; let d ← dstD f.d; let a ← srcOf f.a; let b ← srcOf f.b; some (.shl g d a b)
  | 0x19 => do z8 f.c; z4 f.m; z16 f.x; let d ← dstD f.d; let a ← srcOf f.a; let b ← srcOf f.b; some (.shr g d a b)
  | 0x1A => do z8 f.c; z4 f.m; z16 f.x; let d ← dstD f.d; let a ← srcOf f.a; let b ← srcOf f.b; some (.sar g d a b)
  | 0x1B => do z8 f.c; z4 f.m; z16 f.x; let d ← dstD f.d; let a ← srcOf f.a; let b ← srcOf f.b; some (.rotl g d a b)
  | 0x1C => do z8 f.b; z8 f.c; z4 f.m; z16 f.x; let d ← dstD f.d; let a ← srcOf f.a; some (.clz g d a)
  | 0x1D => do z8 f.b; z8 f.c; z4 f.m; z16 f.x; let d ← dstD f.d; let a ← srcOf f.a; some (.popc g d a)
  | 0x1E => do z8 f.b; z8 f.c; z4 f.m; z16 f.x; let d ← dstD f.d; let a ← srcOf f.a; some (.brev g d a)
  | 0x1F => do z8 f.b; z8 f.c; z4 f.m; let d ← dstD f.d; let a ← srcOf f.a; let (l, wd, sx) ← bfOf f.x; some (.bfx g d a l wd sx)
  | 0x20 => do z8 f.c; z4 f.m; let d ← dstD f.d; let a ← srcOf f.a; let b ← srcOf f.b; let (l, wd, sx) ← bfOf f.x; (if sx then none else some ()); some (.bfi g d a b l wd)
  | 0x21 => do z4 f.m; z16 f.x; let d ← dstD f.d; let a ← srcOf f.a; let b ← srcOf f.b; let c ← ppOf f.c; some (.sel g d a b c)
  | 0x22 => do z8 f.c; z4 f.m; z16 f.x; let d ← dstE f.d; let a ← srcS64 f.a; let b ← srcS64 f.b; some (.iadd64 g d a b)
  | 0x23 => do z8 f.c; z4 f.m; z16 f.x; let d ← dstE f.d; let a ← srcS64 f.a; let b ← srcS64 f.b; some (.isub64 g d a b)
  | 0x24 => do z8 f.c; z4 f.m; z16 f.x; let d ← dstE f.d; let a ← srcS64 f.a; let b ← srcOf f.b; some (.shl64 g d a b)
  | 0x25 => do z8 f.c; z4 f.m; z16 f.x; let d ← dstE f.d; let a ← srcS64 f.a; let b ← srcOf f.b; some (.shr64 g d a b)
  | 0x26 => do z8 f.c; z16 f.x; let d ← dstE f.d; let a ← srcOf f.a; let b ← srcOf f.b; let u ← uOf f.m; some (.imulw g d a b u)
  | 0x27 => do z8 f.c; z16 f.x; let c ← icOf f.m; let d ← dstVp f.d; let a ← srcOf f.a; let b ← srcOf f.b; some (.icmp g c d a b)
  | 0x28 => do z8 f.c; z16 f.x; let c ← icOf f.m; let d ← dstVp f.d; let a ← srcS64 f.a; let b ← srcS64 f.b; some (.icmp64 g c d a b)
  | 0x40 => do z8 f.c; z16 f.x; let rm ← rmOf f.m; rodOnly rm false; let d ← dstD f.d; let a ← srcOf f.a; let b ← srcOf f.b; some (.fadd g rm d a b)
  | 0x41 => do z8 f.c; z16 f.x; let rm ← rmOf f.m; rodOnly rm false; let d ← dstD f.d; let a ← srcOf f.a; let b ← srcOf f.b; some (.fsub g rm d a b)
  | 0x42 => do z8 f.c; z16 f.x; let rm ← rmOf f.m; rodOnly rm false; let d ← dstD f.d; let a ← srcOf f.a; let b ← srcOf f.b; some (.fmul g rm d a b)
  | 0x43 => do z16 f.x; let rm ← rmOf f.m; rodOnly rm false; let d ← dstD f.d; let a ← srcOf f.a; let b ← srcOf f.b; let c ← srcOf f.c; some (.ffma g rm d a b c)
  | 0x44 => do z8 f.c; z4 f.m; z16 f.x; let d ← dstD f.d; let a ← srcOf f.a; let b ← srcOf f.b; some (.fmin g d a b)
  | 0x45 => do z8 f.c; z4 f.m; z16 f.x; let d ← dstD f.d; let a ← srcOf f.a; let b ← srcOf f.b; some (.fmax g d a b)
  | 0x47 => do z8 f.b; z8 f.c; z4 f.m; z16 f.x; let d ← dstD f.d; let a ← srcOf f.a; some (.frcp g d a)
  | 0x48 => do z8 f.b; z8 f.c; z4 f.m; z16 f.x; let d ← dstD f.d; let a ← srcOf f.a; some (.frsq g d a)
  | 0x49 => do z8 f.b; z8 f.c; z16 f.x; let rm ← rmOf f.m; rodOnly rm false; let d ← dstD f.d; let a ← srcOf f.a; some (.fsqrt g rm d a)
  | 0x4A => do z8 f.b; z8 f.c; z4 f.m; z16 f.x; let d ← dstD f.d; let a ← srcOf f.a; some (.fexp2 g d a)
  | 0x4B => do z8 f.b; z8 f.c; z4 f.m; z16 f.x; let d ← dstD f.d; let a ← srcOf f.a; some (.flog2 g d a)
  | 0x4C => do z8 f.b; z8 f.c; z4 f.m; z16 f.x; let d ← dstD f.d; let a ← srcOf f.a; some (.fsinpi g d a)
  | 0x4D => do z8 f.b; z8 f.c; z4 f.m; z16 f.x; let d ← dstD f.d; let a ← srcOf f.a; some (.fcospi g d a)
  | 0x4E => do z8 f.c; z16 f.x; let c ← fcOf f.m; let d ← dstVp f.d; let a ← srcOf f.a; let b ← srcOf f.b; some (.fcmp g c d a b)
  | 0x4F => do z8 f.b; z8 f.c; z4 f.m; z16 f.x; let d ← dstD f.d; let a ← srcOf f.a; some (.fclass g d a)
  | 0x50 => do z8 f.b; z8 f.c; let rm ← rmOf f.m; let (dt, st) ← ctOf f.x; rodOnly rm (dt == .f16 || dt == .bf16); let d ← (if dt == .s64 || dt == .u64 then dstE f.d else dstD f.d); let a ← (if st == .s64 || st == .u64 then srcS64 f.a else srcOf f.a); some (.fcvt g rm dt st d a)
  | 0x51 => do z8 f.b; z8 f.c; z16 f.x; let rm ← rmOf f.m; rodOnly rm false; let d ← dstD f.d; let a ← srcOf f.a; some (.frnd g rm d a)
  | 0x52 => do z8 f.c; let rm ← rmOf f.m; rodOnly rm false; let ht ← htOf f.x; let d ← dstD f.d; let a ← srcOf f.a; let b ← srcOf f.b; some (.pkadd g rm ht d a b)
  | 0x53 => do z8 f.c; let rm ← rmOf f.m; rodOnly rm false; let ht ← htOf f.x; let d ← dstD f.d; let a ← srcOf f.a; let b ← srcOf f.b; some (.pkmul g rm ht d a b)
  | 0x54 => do let rm ← rmOf f.m; rodOnly rm false; let ht ← htOf f.x; let d ← dstD f.d; let a ← srcOf f.a; let b ← srcOf f.b; let c ← srcOf f.c; some (.pkfma g rm ht d a b c)
  | 0x55 => do let rm ← rmOf f.m; rodOnly rm false; let ht ← htOf f.x; let d ← dstD f.d; let a ← srcOf f.a; let b ← srcOf f.b; let c ← srcOf f.c; some (.pkdot g rm ht d a b c)
  | 0x56 => do z8 f.c; let rm ← rmOf f.m; rodOnly rm false; let (p, u) ← qpOf f.x; let d ← dstD f.d; let a ← srcOf f.a; let b ← srcOf f.b; some (.fcvtq g rm p u d a b)
  | 0x57 => do z8 f.b; z8 f.c; z4 f.m; let (i, p) ← plOf f.x; let d ← dstD f.d; let a ← srcOf f.a; some (.plnpack g i p d a)
  | 0x58 => do z8 f.c; z4 f.m; let (i, p) ← plOf f.x; let d ← dstD f.d; let a ← srcOf f.a; let b ← srcOf f.b; some (.plnunpack g i p d a b)
  | 0x80 => do z8 f.c; let m ← lmSC f.m f.x; let d ← dstD f.d; let a ← srcBase f.a; let b ← srcOf f.b; some (.ldb g m d a b)
  | 0x81 => do z8 f.c; let m ← lmSC f.m f.x; let d ← dstD f.d; let a ← srcBase f.a; let b ← srcOf f.b; some (.ldbs g m d a b)
  | 0x82 => do z8 f.c; let m ← lmSC f.m f.x; let d ← dstD f.d; let a ← srcBase f.a; let b ← srcOf f.b; some (.ldh g m d a b)
  | 0x83 => do z8 f.c; let m ← lmSC f.m f.x; let d ← dstD f.d; let a ← srcBase f.a; let b ← srcOf f.b; some (.ldhs g m d a b)
  | 0x84 => do z8 f.c; let m ← lmSC f.m f.x; let d ← dstD f.d; let a ← srcBase f.a; let b ← srcOf f.b; some (.ldw g m d a b)
  | 0x85 => do z8 f.c; let m ← lmSC f.m f.x; let d ← dstE f.d; let a ← srcBase f.a; let b ← srcOf f.b; some (.ldd g m d a b)
  | 0x86 => do z8 f.d; let m ← lmSC f.m f.x; let a ← srcBase f.a; let b ← srcOf f.b; let c ← srcOf f.c; some (.stb g m a b c)
  | 0x87 => do z8 f.d; let m ← lmSC f.m f.x; let a ← srcBase f.a; let b ← srcOf f.b; let c ← srcOf f.c; some (.sth g m a b c)
  | 0x88 => do z8 f.d; let m ← lmSC f.m f.x; let a ← srcBase f.a; let b ← srcOf f.b; let c ← srcOf f.c; some (.stw g m a b c)
  | 0x89 => do z8 f.d; let m ← lmSC f.m f.x; let a ← srcBase f.a; let b ← srcOf f.b; let c ← srcS64 f.c; some (.std g m a b c)
  | 0x8A => do z8 f.c; let m ← lmSH f.m f.x; let d ← dstD f.d; let a ← srcOf f.a; let b ← srcOf f.b; some (.lds g m d a b)
  | 0x8B => do z8 f.d; let m ← lmSH f.m f.x; let a ← srcOf f.a; let b ← srcOf f.b; let c ← srcOf f.c; some (.sts g m a b c)
  | 0x8C => do z8 f.d; let m ← lmSH f.m f.x; let a ← srcOf f.a; let b ← srcOf f.b; let c ← srcOf f.c; some (.stx g m a b c)
  | 0x8D => do z8 f.c; let m ← lmSH f.m f.x; let d ← dstD f.d; let a ← srcOf f.a; let b ← srcOf f.b; some (.ldp g m d a b)
  | 0x8E => do z8 f.d; let m ← lmSH f.m f.x; let a ← srcOf f.a; let b ← srcOf f.b; let c ← srcOf f.c; some (.stp g m a b c)
  | 0x8F => do z8 f.d; z8 f.c; let m ← lmSC f.m f.x; let a ← srcBase f.a; let b ← srcOf f.b; some (.pref g m a b)
  | 0xA0 => do let m ← lmSC f.m f.x; let d ← dstD f.d; let a ← srcBase f.a; let b ← srcOf f.b; let c ← srcOf f.c; some (.aadd g m d a b c)
  | 0xA1 => do let m ← lmSC f.m f.x; let d ← dstD f.d; let a ← srcBase f.a; let b ← srcOf f.b; let c ← srcOf f.c; some (.amin g m d a b c)
  | 0xA2 => do let m ← lmSC f.m f.x; let d ← dstD f.d; let a ← srcBase f.a; let b ← srcOf f.b; let c ← srcOf f.c; some (.amax g m d a b c)
  | 0xA3 => do let m ← lmSC f.m f.x; let d ← dstD f.d; let a ← srcBase f.a; let b ← srcOf f.b; let c ← srcOf f.c; some (.aumin g m d a b c)
  | 0xA4 => do let m ← lmSC f.m f.x; let d ← dstD f.d; let a ← srcBase f.a; let b ← srcOf f.b; let c ← srcOf f.c; some (.aumax g m d a b c)
  | 0xA5 => do let m ← lmSC f.m f.x; let d ← dstD f.d; let a ← srcBase f.a; let b ← srcOf f.b; let c ← srcOf f.c; some (.aand g m d a b c)
  | 0xA6 => do let m ← lmSC f.m f.x; let d ← dstD f.d; let a ← srcBase f.a; let b ← srcOf f.b; let c ← srcOf f.c; some (.aor g m d a b c)
  | 0xA7 => do let m ← lmSC f.m f.x; let d ← dstD f.d; let a ← srcBase f.a; let b ← srcOf f.b; let c ← srcOf f.c; some (.axor g m d a b c)
  | 0xA8 => do let m ← lmSC f.m f.x; let d ← dstD f.d; let a ← srcBase f.a; let b ← srcOf f.b; let c ← srcOf f.c; some (.axchg g m d a b c)
  | 0xAC => do let m ← lmSC f.m f.x; let d ← dstD f.d; let a ← srcBase f.a; let b ← srcOf f.b; let c ← srcOf f.c; some (.aaddf g m d a b c)
  | 0xA9 => do let m ← lmSC f.m f.x; let v ← vOf f.d; let a ← srcBase f.a; let b ← srcOf f.b; let c ← srcOf f.c; some (.acas g m v a b c)
  | 0xAA => do let m ← lmSC f.m f.x; let v ← veOf f.d; let a ← srcBase f.a; let b ← srcOf f.b; let c ← veOf f.c; some (.acas64 g m v a b c)
  | 0xAB => do let m ← lmSC f.m f.x; let v ← vqOf f.d; let a ← srcBase f.a; let b ← srcOf f.b; let c ← vqOf f.c; some (.acas128 g m v a b c)
  | 0xB0 => do z8 f.c; z4 f.m; z16 f.x; let d ← pdOf f.d; let a ← ppOf f.a; let b ← ppOf f.b; some (.pand g d a b)
  | 0xB1 => do z8 f.c; z4 f.m; z16 f.x; let d ← pdOf f.d; let a ← ppOf f.a; let b ← ppOf f.b; some (.por g d a b)
  | 0xB2 => do z8 f.c; z4 f.m; z16 f.x; let d ← pdOf f.d; let a ← ppOf f.a; let b ← ppOf f.b; some (.pxor g d a b)
  | 0xB3 => do z8 f.c; z4 f.m; z16 f.x; let d ← pdOf f.d; let a ← ppOf f.a; let b ← ppOf f.b; some (.pandn g d a b)
  | 0xB4 => do z8 f.b; z8 f.c; z4 f.m; z16 f.x; let d ← pdOf f.d; let a ← srcOf f.a; some (.pset g d a)
  | 0xB5 => do z8 f.b; z8 f.c; z4 f.m; z16 f.x; let d ← dstD f.d; let a ← ppOf f.a; some (.ballot g d a)
  | 0xB6 => do z8 f.b; z8 f.c; z16 f.x; let m ← vmOf f.m; let d ← pdOf f.d; let a ← ppOf f.a; some (.pvote g m d a)
  | 0xB7 => do z8 f.d; z8 f.b; z8 f.c; z4 f.m; let a ← ppOf f.a; let t ← x8Of f.x; some (.pret g a t)
  | 0xB8 => do z8 f.c; z4 f.m; let o ← x1Of f.x; let d ← dstD f.d; let a ← srcOf f.a; let b ← srcOf f.b; some (.xl g o d a b)
  | 0xB9 => do z8 f.b; z8 f.c; z16 f.x; let d ← dstD f.d; let a ← srcOf f.a; some (.scan g (soOf (f.m.extractLsb' 0 3)) (f.m.getLsbD 3) d a)
  | 0xBA => do z8 f.b; z8 f.c; z16 f.x; (if f.m.getLsbD 3 then none else some ()); let d ← dstD f.d; let a ← srcOf f.a; some (.reduce g (soOf (f.m.extractLsb' 0 3)) d a)
  | 0xBB => do z8 f.c; z4 f.m; z16 f.x; let d ← dstD f.d; let a ← srcOf f.a; let b ← ppOf f.b; some (.compact g d a b)
  | 0xBE => do z8 f.d; z8 f.a; z8 f.b; z8 f.c; z4 f.m; z16 f.x; some (.exit g)
  | 0xC0 => do z4 f.m; let k ← bankOf f.d; let a ← vOf f.a; let b ← vOf f.b; let c ← kOf f.c; some (.mma g k a b c f.x)
  | 0xC1 => do z8 f.a; z8 f.b; z8 f.c; z4 f.m; z16 f.x; let k ← bankOf f.d; some (.mzero g k)
  | 0xC2 => do z8 f.a; z8 f.b; z8 f.c; z4 f.m; let d ← dstD f.d; let (k, cl) ← acColOf f.x; some (.mrd g d k cl)
  | 0xC3 => do z8 f.d; z8 f.b; z8 f.c; z4 f.m; let a ← srcOf f.a; let (k, cl) ← acColOf f.x; some (.mwr g a k cl)
  | 0xC4 => do z8 f.d; z8 f.b; z8 f.c; let a ← srcOf f.a; let rm ← rmOf f.m; let (k, fm) ← acFmtOf f.x; rodOnly rm (fm != .f32); some (.mscat g rm a k fm)
  | 0xC5 => do z8 f.a; z8 f.b; z8 f.c; z4 f.m; let d ← dstD f.d; let k ← x2Of f.x; some (.mver g d k)
  | 0xD0 => do z4 f.m; z16 f.x; let d ← dstE f.d; let a ← srcOf f.a; let b ← srcOf f.b; let c ← kOf f.c; some (.rebal g d a b c)
  | 0xD1 => do z4 f.m; z16 f.x; let d ← dstD f.d; let a ← srcOf f.a; let b ← srcOf f.b; let c ← srcOf f.c; some (.lbound g d a b c)
  | 0xE0 => do z8 f.d; z8 f.a; z8 f.b; z8 f.c; z4 f.m; some (.wait g (f.x.extractLsb' 12 4) (f.x.extractLsb' 8 4) (f.x.extractLsb' 4 4) (f.x.extractLsb' 0 4))
  | 0xE1 => do z8 f.d; z8 f.a; z8 f.b; z8 f.c; z16 f.x; let s ← fsOf f.m; some (.fence g s)
  | 0xE3 => do z8 f.d; z8 f.a; z8 f.b; z8 f.c; z4 f.m; let n ← x4Of f.x; some (.nbarriveLane g n)
  | 0xE4 => do z8 f.d; z8 f.a; z8 f.b; z8 f.c; z4 f.m; let n ← x4Of f.x; some (.nbwaitLane g n)
  | 0xE5 => do z8 f.d; z8 f.b; z8 f.c; z16 f.x; let a ← vOf f.a; let (p, far) ← portOf f.m; (if far then none else some ()); some (.xmit g a p)
  | 0xE6 => do z8 f.a; z8 f.b; let d ← dstV f.d; let (p, far) ← portOf f.m; if far then (do let p2 ← port2Of f.c; some (.xselF g d p p2 f.x)) else (do z8 f.c; some (.xsel g d p f.x))
  | 0xF0 => do z8 f.d; z8 f.a; z8 f.b; z8 f.c; z4 f.m; some (.tmarkLane g f.x)
  | 0xF1 => do z8 f.d; z8 f.a; z8 f.b; z8 f.c; z4 f.m; some (.brk g f.x)
  | 0xF2 => do z8 f.a; z8 f.b; z8 f.c; z4 f.m; let d ← dstD f.d; let n ← x4Of f.x; some (.cntr g d n)
  | _ => some (.unassignedLaneOpcode w)

/-- The lane instruction of a word (R130, R137, R138). -/
def decodeLane (w : BitVec 64) : Except LaneError Instr :=
  match laneOfFields w (laneFields w) with
  | some i => .ok i
  | none => .error .badField

/-- The fields of a lane instruction (R137). -/
def laneEncFields : Instr → Option LaneFields
  | .nop g => some { op := 0x00, g := guardCode g }
  | .mov g d a => some { op := 0x01, g := guardCode g, d := dstCode d, a := srcCode a }
  | .movi g d imm => some { op := 0x02, g := guardCode g, d := dstCode d, b := imm.extractLsb' 24 8, c := imm.extractLsb' 16 8, x := imm.extractLsb' 0 16 }
  | .iadd g d a b => some { op := 0x03, g := guardCode g, d := dstCode d, a := srcCode a, b := srcCode b }
  | .isub g d a b => some { op := 0x04, g := guardCode g, d := dstCode d, a := srcCode a, b := srcCode b }
  | .iaddi g d a imm => some { op := 0x05, g := guardCode g, d := dstCode d, a := srcCode a, c := imm.extractLsb' 16 8, x := imm.extractLsb' 0 16 }
  | .imul g d a b => some { op := 0x06, g := guardCode g, d := dstCode d, a := srcCode a, b := srcCode b }
  | .imulh g d a b => some { op := 0x07, g := guardCode g, d := dstCode d, a := srcCode a, b := srcCode b }
  | .imulhu g d a b => some { op := 0x08, g := guardCode g, d := dstCode d, a := srcCode a, b := srcCode b }
  | .imad g d a b c => some { op := 0x09, g := guardCode g, d := dstCode d, a := srcCode a, b := srcCode b, c := srcCode c }
  | .imin g d a b => some { op := 0x0A, g := guardCode g, d := dstCode d, a := srcCode a, b := srcCode b }
  | .imax g d a b => some { op := 0x0B, g := guardCode g, d := dstCode d, a := srcCode a, b := srcCode b }
  | .umin g d a b => some { op := 0x0C, g := guardCode g, d := dstCode d, a := srcCode a, b := srcCode b }
  | .umax g d a b => some { op := 0x0D, g := guardCode g, d := dstCode d, a := srcCode a, b := srcCode b }
  | .iabs g d a => some { op := 0x0E, g := guardCode g, d := dstCode d, a := srcCode a }
  | .iadds g d a b u => some { op := 0x0F, g := guardCode g, d := dstCode d, a := srcCode a, b := srcCode b, m := (BitVec.ofBool u).zeroExtend 4 }
  | .and g d a b => some { op := 0x10, g := guardCode g, d := dstCode d, a := srcCode a, b := srcCode b }
  | .or g d a b => some { op := 0x11, g := guardCode g, d := dstCode d, a := srcCode a, b := srcCode b }
  | .xor g d a b => some { op := 0x12, g := guardCode g, d := dstCode d, a := srcCode a, b := srcCode b }
  | .andn g d a b => some { op := 0x13, g := guardCode g, d := dstCode d, a := srcCode a, b := srcCode b }
  | .ltab g d a b c t => some { op := 0x14, g := guardCode g, d := dstCode d, a := srcCode a, b := srcCode b, c := srcCode c, x := t.zeroExtend 16 }
  | .shl g d a b => some { op := 0x18, g := guardCode g, d := dstCode d, a := srcCode a, b := srcCode b }
  | .shr g d a b => some { op := 0x19, g := guardCode g, d := dstCode d, a := srcCode a, b := srcCode b }
  | .sar g d a b => some { op := 0x1A, g := guardCode g, d := dstCode d, a := srcCode a, b := srcCode b }
  | .rotl g d a b => some { op := 0x1B, g := guardCode g, d := dstCode d, a := srcCode a, b := srcCode b }
  | .clz g d a => some { op := 0x1C, g := guardCode g, d := dstCode d, a := srcCode a }
  | .popc g d a => some { op := 0x1D, g := guardCode g, d := dstCode d, a := srcCode a }
  | .brev g d a => some { op := 0x1E, g := guardCode g, d := dstCode d, a := srcCode a }
  | .bfx g d a l wd sx => some { op := 0x1F, g := guardCode g, d := dstCode d, a := srcCode a, x := bfCode l wd sx }
  | .bfi g d a b l wd => some { op := 0x20, g := guardCode g, d := dstCode d, a := srcCode a, b := srcCode b, x := bfCode l wd false }
  | .sel g d a b c => some { op := 0x21, g := guardCode g, d := dstCode d, a := srcCode a, b := srcCode b, c := ppCode c }
  | .iadd64 g d a b => some { op := 0x22, g := guardCode g, d := dstCode d, a := srcCode a, b := srcCode b }
  | .isub64 g d a b => some { op := 0x23, g := guardCode g, d := dstCode d, a := srcCode a, b := srcCode b }
  | .shl64 g d a b => some { op := 0x24, g := guardCode g, d := dstCode d, a := srcCode a, b := srcCode b }
  | .shr64 g d a b => some { op := 0x25, g := guardCode g, d := dstCode d, a := srcCode a, b := srcCode b }
  | .imulw g d a b u => some { op := 0x26, g := guardCode g, d := dstCode d, a := srcCode a, b := srcCode b, m := (BitVec.ofBool u).zeroExtend 4 }
  | .icmp g c d a b => some { op := 0x27, g := guardCode g, m := icCode c, d := dstCode d, a := srcCode a, b := srcCode b }
  | .icmp64 g c d a b => some { op := 0x28, g := guardCode g, m := icCode c, d := dstCode d, a := srcCode a, b := srcCode b }
  | .fadd g rm d a b => some { op := 0x40, g := guardCode g, m := rmCode rm, d := dstCode d, a := srcCode a, b := srcCode b }
  | .fsub g rm d a b => some { op := 0x41, g := guardCode g, m := rmCode rm, d := dstCode d, a := srcCode a, b := srcCode b }
  | .fmul g rm d a b => some { op := 0x42, g := guardCode g, m := rmCode rm, d := dstCode d, a := srcCode a, b := srcCode b }
  | .ffma g rm d a b c => some { op := 0x43, g := guardCode g, m := rmCode rm, d := dstCode d, a := srcCode a, b := srcCode b, c := srcCode c }
  | .fmin g d a b => some { op := 0x44, g := guardCode g, d := dstCode d, a := srcCode a, b := srcCode b }
  | .fmax g d a b => some { op := 0x45, g := guardCode g, d := dstCode d, a := srcCode a, b := srcCode b }
  | .frcp g d a => some { op := 0x47, g := guardCode g, d := dstCode d, a := srcCode a }
  | .frsq g d a => some { op := 0x48, g := guardCode g, d := dstCode d, a := srcCode a }
  | .fsqrt g rm d a => some { op := 0x49, g := guardCode g, m := rmCode rm, d := dstCode d, a := srcCode a }
  | .fexp2 g d a => some { op := 0x4A, g := guardCode g, d := dstCode d, a := srcCode a }
  | .flog2 g d a => some { op := 0x4B, g := guardCode g, d := dstCode d, a := srcCode a }
  | .fsinpi g d a => some { op := 0x4C, g := guardCode g, d := dstCode d, a := srcCode a }
  | .fcospi g d a => some { op := 0x4D, g := guardCode g, d := dstCode d, a := srcCode a }
  | .fcmp g c d a b => some { op := 0x4E, g := guardCode g, m := fcCode c, d := dstCode d, a := srcCode a, b := srcCode b }
  | .fclass g d a => some { op := 0x4F, g := guardCode g, d := dstCode d, a := srcCode a }
  | .fcvt g rm dt st d a => some { op := 0x50, g := guardCode g, m := rmCode rm, x := ctCode dt st, d := dstCode d, a := srcCode a }
  | .frnd g rm d a => some { op := 0x51, g := guardCode g, m := rmCode rm, d := dstCode d, a := srcCode a }
  | .pkadd g rm ht d a b => some { op := 0x52, g := guardCode g, m := rmCode rm, x := htCode ht, d := dstCode d, a := srcCode a, b := srcCode b }
  | .pkmul g rm ht d a b => some { op := 0x53, g := guardCode g, m := rmCode rm, x := htCode ht, d := dstCode d, a := srcCode a, b := srcCode b }
  | .pkfma g rm ht d a b c => some { op := 0x54, g := guardCode g, m := rmCode rm, x := htCode ht, d := dstCode d, a := srcCode a, b := srcCode b, c := srcCode c }
  | .pkdot g rm ht d a b c => some { op := 0x55, g := guardCode g, m := rmCode rm, x := htCode ht, d := dstCode d, a := srcCode a, b := srcCode b, c := srcCode c }
  | .fcvtq g rm p u d a b => some { op := 0x56, g := guardCode g, m := rmCode rm, x := ((0#11 ++ BitVec.ofBool u : BitVec 12) ++ p : BitVec 16), d := dstCode d, a := srcCode a, b := srcCode b }
  | .plnpack g i p d a => some { op := 0x57, g := guardCode g, x := ((((0#9 ++ p : BitVec 12) ++ 0#1 : BitVec 13)) ++ i : BitVec 16), d := dstCode d, a := srcCode a }
  | .plnunpack g i p d a b => some { op := 0x58, g := guardCode g, x := ((((0#9 ++ p : BitVec 12) ++ 0#1 : BitVec 13)) ++ i : BitVec 16), d := dstCode d, a := srcCode a, b := srcCode b }
  | .ldb g m d a b => some { op := 0x80, g := guardCode g, m := lmM m, x := lmX m, d := dstCode d, a := srcCode a, b := srcCode b }
  | .ldbs g m d a b => some { op := 0x81, g := guardCode g, m := lmM m, x := lmX m, d := dstCode d, a := srcCode a, b := srcCode b }
  | .ldh g m d a b => some { op := 0x82, g := guardCode g, m := lmM m, x := lmX m, d := dstCode d, a := srcCode a, b := srcCode b }
  | .ldhs g m d a b => some { op := 0x83, g := guardCode g, m := lmM m, x := lmX m, d := dstCode d, a := srcCode a, b := srcCode b }
  | .ldw g m d a b => some { op := 0x84, g := guardCode g, m := lmM m, x := lmX m, d := dstCode d, a := srcCode a, b := srcCode b }
  | .ldd g m d a b => some { op := 0x85, g := guardCode g, m := lmM m, x := lmX m, d := dstCode d, a := srcCode a, b := srcCode b }
  | .stb g m a b c => some { op := 0x86, g := guardCode g, m := lmM m, x := lmX m, a := srcCode a, b := srcCode b, c := srcCode c }
  | .sth g m a b c => some { op := 0x87, g := guardCode g, m := lmM m, x := lmX m, a := srcCode a, b := srcCode b, c := srcCode c }
  | .stw g m a b c => some { op := 0x88, g := guardCode g, m := lmM m, x := lmX m, a := srcCode a, b := srcCode b, c := srcCode c }
  | .std g m a b c => some { op := 0x89, g := guardCode g, m := lmM m, x := lmX m, a := srcCode a, b := srcCode b, c := srcCode c }
  | .lds g m d a b => some { op := 0x8A, g := guardCode g, m := lmM m, x := lmX m, d := dstCode d, a := srcCode a, b := srcCode b }
  | .sts g m a b c => some { op := 0x8B, g := guardCode g, m := lmM m, x := lmX m, a := srcCode a, b := srcCode b, c := srcCode c }
  | .stx g m a b c => some { op := 0x8C, g := guardCode g, m := lmM m, x := lmX m, a := srcCode a, b := srcCode b, c := srcCode c }
  | .ldp g m d a b => some { op := 0x8D, g := guardCode g, m := lmM m, x := lmX m, d := dstCode d, a := srcCode a, b := srcCode b }
  | .stp g m a b c => some { op := 0x8E, g := guardCode g, m := lmM m, x := lmX m, a := srcCode a, b := srcCode b, c := srcCode c }
  | .pref g m a b => some { op := 0x8F, g := guardCode g, m := lmM m, x := lmX m, a := srcCode a, b := srcCode b }
  | .aadd g m d a b c => some { op := 0xA0, g := guardCode g, m := lmM m, x := lmX m, d := dstCode d, a := srcCode a, b := srcCode b, c := srcCode c }
  | .amin g m d a b c => some { op := 0xA1, g := guardCode g, m := lmM m, x := lmX m, d := dstCode d, a := srcCode a, b := srcCode b, c := srcCode c }
  | .amax g m d a b c => some { op := 0xA2, g := guardCode g, m := lmM m, x := lmX m, d := dstCode d, a := srcCode a, b := srcCode b, c := srcCode c }
  | .aumin g m d a b c => some { op := 0xA3, g := guardCode g, m := lmM m, x := lmX m, d := dstCode d, a := srcCode a, b := srcCode b, c := srcCode c }
  | .aumax g m d a b c => some { op := 0xA4, g := guardCode g, m := lmM m, x := lmX m, d := dstCode d, a := srcCode a, b := srcCode b, c := srcCode c }
  | .aand g m d a b c => some { op := 0xA5, g := guardCode g, m := lmM m, x := lmX m, d := dstCode d, a := srcCode a, b := srcCode b, c := srcCode c }
  | .aor g m d a b c => some { op := 0xA6, g := guardCode g, m := lmM m, x := lmX m, d := dstCode d, a := srcCode a, b := srcCode b, c := srcCode c }
  | .axor g m d a b c => some { op := 0xA7, g := guardCode g, m := lmM m, x := lmX m, d := dstCode d, a := srcCode a, b := srcCode b, c := srcCode c }
  | .axchg g m d a b c => some { op := 0xA8, g := guardCode g, m := lmM m, x := lmX m, d := dstCode d, a := srcCode a, b := srcCode b, c := srcCode c }
  | .aaddf g m d a b c => some { op := 0xAC, g := guardCode g, m := lmM m, x := lmX m, d := dstCode d, a := srcCode a, b := srcCode b, c := srcCode c }
  | .acas g m v a b c => some { op := 0xA9, g := guardCode g, m := lmM m, x := lmX m, d := v.zeroExtend 8, a := srcCode a, b := srcCode b, c := srcCode c }
  | .acas64 g m v a b c => some { op := 0xAA, g := guardCode g, m := lmM m, x := lmX m, d := v.zeroExtend 8, a := srcCode a, b := srcCode b, c := c.zeroExtend 8 }
  | .acas128 g m v a b c => some { op := 0xAB, g := guardCode g, m := lmM m, x := lmX m, d := v.zeroExtend 8, a := srcCode a, b := srcCode b, c := c.zeroExtend 8 }
  | .pand g d a b => some { op := 0xB0, g := guardCode g, d := ppCode d, a := ppCode a, b := ppCode b }
  | .por g d a b => some { op := 0xB1, g := guardCode g, d := ppCode d, a := ppCode a, b := ppCode b }
  | .pxor g d a b => some { op := 0xB2, g := guardCode g, d := ppCode d, a := ppCode a, b := ppCode b }
  | .pandn g d a b => some { op := 0xB3, g := guardCode g, d := ppCode d, a := ppCode a, b := ppCode b }
  | .pset g d a => some { op := 0xB4, g := guardCode g, d := ppCode d, a := srcCode a }
  | .ballot g d a => some { op := 0xB5, g := guardCode g, d := dstCode d, a := ppCode a }
  | .pvote g m d a => some { op := 0xB6, g := guardCode g, m := vmCode m, d := ppCode d, a := ppCode a }
  | .pret g a t => some { op := 0xB7, g := guardCode g, a := ppCode a, x := t.zeroExtend 16 }
  | .xl g o d a b => some { op := 0xB8, g := guardCode g, x := (BitVec.ofBool o).zeroExtend 16, d := dstCode d, a := srcCode a, b := srcCode b }
  | .scan g o ex d a => some { op := 0xB9, g := guardCode g, m := (BitVec.ofBool ex ++ soCode o : BitVec 4), d := dstCode d, a := srcCode a }
  | .reduce g o d a => some { op := 0xBA, g := guardCode g, m := (0#1 ++ soCode o : BitVec 4), d := dstCode d, a := srcCode a }
  | .compact g d a b => some { op := 0xBB, g := guardCode g, d := dstCode d, a := srcCode a, b := ppCode b }
  | .exit g => some { op := 0xBE, g := guardCode g }
  | .mma g k a b c x => some { op := 0xC0, g := guardCode g, d := k.zeroExtend 8, a := a.zeroExtend 8, b := b.zeroExtend 8, c := (10#4 ++ c : BitVec 8), x := x }
  | .mzero g k => some { op := 0xC1, g := guardCode g, d := k.zeroExtend 8 }
  | .mrd g d k cl => some { op := 0xC2, g := guardCode g, d := dstCode d, x := ((0#9 ++ cl : BitVec 14) ++ k : BitVec 16) }
  | .mwr g a k cl => some { op := 0xC3, g := guardCode g, a := srcCode a, x := ((0#9 ++ cl : BitVec 14) ++ k : BitVec 16) }
  | .mscat g rm a k fm => some { op := 0xC4, g := guardCode g, m := rmCode rm, a := srcCode a, x := acFmtCode k fm }
  | .mver g d k => some { op := 0xC5, g := guardCode g, d := dstCode d, x := k.zeroExtend 16 }
  | .rebal g d a b c => some { op := 0xD0, g := guardCode g, d := dstCode d, a := srcCode a, b := srcCode b, c := (10#4 ++ c : BitVec 8) }
  | .lbound g d a b c => some { op := 0xD1, g := guardCode g, d := dstCode d, a := srcCode a, b := srcCode b, c := srcCode c }
  | .wait g l sc cc tc => some { op := 0xE0, g := guardCode g, x := l ++ sc ++ cc ++ tc }
  | .fence g s => some { op := 0xE1, g := guardCode g, m := (s ++ 0#2 : BitVec 4) }
  | .nbarriveLane g n => some { op := 0xE3, g := guardCode g, x := n.zeroExtend 16 }
  | .nbwaitLane g n => some { op := 0xE4, g := guardCode g, x := n.zeroExtend 16 }
  | .xmit g a p => some { op := 0xE5, g := guardCode g, a := a.zeroExtend 8, m := p.zeroExtend 4 }
  | .xsel g d p cyc => some { op := 0xE6, g := guardCode g, d := dstCode d, m := p.zeroExtend 4, x := cyc }
  | .xselF g d p p2 cyc => some { op := 0xE6, g := guardCode g, d := dstCode d, m := (1#1 ++ p : BitVec 4), c := p2.zeroExtend 8, x := cyc }
  | .tmarkLane g x => some { op := 0xF0, g := guardCode g, x := x }
  | .brk g x => some { op := 0xF1, g := guardCode g, x := x }
  | .cntr g d n => some { op := 0xF2, g := guardCode g, d := dstCode d, x := n.zeroExtend 16 }
  | _ => none

/-- The word of a lane instruction (R130, R137). -/
def encodeLane (i : Instr) : Option (BitVec 64) := (laneEncFields i).map lanePack

/-! ## Engine words (R146, R148) -/

/-- Why an engine word is no instruction (R149); each raises the engine-word trap 0x09. -/
inductive EngineError where
  /-- an opcode that R148 leaves unassigned -/
  | unassignedOpcode
  /-- an argument with bits where R148 demands zero -/
  | badArgument
deriving DecidableEq, Repr

/-- An argument that must be zero. -/
def arg0 (a : Nat) (i : Instr) : Except EngineError Instr := if a = 0 then .ok i else .error .badArgument
/-- An argument with a bound. -/
def argLt (a n : Nat) (i : Instr) : Except EngineError Instr := if a < n then .ok i else .error .badArgument

/-- The instruction of an engine word (R146, R148). The limits of an argument inside its field (a shift above 63, a
rounding code above 3, a format 3, a depth limit outside 1-63) are checked where the word takes effect. -/
def decodeEngine (w : BitVec 16) : Except EngineError Instr :=
  if w.getLsbD 15 then
    (if w.getLsbD 14 then .ok (.litContinue (w.extractLsb' 0 14)) else .ok (.litPush (w.extractLsb' 0 14)))
  else
    let x := w.extractLsb' 0 8
    let a := x.toNat
    match (w.extractLsb' 8 7).toNat with
    | 0x00 => arg0 a .engineNop
    | 0x01 => arg0 a .dup
    | 0x02 => arg0 a .drop
    | 0x03 => arg0 a .swap
    | 0x04 => arg0 a .over
    | 0x05 => arg0 a .neg
    | 0x06 => .ok (.shli x)
    | 0x07 => arg0 a .add
    | 0x08 => .ok (.gccp x)
    | 0x09 => argLt a 8 (.post (x.extractLsb' 0 3))
    | 0x0A => argLt a 16 (.arrive (x.extractLsb' 0 4))
    | 0x0B => argLt a 16 (.mode (x.extractLsb' 0 3) (x.getLsbD 3))
    | 0x0C => arg0 a .efenceWord
    | 0x10 => argLt a 16 (.accst (x.extractLsb' 0 2) (x.extractLsb' 2 2))
    | 0x11 => argLt a 16 (.accld (x.extractLsb' 0 2) (x.extractLsb' 2 2))
    | 0x12 => argLt a 4 (.accclr (x.extractLsb' 0 2))
    | 0x13 => argLt a 2 (.vmode (x.getLsbD 0))
    | 0x14 => arg0 a .spgemm
    | 0x15 => arg0 a .fibre
    | 0x20 => arg0 a .cpy
    | 0x21 => arg0 a .srct
    | 0x22 => arg0 a .dstt
    | 0x23 => argLt a 4 (.box (x.extractLsb' 0 2))
    | 0x24 => arg0 a .tcpy
    | 0x25 => argLt a 2 (.tgath (x.getLsbD 0))
    | 0x26 => argLt a 2 (.tscat (x.getLsbD 0))
    | 0x27 => arg0 a .bloadb
    | 0x28 => arg0 a .slred
    | 0x29 => arg0 a .zero
    | 0x2A => arg0 a .xch
    | 0x40 => argLt a 8 (.strm (x.extractLsb' 0 3))
    | 0x41 => argLt a 8 (.strmt (x.extractLsb' 0 3))
    | 0x42 => argLt a 4 (.ostrm (x.extractLsb' 0 2))
    | 0x43 => if a < 8 then .ok (.scloseIq (x.extractLsb' 0 3)) else argLt a 12 (.scloseOq (x.extractLsb' 0 2))
    | 0x50 => arg0 a .rvtab
    | 0x51 => argLt a 2 (.rxin (x.getLsbD 0))
    | 0x52 => arg0 a .rprog
    | 0x53 => arg0 a .ryout
    | 0x54 => .ok (.rdlim x)
    | 0x55 => argLt a 8 (.reval (x.extractLsb' 0 3))
    | _ => .error .unassignedOpcode

/-- An operation word of an opcode and its argument (R146). -/
def engWord (op : BitVec 8) (x : BitVec 8) : BitVec 16 := op ++ x

/-- The word of an engine instruction (R146, R148). -/
def encodeEngine : Instr → Option (BitVec 16)
  | .litPush i => some (0b10#2 ++ i)
  | .litContinue i => some (0b11#2 ++ i)
  | .engineNop => some (engWord 0x00 0)
  | .dup => some (engWord 0x01 0)
  | .drop => some (engWord 0x02 0)
  | .swap => some (engWord 0x03 0)
  | .over => some (engWord 0x04 0)
  | .neg => some (engWord 0x05 0)
  | .shli n => some (engWord 0x06 n)
  | .add => some (engWord 0x07 0)
  | .gccp n => some (engWord 0x08 n)
  | .post n => some (engWord 0x09 (n.zeroExtend 8))
  | .arrive n => some (engWord 0x0A (n.zeroExtend 8))
  | .mode r f => some (engWord 0x0B ((BitVec.ofBool f ++ r : BitVec 4).zeroExtend 8))
  | .efenceWord => some (engWord 0x0C 0)
  | .accst b f => some (engWord 0x10 ((f ++ b : BitVec 4).zeroExtend 8))
  | .accld b f => some (engWord 0x11 ((f ++ b : BitVec 4).zeroExtend 8))
  | .accclr b => some (engWord 0x12 (b.zeroExtend 8))
  | .vmode on => some (engWord 0x13 ((BitVec.ofBool on).zeroExtend 8))
  | .spgemm => some (engWord 0x14 0)
  | .fibre => some (engWord 0x15 0)
  | .cpy => some (engWord 0x20 0)
  | .srct => some (engWord 0x21 0)
  | .dstt => some (engWord 0x22 0)
  | .box d => some (engWord 0x23 (d.zeroExtend 8))
  | .tcpy => some (engWord 0x24 0)
  | .tgath w => some (engWord 0x25 ((BitVec.ofBool w).zeroExtend 8))
  | .tscat w => some (engWord 0x26 ((BitVec.ofBool w).zeroExtend 8))
  | .bloadb => some (engWord 0x27 0)
  | .slred => some (engWord 0x28 0)
  | .zero => some (engWord 0x29 0)
  | .xch => some (engWord 0x2A 0)
  | .strm q => some (engWord 0x40 (q.zeroExtend 8))
  | .strmt q => some (engWord 0x41 (q.zeroExtend 8))
  | .ostrm q => some (engWord 0x42 (q.zeroExtend 8))
  | .scloseIq q => some (engWord 0x43 (q.zeroExtend 8))
  | .scloseOq q => some (engWord 0x43 (0b000010#6 ++ q))
  | .rvtab => some (engWord 0x50 0)
  | .rxin b => some (engWord 0x51 ((BitVec.ofBool b).zeroExtend 8))
  | .rprog => some (engWord 0x52 0)
  | .ryout => some (engWord 0x53 0)
  | .rdlim d => some (engWord 0x54 d)
  | .reval b => some (engWord 0x55 (b.zeroExtend 8))
  | _ => none

/-! ## Control words (R139-R145, R151, R157) -/

/-- The fields of a 32-bit control word in the RISC-V layouts (R139). -/
structure CcFields where
  f7 : BitVec 7 := 0
  rs2 : BitVec 5 := 0
  rs1 : BitVec 5 := 0
  f3 : BitVec 3 := 0
  rd : BitVec 5 := 0
  op : BitVec 7 := 0
deriving DecidableEq, Repr

/-- The fields of a word (R139). -/
def ccFields (w : BitVec 32) : CcFields where
  f7 := w.extractLsb' 25 7
  rs2 := w.extractLsb' 20 5
  rs1 := w.extractLsb' 15 5
  f3 := w.extractLsb' 12 3
  rd := w.extractLsb' 7 5
  op := w.extractLsb' 0 7

/-- The word of the fields (R139). -/
def ccPack (f : CcFields) : BitVec 32 := f.f7 ++ f.rs2 ++ f.rs1 ++ f.f3 ++ f.rd ++ f.op

/-- The I-type immediate. -/
def CcFields.immI (f : CcFields) : BitVec 12 := f.f7 ++ f.rs2
/-- The S-type immediate. -/
def CcFields.immS (f : CcFields) : BitVec 12 := f.f7 ++ f.rd
/-- Bits 12:1 of the B-type immediate. -/
def CcFields.immB (f : CcFields) : BitVec 12 :=
  ((f.f7.extractLsb' 6 1 ++ f.rd.extractLsb' 0 1 : BitVec 2) ++ f.f7.extractLsb' 0 6 : BitVec 8) ++ f.rd.extractLsb' 1 4
/-- The U-type immediate. -/
def CcFields.immU (f : CcFields) : BitVec 20 := (f.f7 ++ f.rs2 : BitVec 12) ++ f.rs1 ++ f.f3
/-- Bits 20:1 of the J-type immediate. -/
def CcFields.immJ (f : CcFields) : BitVec 20 :=
  let u := f.immU
  ((u.extractLsb' 19 1 ++ u.extractLsb' 0 8 : BitVec 9) ++ u.extractLsb' 8 1 : BitVec 10) ++ u.extractLsb' 9 10

/-- The fields that hold a B-type immediate: funct7 and rd. -/
def bFields (o : BitVec 12) : BitVec 7 × BitVec 5 :=
  (o.extractLsb' 11 1 ++ o.extractLsb' 4 6, o.extractLsb' 0 4 ++ o.extractLsb' 10 1)
/-- The U-type field that holds a J-type immediate. -/
def jField (o : BitVec 20) : BitVec 20 :=
  ((o.extractLsb' 19 1 ++ o.extractLsb' 0 10 : BitVec 11) ++ o.extractLsb' 10 1 : BitVec 12) ++ o.extractLsb' 11 8
/-- The fields of a U-type immediate. -/
def uFields (f : CcFields) (u : BitVec 20) : CcFields :=
  { f with f7 := u.extractLsb' 13 7, rs2 := u.extractLsb' 8 5, rs1 := u.extractLsb' 3 5, f3 := u.extractLsb' 0 3 }

/-- The refusal in a custom opcode: the encoding trap (R145). -/
def ccCustomIllegal : Instr := .ccIllegalInstruction true
/-- The refusal in the ratified opcodes: CC exception, illegal instruction (R145, R153). -/
def ccIllegal : Instr := .ccIllegalInstruction false
/-- An instruction where a field test holds, else the encoding trap. -/
def cust (ok : Bool) (i : Instr) : Instr := if ok then i else ccCustomIllegal
/-- An instruction where a field test holds, else the illegal-instruction exception. -/
def base (ok : Bool) (i : Instr) : Instr := if ok then i else ccIllegal

/-- custom-0: block and predicate queues (R140). -/
def decodeCustom0 (f : CcFields) : Instr :=
  let r := f.f7.toNat
  match f.f3.toNat with
  | 0 => .bemit f.rs1 f.rs2 f.immS
  | 1 => .bemitRl f.rs1 f.rs2 f.immS
  | 2 =>
    if r = 0 then cust (f.rd == 0 && !f.rs2.getLsbD 4) (.kset (f.rs2.extractLsb' 0 4) f.rs1)
    else if r = 1 then cust (f.rd == 0 && f.rs2 == 0) (.bwin f.rs1)
    else if r = 2 then cust (f.rs2 == 0) (.bcancel f.rd f.rs1)
    else if r = 3 then cust (f.rs1 == 0 && f.rs2 == 0) (.ppop f.rd)
    else if r = 4 then cust (f.rs1 == 0 && f.rs2 == 0) (.ppopAq f.rd)
    else if r = 5 then cust (f.rs1 == 0 && f.rs2 == 0) (.ptry f.rd)
    else if r = 6 then cust (f.rs1 == 0 && f.rs2 == 0) (.pflush f.rd)
    else if r = 7 then cust (f.rs1 == 0 && f.rs2 == 0) (.bseq f.rd)
    else if r = 8 then cust (f.rd == 0 && f.rs1 == 0 && f.rs2 == 0) .bqdrain
    else ccCustomIllegal
  | 3 => cust (f.rs2 == 0) (.split f.rs1 f.immB)
  | 4 => cust (f.rd == 0 && f.rs1 == 0 && f.immI == 0) .merge
  | _ => ccCustomIllegal

/-- custom-1: engines (R141). -/
def decodeCustom1 (f : CcFields) : Instr :=
  match f.f3.toNat with
  | 0 => cust (f.rd == 0 && f.rs2 == 0 && f.f7.extractLsb' 4 3 == 0) (.esend f.rs1 (f.f7.extractLsb' 0 2) (f.f7.extractLsb' 2 2))
  | 1 => cust (f.rd == 0 && f.immI.extractLsb' 2 10 == 0) (.erun f.rs1 (f.immI.extractLsb' 0 2))
  | 2 => cust (f.rs1 == 0 && f.immI.extractLsb' 3 9 == 0) (.cmprd f.rd (f.immI.extractLsb' 0 3))
  | 3 => cust (f.rd == 0 && f.immI.extractLsb' 3 9 == 0) (.cmpwait f.rs1 (f.immI.extractLsb' 0 3))
  | 4 => cust (f.rd == 0 && f.immI.extractLsb' 3 9 == 0) (.cmpdisc f.rs1 (f.immI.extractLsb' 0 3))
  | 5 => cust (f.immI == 0) (.publish f.rd f.rs1)
  | 6 => cust (f.rd == 0 && f.rs1 == 0 && f.immI.extractLsb' 2 10 == 0) (.efence (f.immI.extractLsb' 0 2))
  | _ => ccCustomIllegal

/-- custom-2: tasks, named barriers and the Causeway (R143). -/
def decodeCustom2 (f : CcFields) : Instr :=
  let r := f.f7.toNat
  let n := f.rs2.extractLsb' 0 4
  match f.f3.toNat with
  | 0 =>
    if r = 0 then cust (f.rd == 0 && f.rs2 == 0) (.tspawn f.rs1)
    else if r = 1 then cust (f.rd == 0 && f.rs2 == 0) (.tjoin f.rs1)
    else if r = 2 then cust (f.rd == 0 && f.rs1 == 0 && f.rs2 == 0) .tdone
    else if r = 3 then cust (f.rd == 0 && f.rs2 == 0) (.tyield f.rs1)
    else if r = 4 then cust (f.rs1 == 0 && f.rs2 == 0) (.tself f.rd)
    else ccCustomIllegal
  | 1 =>
    if r = 0 then cust (f.rd == 0 && !f.rs2.getLsbD 4) (.nbinit n f.rs1)
    else if r = 1 then cust (f.rd == 0 && f.rs1 == 0 && !f.rs2.getLsbD 4) (.nbarrive n)
    else if r = 2 then cust (f.rs1 == 0 && !f.rs2.getLsbD 4) (.nbwait f.rd n)
    else if r = 3 then cust (f.rd == 0 && f.rs1 == 0 && !f.rs2.getLsbD 4) (.nbinval n)
    else if r = 4 then cust (f.rs1 == 0 && !f.rs2.getLsbD 4) (.nbstat f.rd n)
    else ccCustomIllegal
  | 2 =>
    if r = 0 then cust (f.rd == 0 && f.rs2 == 0) (.cwarrive f.rs1)
    else if r = 1 then cust (f.rd == 0 && f.rs2 == 0) (.cwwait f.rs1)
    else if r = 2 then cust (f.rd == 0) (.cwbcast f.rs1 f.rs2)
    else if r = 3 then cust (f.rs2 == 0) (.cwrecv f.rd f.rs1)
    else if r = 4 then .cwrsum f.rd f.rs1 f.rs2
    else if r = 5 then .cwrmin f.rd f.rs1 f.rs2
    else if r = 6 then .cwrmax f.rd f.rs1 f.rs2
    else if r = 7 then cust (f.rd == 0 && f.rs2 == 0) (.sstep f.rs1)
    else ccCustomIllegal
  | _ => ccCustomIllegal

/-- custom-3: scoped memory and system (R144). Scope 11 and widths 100-111 are decoded and trap where they would execute. -/
def decodeCustom3 (f : CcFields) : Instr :=
  match f.f3.toNat with
  | 0 => cust (f.f7.extractLsb' 2 5 == 0)
      (.ldaq f.rd f.rs1 (f.immI.extractLsb' 4 3) (f.immI.extractLsb' 2 2) (f.immI.extractLsb' 0 2))
  | 1 => cust (f.f7.extractLsb' 2 5 == 0)
      (.strl f.rs1 f.rs2 (f.immS.extractLsb' 4 3) (f.immS.extractLsb' 2 2) (f.immS.extractLsb' 0 2))
  | 2 => cust (f.rd == 0 && f.rs1 == 0 && f.immI.extractLsb' 2 10 == 0) (.fences (f.immI.extractLsb' 0 2))
  | 3 => cust (f.rd == 0 && f.rs1 == 0 && f.immI.extractLsb' 2 10 == 0) (.iinval (f.immI.extractLsb' 0 2))
  | 4 => cust (f.rd == 0 && f.rs1 == 0) (.tmark f.immI)
  | _ => ccCustomIllegal

/-- A register instruction of the base. -/
def rvi (op : RvInt) : Instr := .rvIntegerInstruction op

/-- OP-IMM (RV64I and Zbb). -/
def decodeOpImm (f : CcFields) : Instr :=
  let f6 := (f.f7.extractLsb' 1 6).toNat
  let sh := f.immI.extractLsb' 0 6
  match f.f3.toNat with
  | 0 => rvi (.opI .addi f.rd f.rs1 f.immI)
  | 1 =>
    if f6 = 0 then rvi (.opSh .slli f.rd f.rs1 sh)
    else if f.f7.toNat = 0x30 then
      (match f.rs2.toNat with
       | 0 => rvi (.opU .clz f.rd f.rs1)
       | 1 => rvi (.opU .ctz f.rd f.rs1)
       | 2 => rvi (.opU .cpop f.rd f.rs1)
       | 4 => rvi (.opU .sextb f.rd f.rs1)
       | 5 => rvi (.opU .sexth f.rd f.rs1)
       | _ => ccIllegal)
    else ccIllegal
  | 2 => rvi (.opI .slti f.rd f.rs1 f.immI)
  | 3 => rvi (.opI .sltiu f.rd f.rs1 f.immI)
  | 4 => rvi (.opI .xori f.rd f.rs1 f.immI)
  | 5 =>
    if f6 = 0 then rvi (.opSh .srli f.rd f.rs1 sh)
    else if f6 = 0x10 then rvi (.opSh .srai f.rd f.rs1 sh)
    else if f6 = 0x18 then rvi (.opSh .rori f.rd f.rs1 sh)
    else if f.immI.toNat = 0x287 then rvi (.opU .orcb f.rd f.rs1)
    else if f.immI.toNat = 0x6B8 then rvi (.opU .rev8 f.rd f.rs1)
    else ccIllegal
  | 6 => rvi (.opI .ori f.rd f.rs1 f.immI)
  | _ => rvi (.opI .andi f.rd f.rs1 f.immI)

/-- OP-IMM-32 (RV64I, Zba, Zbb). -/
def decodeOpImm32 (f : CcFields) : Instr :=
  let sh := f.immI.extractLsb' 0 6
  let r := f.f7.toNat
  match f.f3.toNat with
  | 0 => rvi (.opI .addiw f.rd f.rs1 f.immI)
  | 1 =>
    if r = 0 then rvi (.opSh .slliw f.rd f.rs1 (f.rs2.zeroExtend 6))
    else if (f.f7.extractLsb' 1 6).toNat = 2 then rvi (.opSh .slliUw f.rd f.rs1 sh)
    else if r = 0x30 then
      (match f.rs2.toNat with
       | 0 => rvi (.opU .clzw f.rd f.rs1)
       | 1 => rvi (.opU .ctzw f.rd f.rs1)
       | 2 => rvi (.opU .cpopw f.rd f.rs1)
       | _ => ccIllegal)
    else ccIllegal
  | 5 =>
    if r = 0 then rvi (.opSh .srliw f.rd f.rs1 (f.rs2.zeroExtend 6))
    else if r = 0x20 then rvi (.opSh .sraiw f.rd f.rs1 (f.rs2.zeroExtend 6))
    else if r = 0x30 then rvi (.opSh .roriw f.rd f.rs1 (f.rs2.zeroExtend 6))
    else ccIllegal
  | _ => ccIllegal

/-- The operation of OP by funct7 and funct3 (RV64I, M, Zba, Zbb). -/
def aluROf (r f3 : Nat) : Option AluR :=
  match r, f3 with
  | 0x00, 0 => some .add | 0x00, 1 => some .sll | 0x00, 2 => some .slt | 0x00, 3 => some .sltu
  | 0x00, 4 => some .xor | 0x00, 5 => some .srl | 0x00, 6 => some .or | 0x00, 7 => some .and
  | 0x20, 0 => some .sub | 0x20, 5 => some .sra | 0x20, 4 => some .xnor | 0x20, 6 => some .orn | 0x20, 7 => some .andn
  | 0x01, 0 => some .mul | 0x01, 1 => some .mulh | 0x01, 2 => some .mulhsu | 0x01, 3 => some .mulhu
  | 0x01, 4 => some .div | 0x01, 5 => some .divu | 0x01, 6 => some .rem | 0x01, 7 => some .remu
  | 0x10, 2 => some .sh1add | 0x10, 4 => some .sh2add | 0x10, 6 => some .sh3add
  | 0x05, 4 => some .min | 0x05, 5 => some .minu | 0x05, 6 => some .max | 0x05, 7 => some .maxu
  | 0x30, 1 => some .rol | 0x30, 5 => some .ror
  | _, _ => none

/-- The operation of OP-32 by funct7 and funct3. -/
def aluRwOf (r f3 : Nat) : Option AluR :=
  match r, f3 with
  | 0x00, 0 => some .addw | 0x20, 0 => some .subw | 0x00, 1 => some .sllw | 0x00, 5 => some .srlw | 0x20, 5 => some .sraw
  | 0x01, 0 => some .mulw | 0x01, 4 => some .divw | 0x01, 5 => some .divuw | 0x01, 6 => some .remw | 0x01, 7 => some .remuw
  | 0x04, 0 => some .addUw | 0x10, 2 => some .sh1addUw | 0x10, 4 => some .sh2addUw | 0x10, 6 => some .sh3addUw
  | 0x30, 1 => some .rolw | 0x30, 5 => some .rorw
  | _, _ => none

/-- Funct7, funct3 and whether the 32-bit opcode holds a register-register operation. -/
def aluRCode : AluR → BitVec 7 × BitVec 3 × Bool
  | .add => (0x00, 0, false) | .sll => (0x00, 1, false) | .slt => (0x00, 2, false) | .sltu => (0x00, 3, false)
  | .xor => (0x00, 4, false) | .srl => (0x00, 5, false) | .or => (0x00, 6, false) | .and => (0x00, 7, false)
  | .sub => (0x20, 0, false) | .sra => (0x20, 5, false) | .xnor => (0x20, 4, false) | .orn => (0x20, 6, false)
  | .andn => (0x20, 7, false)
  | .mul => (0x01, 0, false) | .mulh => (0x01, 1, false) | .mulhsu => (0x01, 2, false) | .mulhu => (0x01, 3, false)
  | .div => (0x01, 4, false) | .divu => (0x01, 5, false) | .rem => (0x01, 6, false) | .remu => (0x01, 7, false)
  | .sh1add => (0x10, 2, false) | .sh2add => (0x10, 4, false) | .sh3add => (0x10, 6, false)
  | .min => (0x05, 4, false) | .minu => (0x05, 5, false) | .max => (0x05, 6, false) | .maxu => (0x05, 7, false)
  | .rol => (0x30, 1, false) | .ror => (0x30, 5, false)
  | .addw => (0x00, 0, true) | .subw => (0x20, 0, true) | .sllw => (0x00, 1, true) | .srlw => (0x00, 5, true)
  | .sraw => (0x20, 5, true)
  | .mulw => (0x01, 0, true) | .divw => (0x01, 4, true) | .divuw => (0x01, 5, true) | .remw => (0x01, 6, true)
  | .remuw => (0x01, 7, true)
  | .addUw => (0x04, 0, true) | .sh1addUw => (0x10, 2, true) | .sh2addUw => (0x10, 4, true) | .sh3addUw => (0x10, 6, true)
  | .rolw => (0x30, 1, true) | .rorw => (0x30, 5, true)

/-- The register of a CSR number that the T7 implements (R151, R154). -/
def csrOf (n : Nat) : Option Csr :=
  match n with
  | 0x800 => some .ybbase | 0x801 => some .yscope | 0x802 => some .yxwin
  | 0xC80 => some .yfuse | 0xC81 => some .ygcc | 0xC82 => some .yhearth | 0xC83 => some .ygrp | 0xC84 => some .ypart
  | 0xC85 => some .ytask
  | 0xC00 => some .cycle | 0xC01 => some .time | 0xC02 => some .instret
  | _ => none

/-- The number of a CSR (R151, R154). -/
def csrCode : Csr → BitVec 12
  | .ybbase => 0x800 | .yscope => 0x801 | .yxwin => 0x802
  | .yfuse => 0xC80 | .ygcc => 0xC81 | .yhearth => 0xC82 | .ygrp => 0xC83 | .ypart => 0xC84 | .ytask => 0xC85
  | .cycle => 0xC00 | .time => 0xC01 | .instret => 0xC02

/-- A CSR instruction: a read, a write of one of the three writable CSRs, or illegal (R151, R153, Zicsr). -/
def decodeCsr (op : CsrOp) (rd : XReg) (src : CsrSrc) (n : Nat) : Instr :=
  match csrOf n with
  | none => ccIllegal
  | some c =>
    if csrWrites op src then
      (match c with
       | .ybbase => .ybbaseWrite op rd src
       | .yscope => .yscopeWrite op rd src
       | .yxwin => .yxwinWrite op rd src
       | _ => ccIllegal)
    else rvi (.csrRead rd c)

/-- SYSTEM: ECALL, EBREAK and Zicsr; everything else of the opcode is illegal (R153). -/
def decodeSystem (f : CcFields) : Instr :=
  match f.f3.toNat with
  | 0 =>
    if f.rd == 0 && f.rs1 == 0 && f.immI == 0 then .ecall
    else if f.rd == 0 && f.rs1 == 0 && f.immI == 1 then .ebreak
    else ccIllegal
  | 1 => decodeCsr .rw f.rd (.reg f.rs1) f.immI.toNat
  | 2 => decodeCsr .rs f.rd (.reg f.rs1) f.immI.toNat
  | 3 => decodeCsr .rc f.rd (.reg f.rs1) f.immI.toNat
  | 5 => decodeCsr .rw f.rd (.imm f.rs1) f.immI.toNat
  | 6 => decodeCsr .rs f.rd (.imm f.rs1) f.immI.toNat
  | 7 => decodeCsr .rc f.rd (.imm f.rs1) f.immI.toNat
  | _ => ccIllegal

/-- The operation of AMO's funct5 (A, Zacas). -/
def amoOf (n : Nat) : Option AmoOp :=
  match n with
  | 0x01 => some .swap | 0x00 => some .add | 0x04 => some .xor | 0x0C => some .and | 0x08 => some .or
  | 0x10 => some .min | 0x14 => some .max | 0x18 => some .minu | 0x1C => some .maxu | 0x05 => some .cas
  | _ => none

/-- Funct5 of an AMO. -/
def amoCode : AmoOp → BitVec 5
  | .swap => 0x01 | .add => 0x00 | .xor => 0x04 | .and => 0x0C | .or => 0x08
  | .min => 0x10 | .max => 0x14 | .minu => 0x18 | .maxu => 0x1C | .cas => 0x05

/-- Opcode AMO: LR, SC and the AMOs. -/
def decodeAmo (f : CcFields) : Instr :=
  let f5 := (f.f7.extractLsb' 2 5).toNat
  let aq := f.f7.getLsbD 1
  let rl := f.f7.getLsbD 0
  let f3 := f.f3.toNat
  if f5 = 2 then base ((f3 = 2 || f3 = 3) && f.rs2 == 0) (.lrSc (.lr (f3 = 3) aq rl f.rd f.rs1))
  else if f5 = 3 then base (f3 = 2 || f3 = 3) (.lrSc (.sc (f3 = 3) aq rl f.rd f.rs1 f.rs2))
  else
    match amoOf f5 with
    | none => ccIllegal
    | some op =>
      let i (w : AmoW) : Instr := base (amoWf op w f.rd f.rs2) (.amo op w aq rl f.rd f.rs1 f.rs2)
      if f3 = 2 then i .w else if f3 = 3 then i .d else if f3 = 4 then i .q else ccIllegal

/-- The instruction of a 32-bit control word (R139-R145, R151, R157). Total: a pattern that is no instruction decodes to
the one that raises its trap. -/
def decodeCcFields (f : CcFields) : Instr :=
  match f.op.toNat with
  | 0x0B => decodeCustom0 f
  | 0x2B => decodeCustom1 f
  | 0x5B => decodeCustom2 f
  | 0x7B => decodeCustom3 f
  | 0x37 => rvi (.lui f.rd f.immU)
  | 0x17 => rvi (.auipc f.rd f.immU)
  | 0x6F => rvi (.jal f.rd f.immJ)
  | 0x67 => base (f.f3 == 0) (.jalr f.rd f.rs1 f.immI)
  | 0x63 =>
    (match f.f3.toNat with
     | 0 => .rvBranch .eq f.rs1 f.rs2 f.immB
     | 1 => .rvBranch .ne f.rs1 f.rs2 f.immB
     | 4 => .rvBranch .lt f.rs1 f.rs2 f.immB
     | 5 => .rvBranch .ge f.rs1 f.rs2 f.immB
     | 6 => .rvBranch .ltu f.rs1 f.rs2 f.immB
     | 7 => .rvBranch .geu f.rs1 f.rs2 f.immB
     | _ => ccIllegal)
  | 0x03 =>
    (match f.f3.toNat with
     | 0 => .ccLoadStore (.load .b false f.rd f.rs1 f.immI)
     | 1 => .ccLoadStore (.load .h false f.rd f.rs1 f.immI)
     | 2 => .ccLoadStore (.load .w false f.rd f.rs1 f.immI)
     | 3 => .ccLoadStore (.load .d false f.rd f.rs1 f.immI)
     | 4 => .ccLoadStore (.load .b true f.rd f.rs1 f.immI)
     | 5 => .ccLoadStore (.load .h true f.rd f.rs1 f.immI)
     | 6 => .ccLoadStore (.load .w true f.rd f.rs1 f.immI)
     | _ => ccIllegal)
  | 0x23 =>
    (match f.f3.toNat with
     | 0 => .ccLoadStore (.store .b f.rs1 f.rs2 f.immS)
     | 1 => .ccLoadStore (.store .h f.rs1 f.rs2 f.immS)
     | 2 => .ccLoadStore (.store .w f.rs1 f.rs2 f.immS)
     | 3 => .ccLoadStore (.store .d f.rs1 f.rs2 f.immS)
     | _ => ccIllegal)
  | 0x13 => decodeOpImm f
  | 0x1B => decodeOpImm32 f
  | 0x33 => (match aluROf f.f7.toNat f.f3.toNat with | some op => rvi (.opR op f.rd f.rs1 f.rs2) | none => ccIllegal)
  | 0x3B =>
    if f.f7.toNat = 0x04 && f.f3.toNat = 4 && f.rs2 == 0 then rvi (.opU .zexth f.rd f.rs1)
    else (match aluRwOf f.f7.toNat f.f3.toNat with | some op => rvi (.opR op f.rd f.rs1 f.rs2) | none => ccIllegal)
  | 0x2F => decodeAmo f
  | 0x0F => if f.f3.toNat = 0 then .rvFence else if f.f3.toNat = 1 then .fenceI else ccIllegal
  | 0x73 => decodeSystem f
  | _ => ccIllegal

/-- The instruction of a 32-bit control word (R139). -/
def decodeCc (w : BitVec 32) : Instr := decodeCcFields (ccFields w)

/-- A register x8-x15 of a three-bit field of the C extension. -/
def cReg (b : BitVec 3) : XReg := 0b01#2 ++ b

/-- The instruction that a 16-bit form of the C extension expands to (R151; RV64C without floating point). -/
def decodeC (h : BitVec 16) : Instr :=
  let bit (i : Nat) : BitVec 1 := h.extractLsb' i 1
  let rd := h.extractLsb' 7 5
  let rs2 := h.extractLsb' 2 5
  let r1' := cReg (h.extractLsb' 7 3)
  let r2' := cReg (h.extractLsb' 2 3)
  let imm6 : BitVec 6 := bit 12 ++ h.extractLsb' 2 5
  let imm12 : BitVec 12 := imm6.signExtend 12
  match (h.extractLsb' 0 2).toNat, (h.extractLsb' 13 3).toNat with
  | 0, 0 =>   -- C.ADDI4SPN
    let u : BitVec 12 := (0#2 ++ h.extractLsb' 7 4 : BitVec 6) ++ h.extractLsb' 11 2 ++ bit 5 ++ bit 6 ++ 0#2
    base (u != 0) (rvi (.opI .addi r2' 2 u))
  | 0, 2 => .ccLoadStore (.load .w false r2' r1' ((0#5 ++ bit 5 : BitVec 6) ++ h.extractLsb' 10 3 ++ bit 6 ++ 0#2))
  | 0, 3 => .ccLoadStore (.load .d false r2' r1' ((0#4 ++ h.extractLsb' 5 2 : BitVec 6) ++ h.extractLsb' 10 3 ++ 0#3))
  | 0, 6 => .ccLoadStore (.store .w r1' r2' ((0#5 ++ bit 5 : BitVec 6) ++ h.extractLsb' 10 3 ++ bit 6 ++ 0#2))
  | 0, 7 => .ccLoadStore (.store .d r1' r2' ((0#4 ++ h.extractLsb' 5 2 : BitVec 6) ++ h.extractLsb' 10 3 ++ 0#3))
  | 1, 0 => rvi (.opI .addi rd rd imm12)
  | 1, 1 => base (rd != 0) (rvi (.opI .addiw rd rd imm12))
  | 1, 2 => rvi (.opI .addi rd 0 imm12)
  | 1, 3 =>
    if rd = 2 then
      let u : BitVec 12 := (bit 12 ++ bit 12 ++ bit 12 : BitVec 3) ++ h.extractLsb' 3 2 ++ bit 5 ++ bit 2 ++ bit 6 ++ 0#4
      base (imm6 != 0) (rvi (.opI .addi 2 2 u))
    else base (imm6 != 0) (rvi (.lui rd (imm6.signExtend 20)))
  | 1, 4 =>
    (match (h.extractLsb' 10 2).toNat with
     | 0 => rvi (.opSh .srli r1' r1' imm6)
     | 1 => rvi (.opSh .srai r1' r1' imm6)
     | 2 => rvi (.opI .andi r1' r1' imm12)
     | _ =>
       (match (bit 12).toNat, (h.extractLsb' 5 2).toNat with
        | 0, 0 => rvi (.opR .sub r1' r1' r2')
        | 0, 1 => rvi (.opR .xor r1' r1' r2')
        | 0, 2 => rvi (.opR .or r1' r1' r2')
        | 0, 3 => rvi (.opR .and r1' r1' r2')
        | 1, 0 => rvi (.opR .subw r1' r1' r2')
        | 1, 1 => rvi (.opR .addw r1' r1' r2')
        | _, _ => ccIllegal))
  | 1, 5 =>
    let o : BitVec 11 := bit 12 ++ bit 8 ++ h.extractLsb' 9 2 ++ bit 6 ++ bit 7 ++ bit 2 ++ bit 11 ++ h.extractLsb' 3 3
    rvi (.jal 0 (o.signExtend 20))
  | 1, 6 =>
    let o : BitVec 8 := bit 12 ++ h.extractLsb' 5 2 ++ bit 2 ++ h.extractLsb' 10 2 ++ h.extractLsb' 3 2
    .rvBranch .eq r1' 0 (o.signExtend 12)
  | 1, 7 =>
    let o : BitVec 8 := bit 12 ++ h.extractLsb' 5 2 ++ bit 2 ++ h.extractLsb' 10 2 ++ h.extractLsb' 3 2
    .rvBranch .ne r1' 0 (o.signExtend 12)
  | 2, 0 => rvi (.opSh .slli rd rd imm6)
  | 2, 2 => base (rd != 0) (.ccLoadStore (.load .w false rd 2 ((0#4 ++ h.extractLsb' 2 2 : BitVec 6) ++ bit 12 ++ h.extractLsb' 4 3 ++ 0#2)))
  | 2, 3 => base (rd != 0) (.ccLoadStore (.load .d false rd 2 ((0#3 ++ h.extractLsb' 2 3 : BitVec 6) ++ bit 12 ++ h.extractLsb' 5 2 ++ 0#3)))
  | 2, 4 =>
    if h.getLsbD 12 then
      (if rs2 = 0 then (if rd = 0 then .ebreak else .jalr 1 rd 0) else rvi (.opR .add rd rd rs2))
    else
      (if rs2 = 0 then base (rd != 0) (.jalr 0 rd 0) else rvi (.opR .add rd 0 rs2))
  | 2, 6 => .ccLoadStore (.store .w 2 rs2 ((0#4 ++ h.extractLsb' 7 2 : BitVec 6) ++ h.extractLsb' 9 4 ++ 0#2))
  | 2, 7 => .ccLoadStore (.store .d 2 rs2 ((0#3 ++ h.extractLsb' 7 3 : BitVec 6) ++ h.extractLsb' 10 3 ++ 0#3))
  | _, _ => ccIllegal

/-- Whether the first halfword of an instruction is a 16-bit form of the C extension. -/
def isCompressed (h : BitVec 16) : Bool := h.extractLsb' 0 2 != 3#2

/-- Funct3 of a branch condition. -/
def brCode : BrCond → BitVec 3
  | .eq => 0 | .ne => 1 | .lt => 4 | .ge => 5 | .ltu => 6 | .geu => 7
/-- Funct3 of a width, without the unsigned bit. -/
def memWCode : MemW → BitVec 2
  | .b => 0 | .h => 1 | .w => 2 | .d => 3
/-- Funct3 of a CSR form. -/
def csrOpCode : CsrOp → BitVec 2
  | .rw => 1 | .rs => 2 | .rc => 3
/-- Funct3 of an AMO width. -/
def amoWCode : AmoW → BitVec 3
  | .w => 2 | .d => 3 | .q => 4

/-- The fields of a CSR write. -/
def csrFields (n : BitVec 12) (op : CsrOp) (rd : XReg) : CsrSrc → CcFields
  | .reg r => { op := 0x73, f3 := 0#1 ++ csrOpCode op, rd := rd, rs1 := r, f7 := n.extractLsb' 5 7, rs2 := n.extractLsb' 0 5 }
  | .imm u => { op := 0x73, f3 := 1#1 ++ csrOpCode op, rd := rd, rs1 := u, f7 := n.extractLsb' 5 7, rs2 := n.extractLsb' 0 5 }

/-- Fields with an I-type immediate. -/
def iFields (f : CcFields) (imm : BitVec 12) : CcFields := { f with f7 := imm.extractLsb' 5 7, rs2 := imm.extractLsb' 0 5 }

/-- The fields of a register instruction of the base. -/
def rvIntFields : RvInt → CcFields
  | .lui r u => uFields { op := 0x37, rd := r } u
  | .auipc r u => uFields { op := 0x17, rd := r } u
  | .jal r o => uFields { op := 0x6F, rd := r } (jField o)
  | .opI o r r1 u =>
    let (opc, f3) : BitVec 7 × BitVec 3 := match o with
      | .addi => (0x13, 0) | .slti => (0x13, 2) | .sltiu => (0x13, 3) | .xori => (0x13, 4) | .ori => (0x13, 6)
      | .andi => (0x13, 7) | .addiw => (0x1B, 0)
    iFields { op := opc, f3 := f3, rd := r, rs1 := r1 } u
  | .opSh o r r1 sh =>
    let (opc, f3, hi) : BitVec 7 × BitVec 3 × BitVec 6 := match o with
      | .slli => (0x13, 1, 0) | .srli => (0x13, 5, 0) | .srai => (0x13, 5, 0x10) | .rori => (0x13, 5, 0x18)
      | .slliUw => (0x1B, 1, 2) | .slliw => (0x1B, 1, 0) | .srliw => (0x1B, 5, 0) | .sraiw => (0x1B, 5, 0x10)
      | .roriw => (0x1B, 5, 0x18)
    iFields { op := opc, f3 := f3, rd := r, rs1 := r1 } (hi ++ sh)
  | .opR o r r1 r2 =>
    let (f7, f3, w) := aluRCode o
    { op := if w then 0x3B else 0x33, f3 := f3, f7 := f7, rd := r, rs1 := r1, rs2 := r2 }
  | .opU o r r1 =>
    let (opc, f3, u) : BitVec 7 × BitVec 3 × BitVec 12 := match o with
      | .clz => (0x13, 1, 0x600) | .ctz => (0x13, 1, 0x601) | .cpop => (0x13, 1, 0x602) | .sextb => (0x13, 1, 0x604)
      | .sexth => (0x13, 1, 0x605) | .clzw => (0x1B, 1, 0x600) | .ctzw => (0x1B, 1, 0x601) | .cpopw => (0x1B, 1, 0x602)
      | .zexth => (0x3B, 4, 0x080) | .orcb => (0x13, 5, 0x287) | .rev8 => (0x13, 5, 0x6B8)
    iFields { op := opc, f3 := f3, rd := r, rs1 := r1 } u
  | .csrRead r c => iFields { op := 0x73, f3 := 2, rd := r } (csrCode c)

/-- The fields of a control instruction (R139-R144, R157, and the ratified base). -/
def ccEncFields : Instr → Option CcFields
  | .bemit r1 r2 u => some { op := 0x0B, f3 := 0, rs1 := r1, rs2 := r2, f7 := u.extractLsb' 5 7, rd := u.extractLsb' 0 5 }
  | .bemitRl r1 r2 u => some { op := 0x0B, f3 := 1, rs1 := r1, rs2 := r2, f7 := u.extractLsb' 5 7, rd := u.extractLsb' 0 5 }
  | .kset n r1 => some { op := 0x0B, f3 := 2, f7 := 0, rs1 := r1, rs2 := 0#1 ++ n }
  | .bwin r1 => some { op := 0x0B, f3 := 2, f7 := 1, rs1 := r1 }
  | .bcancel r r1 => some { op := 0x0B, f3 := 2, f7 := 2, rd := r, rs1 := r1 }
  | .ppop r => some { op := 0x0B, f3 := 2, f7 := 3, rd := r }
  | .ppopAq r => some { op := 0x0B, f3 := 2, f7 := 4, rd := r }
  | .ptry r => some { op := 0x0B, f3 := 2, f7 := 5, rd := r }
  | .pflush r => some { op := 0x0B, f3 := 2, f7 := 6, rd := r }
  | .bseq r => some { op := 0x0B, f3 := 2, f7 := 7, rd := r }
  | .bqdrain => some { op := 0x0B, f3 := 2, f7 := 8 }
  | .split r1 o => some { op := 0x0B, f3 := 3, rs1 := r1, f7 := (bFields o).1, rd := (bFields o).2 }
  | .merge => some { op := 0x0B, f3 := 4 }
  | .esend r1 c e => some { op := 0x2B, f3 := 0, rs1 := r1, f7 := (0#3 ++ e : BitVec 5) ++ c }
  | .erun r1 e => some { op := 0x2B, f3 := 1, rs1 := r1, rs2 := e.zeroExtend 5 }
  | .cmprd r n => some { op := 0x2B, f3 := 2, rd := r, rs2 := n.zeroExtend 5 }
  | .cmpwait r1 n => some { op := 0x2B, f3 := 3, rs1 := r1, rs2 := n.zeroExtend 5 }
  | .cmpdisc r1 n => some { op := 0x2B, f3 := 4, rs1 := r1, rs2 := n.zeroExtend 5 }
  | .publish r r1 => some { op := 0x2B, f3 := 5, rd := r, rs1 := r1 }
  | .efence e => some { op := 0x2B, f3 := 6, rs2 := e.zeroExtend 5 }
  | .tspawn r1 => some { op := 0x5B, f3 := 0, f7 := 0, rs1 := r1 }
  | .tjoin r1 => some { op := 0x5B, f3 := 0, f7 := 1, rs1 := r1 }
  | .tdone => some { op := 0x5B, f3 := 0, f7 := 2 }
  | .tyield r1 => some { op := 0x5B, f3 := 0, f7 := 3, rs1 := r1 }
  | .tself r => some { op := 0x5B, f3 := 0, f7 := 4, rd := r }
  | .nbinit n r1 => some { op := 0x5B, f3 := 1, f7 := 0, rs2 := n.zeroExtend 5, rs1 := r1 }
  | .nbarrive n => some { op := 0x5B, f3 := 1, f7 := 1, rs2 := n.zeroExtend 5 }
  | .nbwait r n => some { op := 0x5B, f3 := 1, f7 := 2, rs2 := n.zeroExtend 5, rd := r }
  | .nbinval n => some { op := 0x5B, f3 := 1, f7 := 3, rs2 := n.zeroExtend 5 }
  | .nbstat r n => some { op := 0x5B, f3 := 1, f7 := 4, rs2 := n.zeroExtend 5, rd := r }
  | .cwarrive r1 => some { op := 0x5B, f3 := 2, f7 := 0, rs1 := r1 }
  | .cwwait r1 => some { op := 0x5B, f3 := 2, f7 := 1, rs1 := r1 }
  | .cwbcast r1 r2 => some { op := 0x5B, f3 := 2, f7 := 2, rs1 := r1, rs2 := r2 }
  | .cwrecv r r1 => some { op := 0x5B, f3 := 2, f7 := 3, rs1 := r1, rd := r }
  | .cwrsum r r1 r2 => some { op := 0x5B, f3 := 2, f7 := 4, rs1 := r1, rs2 := r2, rd := r }
  | .cwrmin r r1 r2 => some { op := 0x5B, f3 := 2, f7 := 5, rs1 := r1, rs2 := r2, rd := r }
  | .cwrmax r r1 r2 => some { op := 0x5B, f3 := 2, f7 := 6, rs1 := r1, rs2 := r2, rd := r }
  | .sstep r1 => some { op := 0x5B, f3 := 2, f7 := 7, rs1 := r1 }
  | .ldaq r r1 wd c s =>
    some (iFields { op := 0x7B, f3 := 0, rd := r, rs1 := r1 } ((((0#5 ++ wd : BitVec 8) ++ c : BitVec 10)) ++ s))
  | .strl r1 r2 wd c s =>
    let u : BitVec 12 := ((0#5 ++ wd : BitVec 8) ++ c : BitVec 10) ++ s
    some { op := 0x7B, f3 := 1, rs1 := r1, rs2 := r2, f7 := u.extractLsb' 5 7, rd := u.extractLsb' 0 5 }
  | .fences s => some { op := 0x7B, f3 := 2, rs2 := s.zeroExtend 5 }
  | .iinval s => some { op := 0x7B, f3 := 3, rs2 := s.zeroExtend 5 }
  | .tmark u => some (iFields { op := 0x7B, f3 := 4 } u)
  | .ccLoadStore (.load wd u r r1 o) => some (iFields { op := 0x03, f3 := BitVec.ofBool u ++ memWCode wd, rd := r, rs1 := r1 } o)
  | .ccLoadStore (.store wd r1 r2 o) =>
    some { op := 0x23, f3 := 0#1 ++ memWCode wd, rs1 := r1, rs2 := r2, f7 := o.extractLsb' 5 7, rd := o.extractLsb' 0 5 }
  | .lrSc (.lr d aq rl r r1) =>
    some { op := 0x2F, f3 := if d then 3 else 2, rd := r, rs1 := r1, f7 := (0x02#5 ++ BitVec.ofBool aq : BitVec 6) ++ BitVec.ofBool rl }
  | .lrSc (.sc d aq rl r r1 r2) =>
    some { op := 0x2F, f3 := if d then 3 else 2, rd := r, rs1 := r1, rs2 := r2,
           f7 := (0x03#5 ++ BitVec.ofBool aq : BitVec 6) ++ BitVec.ofBool rl }
  | .amo o wd aq rl r r1 r2 =>
    some { op := 0x2F, f3 := amoWCode wd, rd := r, rs1 := r1, rs2 := r2,
           f7 := (amoCode o ++ BitVec.ofBool aq : BitVec 6) ++ BitVec.ofBool rl }
  | .rvFence => some { op := 0x0F, f3 := 0, f7 := 0x07, rs2 := 0x1F }
  | .fenceI => some { op := 0x0F, f3 := 1 }
  | .rvBranch c r1 r2 o => some { op := 0x63, f3 := brCode c, rs1 := r1, rs2 := r2, f7 := (bFields o).1, rd := (bFields o).2 }
  | .jalr r r1 u => some (iFields { op := 0x67, f3 := 0, rd := r, rs1 := r1 } u)
  | .ebreak => some { op := 0x73, rs2 := 1 }
  | .ecall => some { op := 0x73 }
  | .ybbaseWrite o r src => some (csrFields 0x800 o r src)
  | .yscopeWrite o r src => some (csrFields 0x801 o r src)
  | .yxwinWrite o r src => some (csrFields 0x802 o r src)
  | .rvIntegerInstruction o => some (rvIntFields o)
  | _ => none

/-- The word of a control instruction (R139-R144, R157). -/
def encodeCc (i : Instr) : Option (BitVec 32) := (ccEncFields i).map ccPack

/-! ## All three -/

/-- The bytes of a word, the lowest first (R2). -/
def wordBytes {n : Nat} (w : BitVec n) : Nat → Nat → List Byte
  | _, 0 => []
  | i, k + 1 => w.extractLsb' (8 * i) 8 :: wordBytes w (i + 1) k

/-- The stored bytes of a well-formed instruction; a step of the hardware or of the outside world has none. -/
def encode (i : Instr) : List Byte :=
  match encodeCc i with
  | some w => wordBytes w 0 4
  | none =>
    match encodeEngine i with
    | some w => wordBytes w 0 2
    | none =>
      match encodeLane i with
      | some w => wordBytes w 0 8
      | none => []

/-- The instruction of a control word at its first halfword, and its length in bytes (R145, R151). -/
def decodeCcAt (lo hi : BitVec 16) : Instr × Nat :=
  if isCompressed lo then (decodeC lo, 2) else (decodeCc (hi ++ lo), 4)

/-- The instruction that the decoder reads from an opcode-table word: 16 bits hold an engine word, 32 bits a control word,
64 bits a lane word; an encoding that is refused answers `none`. -/
def decodeTableWord (nbits w : Nat) : Option Instr :=
  if nbits ≤ 16 then (match decodeEngine (BitVec.ofNat 16 w) with | .ok i => some i | .error _ => none)
  else if nbits ≤ 32 then
    (match decodeCc (BitVec.ofNat 32 w) with | .ccIllegalInstruction _ => none | i => some i)
  else (match decodeLane (BitVec.ofNat 64 w) with | .ok i => some i | .error _ => none)

end Sys2Proof
end

