-- ==== Sys2Proof/Config.lean ====
section
/-! DEFINITION. What the spec leaves open: uninterpreted constants. Nothing evaluates them, so a statement that mentions one
holds for every value of it. `State.tick` (State) numbers the uses, so that two uses are independent. -/

namespace Sys2Proof

/-- Which agent or step moves next when the schedule of the state is empty (notes/assumptions/1): an instruction or step. -/
inductive Turn where
  /-- CC thread `t` of hearth `h` executes its next instruction -/
  | cc (h t : Nat)
  /-- lane group `g` of hearth `h` issues its next word -/
  | lane (h g : Nat)
  /-- engine `e` of hearth `h` takes a word of the task whose turn it is (R243) -/
  | engine (h e : Nat)
  /-- a copy engine takes a word of its copy record (R26) -/
  | copyEngine (e : Nat)
  /-- a step of the hardware or of the outside world -/
  | event (i : Instr)
  /-- the GCC advances by one cycle (R370) -/
  | clock
deriving DecidableEq, Repr, Inhabited

/-- The turn that an empty schedule takes, by the count of steps (notes/assumptions/1). -/
opaque Config.arbiter : Nat → Turn

/-- A free byte: which step, and which byte of it (notes/assumptions/5). -/
opaque Config.freeByte : Nat → Nat → Byte

/-- A free number: which step, and which open value of that step (notes/assumptions/5). Which racing store stays and which lane's
atomic comes first are drawn from it (R69, R222). -/
opaque Config.freeNat : Nat → Nat → Nat

/-- SHA3-256 of a list of bytes, 32 bytes (R423-R428; a named standard, notes/assumptions/6). -/
opaque Config.sha3 : List Byte → List Byte

/-- ML-DSA-44 verification: public key, message, signature (R423; notes/assumptions/6). -/
opaque Config.mldsaVerify : List Byte → List Byte → List Byte → Bool

/-- ML-DSA-44 signing: key seed and message (R428; notes/assumptions/6). -/
opaque Config.mldsaSign : List Byte → List Byte → List Byte

/-- The ML-DSA-44 public key derived from a seed (R426; notes/assumptions/6). -/
opaque Config.mldsaKey : List Byte → List Byte

/-- The vendor digest burned into the part's fuses (R423; notes/assumptions/6). -/
opaque Config.vendorDigest : Nat → List Byte

/-- What the factory wrote to flash slot A (0) or B (1) (R423; notes/assumptions/6). -/
opaque Config.factorySlot : Nat → List Byte

/-- HBM4 row spares of a die when new: the spec gives no number (R448, R450; notes/assumptions/5). -/
opaque Config.hbmSpares : Nat → Nat

/-- The row of a bank of an HBM4 stack in which an atom lies: the spec maps no address to a row (R446, R450; notes/assumptions/60). -/
opaque Config.hbmRow : Nat → Nat

/-- The IEEE 802.3 priority of a queue pair's frames: the spec names none (R430; notes/assumptions/5). -/
opaque Config.qpPriority : Nat → Nat

/-- The UALink port that leads to an accelerator: the pod's wiring is outside the package (R430; notes/assumptions/35). -/
opaque Config.ualPort : Nat → Nat

/-- The flits that a UALink access takes, by its kind (0 read, 1 write, 2 atomic) and bytes: UALink 1.0 fixes them, the spec does not
restate them (R407, R430; notes/assumptions/35). -/
opaque Config.ualFlits : Nat → Nat → Nat

/-- The peer of a UALink port enables the tenancy prefix at link training: the pod's wiring is outside the package (R430;
notes/assumptions/35). -/
opaque Config.ualPrefix : Nat → Bool

/-- The ports of ingress node `n` of tree `k` that child packages hold, as a bit set: only the children's PTREE entries name them
(R440; notes/assumptions/35). -/
opaque Config.childPorts : Nat → Nat → Nat

end Sys2Proof
end

