-- ==== Sys2Proof/Machine/Maps.lean ====
section
/-! DEFINITION. Finite maps as sorted lists of key and value, the form of memory and of every numbered register file.
An unlisted key reads as a default that the reader names; `set` keeps no entry equal to that default. -/

namespace Sys2Proof.Machine

/-- A map from numbers, its keys strictly rising. -/
abbrev Map (α : Type) := List (Nat × α)

/-- The entry of a key, if it is listed. -/
def Map.find? {α : Type} : Map α → Nat → Option α
  | [], _ => none
  | (j, a) :: r, k => if j = k then some a else Map.find? r k

/-- The value at a key, `d` where the key is not listed. -/
def Map.get {α : Type} (d : α) (m : Map α) (k : Nat) : α := (Map.find? m k).getD d

/-- List a value at a key, in order. -/
def Map.put {α : Type} : Map α → Nat → α → Map α
  | [], k, a => [(k, a)]
  | (j, b) :: r, k, a =>
    if j = k then (k, a) :: r
    else if k < j then (k, a) :: (j, b) :: r
    else (j, b) :: Map.put r k a

/-- Remove a key. -/
def Map.erase {α : Type} : Map α → Nat → Map α
  | [], _ => []
  | (j, b) :: r, k => if j = k then Map.erase r k else (j, b) :: Map.erase r k

/-- Write a value, listing nothing where it equals the default. -/
def Map.set {α : Type} [DecidableEq α] (d : α) (m : Map α) (k : Nat) (a : α) : Map α :=
  if a = d then Map.erase m k else Map.put m k a

/-- Change the value at a key. -/
def Map.mod {α : Type} (d : α) (m : Map α) (k : Nat) (f : α → α) : Map α :=
  Map.put m k (f (Map.get d m k))

/-- Every key of a map lies above a bound and the keys rise strictly. -/
def Map.above {α : Type} : Nat → Map α → Bool
  | _, [] => true
  | n, (j, _) :: r => decide (n < j) && Map.above j r

/-- The keys rise strictly. -/
def Map.sorted {α : Type} : Map α → Bool
  | [] => true
  | (j, _) :: r => Map.above j r

/-- No entry equals the default. -/
def Map.noDefault {α : Type} [DecidableEq α] (d : α) : Map α → Bool
  | [] => true
  | (_, a) :: r => decide (a ≠ d) && Map.noDefault d r

/-- The one canonical form: keys strictly rising, no entry equal to the default. -/
def Map.wf {α : Type} [DecidableEq α] (d : α) (m : Map α) : Bool := Map.sorted m && Map.noDefault d m

/-- Remove the n-th element of a list. -/
def dropAt {α : Type} : List α → Nat → List α
  | [], _ => []
  | _ :: r, 0 => r
  | a :: r, n + 1 => a :: dropAt r n

/-- Change the n-th element of a list. -/
def modAt {α : Type} (f : α → α) : List α → Nat → List α
  | [], _ => []
  | a :: r, 0 => f a :: r
  | a :: r, n + 1 => a :: modAt f r n

/-- The numbers `a`, `a + 1`, … `a + n - 1`. -/
def natsFrom (a : Nat) : Nat → List Nat
  | 0 => []
  | n + 1 => a :: natsFrom (a + 1) n

/-- The little-endian bytes of a number (R2). -/
def bytesOf (v : Nat) : Nat → List (BitVec 8)
  | 0 => []
  | n + 1 => BitVec.ofNat 8 v :: bytesOf (v / 256) n

/-- The number whose little-endian bytes are given (R2). -/
def natOfBytes : List (BitVec 8) → Nat
  | [] => 0
  | b :: r => b.toNat + 256 * natOfBytes r

end Sys2Proof.Machine
end

