-- ==== Sys2Proof/Machine/State.lean ====
section
/-! DEFINITION. The state of the package as plain data, its reset value, and the reasons a step can stop.
Numbered things are maps from their number, an unlisted number reading as the record's defaults, which are its reset values.
Reset values that the spec gives are named with their rule; every other default is a DESIGN CHOICE (notes/assumptions/2). -/

namespace Sys2Proof.Machine

/-- An execution agent and what it runs: set by the step before `exec`, read by the meanings. -/
structure Focus where
  /-- hearth -/
  h : Nat := 0
  /-- CC thread, lane group or engine code -/
  t : Nat := 0
  /-- key of the engine queue whose word runs -/
  q : Nat := 0
  /-- length in bytes of the control instruction: 4, or 2 for a form of the C extension -/
  len : Nat := 4
deriving DecidableEq, Repr, Inhabited

/-! ## Addresses, pages and messages -/

/-- What a translated address names (R353): a device frame, a shadowed tensor's window, a host page, a pod peer. -/
inductive Tgt where
  /-- device physical address -/
  | dev (pa : Nat)
  /-- shadowed window of a tensor of a partition, device virtual address -/
  | win (p tid va : Nat)
  /-- host page: CXL.cache or PCIe, IO virtual address, and the host physical address once ATS has translated it (R359) -/
  | host (coh : Bool) (p iova : Nat) (hpa : Option Nat := none)
  /-- pod peer: partition, remote window index, offset in the window -/
  | peer (p rwin off : Nat)
deriving DecidableEq, Repr, Inhabited

/-- A valid translation held by a hearth TLB (R356). -/
structure TlbE where
  part : Nat := 0
  /-- first address of the page -/
  va : Nat := 0
  /-- log2 of the page size -/
  lg : Nat := 12
  tgt : Tgt := .dev 0
  w : Bool := false
  x : Bool := false
  /-- dirty bit of the entry as cached -/
  d : Bool := false
deriving DecidableEq, Repr, Inhabited

/-- A pointer entry held by a die's cache (R356): the level and the first address of what it covers, and the next table. -/
structure PtrE where
  part : Nat := 0
  lv : Nat := 3
  va : Nat := 0
  next : Nat := 0
deriving DecidableEq, Repr, Inhabited

/-- Access kinds of a walk and of a fault entry (R365). -/
inductive Acc where
  | read | write | atomic | fetch
deriving DecidableEq, Repr, Inhabited

/-- Who waits for a walk, a reply or a fault's service. -/
inductive Who where
  | thread (h t : Nat)
  /-- the word at which a lane group stands -/
  | group (h g : Nat)
  /-- a window spill or fill of a lane group -/
  | window (h g : Nat)
  /-- one lane of an outstanding lane operation -/
  | lane (h g op lane : Nat)
  /-- a command of an engine queue -/
  | cmd (q n : Nat)
  /-- the script fetcher of an engine queue -/
  | script (q : Nat)
  /-- a store of a control thread to host or peer memory at a virtual address, whose instruction has retired (R79, R436) -/
  | post (h t va : Nat)
  /-- the L1, for dirty bytes of a context in the atom at a virtual address -/
  | wback (ctx va : Nat)
  /-- a place that reads an atom of host or peer memory to fetch from it, or for hardware of the partition (R350, R386, R433) -/
  | line (h : Nat) (t : Tgt)
  | nobody
deriving DecidableEq, Repr, Inhabited

/-- A walk asked for (R354): the address, the access, and who asked. -/
structure Walk where
  h : Nat := 0
  part : Nat := 0
  va : Nat := 0
  acc : Acc := .read
  who : Who := .nobody
deriving DecidableEq, Repr, Inhabited

/-- How a translation ended for its agent, until the agent reads it (R354, R360). -/
structure Xfault where
  cause : Nat := 0
  sub : Nat := 0
  va : Nat := 0
deriving DecidableEq, Repr, Inhabited

/-- Operations that a home or an L1 performs on one unit (R220, R152, R385). -/
inductive AtOp where
  | swap | add | xor | and | or | min | max | minu | maxu | addf | cas
deriving DecidableEq, Repr, Inhabited

/-- Request types (R388). -/
inductive ReqK where
  | rd | rnw | wr | wb | at
deriving DecidableEq, Repr, Inhabited

/-- A request message on its way to a home (R388, R389). -/
structure Req where
  kind : ReqK := .rd
  who : Who := .nobody
  h : Nat := 0
  part : Nat := 0
  ctx : Nat := 0
  epoch : Nat := 0
  tgt : Tgt := .dev 0
  pts : Nat := 0
  /-- 0 H, 1 D, 2 S -/
  scope : Nat := 1
  cls : Nat := 0
  /-- the wts held, for RNW -/
  wts : Nat := 0
  /-- bytes written from `tgt` up, `none` where the enable is clear -/
  bytes : List (Option Byte) := []
  op : AtOp := .add
  width : Nat := 4
  a : Nat := 0
  b : Nat := 0
  /-- a store-conditional: performed only while the sender's reservation holds (R152) -/
  sc : Bool := false
  /-- a write-back of bytes that the L1 could not read (R439; notes/assumptions/66) -/
  psn : Bool := false
  /-- 0 an agent of the package, 1 the host over CXL.mem, 2 the host over BAR 1, 3 a pod peer -/
  src : Nat := 0
  /-- host ownership that a read over CXL.mem takes: 1 shared, 2 exclusive (R385) -/
  own : Nat := 0
  /-- the home that it is sent to, and the cycle of its arrival there (R11) -/
  home : Nat := 0
  due : Nat := 0
deriving DecidableEq, Repr, Inhabited

/-- Reply types (R388). -/
inductive RepK where
  | dat | rnwok | wack | nack | err
deriving DecidableEq, Repr, Inhabited

/-- A reply message on its way to a cache (R388, R389). -/
structure Rep where
  kind : RepK := .dat
  who : Who := .nobody
  h : Nat := 0
  /-- L1 key of the atom -/
  key : Nat := 0
  tgt : Tgt := .dev 0
  part : Nat := 0
  data : List Byte := []
  /-- old value of an atomic; refusal code of a NACK: 0 protection, 1 killed context, 2 tenant key; of an RNWOK, the atom mask renewed -/
  val : Nat := 0
  wts : Nat := 0
  rts : Nat := 0
  seq : Nat := 0
  /-- id and t_p of the set bound, for a shadowed window -/
  tag : Option (Nat × Nat × Nat) := none
  atomic : Bool := false
  /-- the source of the request that it answers -/
  src : Nat := 0
  /-- cycle of its arrival at the cache (R11) -/
  due : Nat := 0
deriving DecidableEq, Repr, Inhabited

/-- Probe types (R388). -/
inductive ProbeK where
  | recall | trec | zrec | pack
deriving DecidableEq, Repr, Inhabited

/-- A probe or its answer (R389): `h` is the hearth it goes to or comes from, `key` the atom, tensor or granule. -/
structure Probe where
  kind : ProbeK := .recall
  h : Nat := 0
  key : Nat := 0
  part : Nat := 0
  seq : Nat := 0
  /-- t_p of a TREC; for a PACK, what it answers: 0 REC, 1 ZREC, 2 TREC -/
  tp : Nat := 0
  /-- cycle of its arrival by its route, and the last cycle in which it may arrive (R11, R381); 0 for none -/
  due : Nat := 0
  lim : Nat := 0
deriving DecidableEq, Repr, Inhabited

/-- An atom's state at its home (R372): offsets from the slice base. An atom that is not listed is not present; one that has left the L2
poisoned or held by the host is listed as `gone` with what the memory and the host then hold (R373, R384, R385). -/
structure Atom where
  gone : Bool := false
  fp : Bool := false
  psn : Bool := false
  /-- 0 none, 1 host shared, 2 host exclusive -/
  ho : Nat := 0
  seq : Nat := 0
  rts : Nat := 0
  wts : Nat := 0
deriving DecidableEq, Repr, Inhabited

/-- A home slice, or the I/O stop of D0 as home 48 (R373, R386). -/
structure Slice where
  base : Nat := 0
  floor : Nat := 0
  /-- requests accepted in the budget period, by partition (R407) -/
  used : Map Nat := []
  /-- the cycle after which a throttled stack admits the next request (R452) -/
  gate : Nat := 0
deriving DecidableEq, Repr, Inhabited

/-- A recall in progress (R381): what waits for the PACKs still missing. Home 64 stands for the recall of a granule that is zeroed. -/
structure Recall where
  key : Nat := 0
  home : Nat := 0
  seq : Nat := 0
  missing : List Nat := []
  /-- the recall has ended and its request may be performed, with the cycle in which it ended -/
  done : Bool := false
  doneAt : Nat := 0
  /-- whose it is: the source and the agent of a request, or source 6, a snoop of the host -/
  own : Nat × Who := (0, .nobody)
deriving DecidableEq, Repr, Inhabited

/-- A copy of an atom in an L1 (R376, R383). -/
structure L1E where
  data : List Byte := []
  wts : Nat := 0
  rts : Nat := 0
  seq : Nat := 0
  /-- dirty bytes of H-scope stores, one bit per byte, and the largest timestamp of the agents that stored them (R63, R65) -/
  dirty : Nat := 0
  hpts : Nat := 0
  /-- bytes of the version `wts`, which the lease covers, one bit per byte -/
  valid : Nat := 2 ^ 32 - 1
  tgt : Tgt := .dev 0
  part : Nat := 0
  /-- context whose store made it dirty -/
  ctx : Nat := 0
  epoch : Nat := 0
  /-- its virtual address, as that context wrote it, with the class of the store and the code of its agent (R420) -/
  va : Nat := 0
  cls : Nat := 0
  agent : Nat := 0
  /-- private memory of that context (R58) -/
  priv : Bool := false
  /-- tensor id, partition and t_p of a shadowed window's atom -/
  tag : Option (Nat × Nat × Nat) := none
  /-- its line frame has had an uncorrectable error (R439; notes/assumptions/66) -/
  psn : Bool := false
deriving DecidableEq, Repr, Inhabited

/-- An access to host or peer memory on its way (R350, R435): completed by an outside step. -/
structure Ext where
  who : Who := .nobody
  h : Nat := 0
  part : Nat := 0
  ctx : Nat := 0
  tgt : Tgt := .dev 0
  va : Nat := 0
  /-- 0 read, 1 write, 2 atomic -/
  kind : Nat := 0
  len : Nat := 4
  bytes : List Byte := []
  op : AtOp := .add
  a : Nat := 0
  b : Nat := 0
  /-- the request that carries it, with other lanes of its word and 128-byte line, and the cycle it was sent (R350) -/
  rq : Nat := 0
  sentAt : Nat := 0
deriving DecidableEq, Repr, Inhabited

/-- An atom of host or peer memory that a place has read to fetch from: until what is fetched has been taken (R350, R386, R433). -/
structure Line where
  h : Nat := 0
  tgt : Tgt := .dev 0
  data : List Byte := []
  /-- cause and subcause of a read that has failed -/
  bad : Option (Nat × Nat) := none
deriving DecidableEq, Repr, Inhabited

/-- What an agent has received for its access: bytes of a load, an old value, an acknowledgement, or a failure. -/
structure Got where
  key : Nat := 0
  ok : Bool := true
  data : List Byte := []
  val : Nat := 0
  wts : Nat := 0
  cause : Nat := 0
  sub : Nat := 0
deriving DecidableEq, Repr, Inhabited

/-- A word that STX or XCH writes into another hearth's exchange window, on its way (R11, R156): target hearth, offset in the window, source
hearth, value, agent, and the cycle of its arrival. -/
structure Stx where
  t : Nat := 0
  o : Nat := 0
  src : Nat := 0
  v : Word := 0
  who : Who := .nobody
  due : Nat := 0
  /-- its answer, on the way back to the agent -/
  ack : Option Got := none
deriving DecidableEq, Repr, Inhabited

/-! ## Control threads and task contexts -/

/-- An LR reservation (R152). -/
structure Resv where
  tgt : Tgt := .dev 0
  /-- 16-byte unit of the translated address -/
  unit : Nat := 0
  scope : Nat := 1
  /-- value returned by the LR -/
  val : Nat := 0
  valid : Bool := true
deriving DecidableEq, Repr, Inhabited

/-- What a CC instruction waits for (R158, R417): the watchdog's kinds. -/
inductive WaitK where
  | ppop | cmpwait | nbwait | causeway | version | page | cas | other
deriving DecidableEq, Repr, Inhabited

/-- A wait in progress: its kind, the cycle it began, and what the instruction noted at issue (the barrier or channel
instance it waits for). -/
structure Wait where
  kind : WaitK := .other
  since : Nat := 0
  a : Nat := 0
  b : Nat := 0
deriving DecidableEq, Repr, Inhabited

/-- The state of a CC thread (R44, R47). -/
inductive ThSt where
  | free | running | parked
deriving DecidableEq, Repr, Inhabited

/-- The stages of an instruction's own memory access (R375-R379): request sent, or acknowledgement awaited. -/
structure Xact where
  /-- a request is out and its reply has not come -/
  out : Bool := false
  got : Option Got := none
  /-- cycle at which another member's L1 slice answers (R16) -/
  due : Nat := 0
  /-- what the access was translated to -/
  tgt : Option Tgt := none
deriving DecidableEq, Repr, Inhabited

/-- A CC thread (R12, R31, R44). -/
structure Thread where
  pc : Word64 := 0
  x : Map Word64 := []
  mask : Word := 0
  slot : Nat := 0
  /-- owning context of the hearth -/
  ctx : Nat := 0
  st : ThSt := .free
  /-- path signature and pending BR bits (R338, R342) -/
  sig : Nat := 0
  br : List Bool := []
  instret : Nat := 0
  pts : Nat := 0
  resv : Option Resv := none
  wait : Option Wait := none
  xact : Xact := {}
  /-- a translation failure for the instruction at pc -/
  xf : Option Xfault := none
  /-- a walk for the instruction at pc is on its way -/
  walking : Bool := false
  /-- token of the replayable fault on which the thread is parked (R366) -/
  fault : Option Nat := none
  /-- comparators suppressed for the instruction at pc (R333); of an EBREAK, its length -/
  suppress : List Nat := []
  /-- a peer's refusal of a store, reported at the next S-scope release (R436) -/
  owed : Option Xfault := none
  /-- progress of an instruction that has several parts (16-byte access halves, fences, table reads) -/
  part : Nat := 0
  hold : List Byte := []
  /-- the instruction that has begun, as it was fetched -/
  ir : Nat := 0
  /-- the instruction at pc has been fetched: it goes on as `ir`, with the yscope and ybbase with which it issued (R154) -/
  held : Bool := false
  ys : Word64 := 1
  yb : Word64 := 0
  /-- an IINVAL has come since its table read began (R185) -/
  stale : Bool := false
  /-- one more than the cycle in which the instruction at pc was first tried, or from which its wait counts afresh (R418) -/
  since : Nat := 0
deriving DecidableEq, Repr, Inhabited

/-- An open merge (R47). -/
structure Merge where
  pc : Nat := 0
  mask : Word := 0
  sig : Nat := 0
  /-- threads parked here, in order of arrival -/
  parked : List Nat := []
  /-- the thread of the last arrival, parked or not, and the largest timestamp of an arrival (R60) -/
  lastArr : Nat := 0
  pts : Nat := 0
deriving DecidableEq, Repr, Inhabited

/-- The states of a named barrier (R180). -/
inductive NbSt where
  | invalid | armed | draining
deriving DecidableEq, Repr, Inhabited

/-- A named barrier (R180). -/
structure Nb where
  st : NbSt := .invalid
  e : Nat := 0
  a : Nat := 0
  i : Nat := 0
  p : Nat := 0
  /-- waiters: those that have been released by an invalidation still hold the instance they waited for -/
  waiters : List Who := []
  /-- instances ended by an invalidation count here, so that a waiter can tell how its wait ended -/
  inval : Nat := 0
  /-- an NBINVAL of the present cycle, which follows its releases (R181) -/
  inv : Bool := false
deriving DecidableEq, Repr, Inhabited

/-- A PRQ entry with its owner (R38, R39). -/
structure PrqE where
  w : Word64 := 0
  slot : Nat := 0
  gen : Nat := 0
deriving DecidableEq, Repr, Inhabited

/-- A block entry's table fields as BEMIT read them (R36). -/
structure BlkTab where
  need : Nat := 1
  inter : Bool := false
  s : Nat := 1
  len : Nat := 1
  /-- device virtual address of the body -/
  body : Nat := 0
deriving DecidableEq, Repr, Inhabited

/-- A BQ entry (R32): the 128 bits and, for a block, the table fields that its BEMIT read (R185). -/
structure BqE where
  bits : BitVec 128 := 0
  tab : BlkTab := {}
  /-- issue position: which later task commands follow it (R68) -/
  pos : Nat := 0
  /-- the pusher's timestamp, for the acquire at block start (R65) -/
  pts : Nat := 0
  /-- the PHASE channel whose phase block it is (R114) -/
  phase : Option Nat := none
deriving DecidableEq, Repr, Inhabited

/-- A receive-buffer entry of a broadcast channel (R109): the cycle its value arrives, and the value once it is full. -/
structure RxE where
  ch : Nat := 0
  due : Nat := 0
  full : Bool := false
  v : Word64 := 0
deriving DecidableEq, Repr, Inhabited

/-- A task record as dispatched (R20). -/
structure Record where
  addr : Nat := 0
  code : Nat := 0
  frame : Nat := 0
  join : Nat := 0
  kind : Nat := 0
  prio : Nat := 0
  aff : Nat := 0
  succ0 : Nat := 0
  succ1 : Nat := 0
deriving DecidableEq, Repr, Inhabited

/-- The trace stream of a context (R335-R341). -/
structure Trace where
  /-- the context's task is traced -/
  on : Bool := false
  lastTime : Nat := 0
  /-- GCC of the last SYNC -/
  lastSync : Nat := 0
  sinceSync : Nat := 0
  lost : Nat := 0
  prevBlk : Nat := 0
  head : Nat := 0
deriving DecidableEq, Repr, Inhabited

/-- The phases of a context (R31, R330, R411, R419, R421). -/
inductive CtxSt where
  | idle | running | stopping | killing
deriving DecidableEq, Repr, Inhabited

/-- A task context (R13, R31). -/
structure Ctx where
  st : CtxSt := .idle
  part : Nat := 0
  task : Record := {}
  /-- GCC of the dispatch -/
  disp : Nat := 0
  gens : Map Nat := []
  depth : Nat := 0
  stackSigs : List Nat := []
  merges : List Merge := []
  ybbase : Word64 := 0
  yscope : Word64 := 1
  yxwin : Word64 := 0
  cmp : Map Int := []
  /-- threads waiting at a CMPWAIT: counter and thread, in issue order (R174) -/
  cmpQ : List (Nat × Nat) := []
  /-- by counter, one more than the cycle of the last POST or CMPDISC, and than that of the last waiter served (R174) -/
  cmpMoved : Map Nat := []
  cmpServed : Map Nat := []
  /-- one more than the last cycle in which a split acted, and the highest slot that did (R159) -/
  slotAt : Nat × Nat := (0, 0)
  /-- the thread that is pushing to or popping from the split stack (R46) -/
  stackBy : Option Nat := none
  nb : Map Nb := []
  bq : List BqE := []
  prq : List PrqE := []
  seq : Nat := 0
  /-- the position counter of R68 -/
  pos : Nat := 0
  lastBemit : Nat := 0
  lastPop : Nat := 0
  rx : List RxE := []
  /-- token of the trap on which the task is frozen; one more than the cycle of that trap, and its agent code (R419) -/
  trapped : Option Nat := none
  trapAt : Nat × Nat := (0, 0)
  halted : Bool := false
  /-- cycle at which the halt took effect -/
  haltAt : Nat := 0
  haltReq : Bool := false
  /-- a step of one pass is to run while halted (R332) -/
  step1 : Bool := false
  /-- cycle at which a pre-emption signal arrives (R411) -/
  signal : Option Nat := none
  epoch : Nat := 0
  trace : Trace := {}
  /-- image slot of the record, with images written so far (R413) -/
  slot : Option Nat := none
  images : Nat := 0
  /-- scratchpad granules written since dispatch or restore (R414) -/
  wrGran : List Nat := []
  /-- granules that the record's images hold (R413) -/
  imgGran : List Nat := []
deriving DecidableEq, Repr, Inhabited

/-! ## Lane groups -/

/-- Where a fixed-latency result goes (R300). -/
inductive PendDst where
  | v (phys : Nat) | p (i : Nat)
  /-- %fflags is replaced (R86) -/
  | fflags
  | nothing
deriving DecidableEq, Repr, Inhabited

/-- A pending fixed-latency result (R298, R300): the lanes written, their values, the local cycle, the producer's place. -/
structure Pend where
  dst : PendDst := .nothing
  vals : List (Nat × Word) := []
  due : Nat := 0
  word : Nat := 0
  pass : Nat := 0
  seq : Nat := 0
  /-- flags ORed into %fflags with the result (R190) -/
  flags : Nat := 0
deriving DecidableEq, Repr, Inhabited

/-- One lane's access of a lane operation: translated (`ready`), performed (`done`); an access that is done and no longer ready
has written its lane. -/
structure LaneAcc where
  lane : Nat := 0
  va : Nat := 0
  tgt : Tgt := .dev 0
  a : Nat := 0
  b : Nat := 0
  /-- translated -/
  ready : Bool := false
  /-- its translation has been dropped while a suspended command held it back: it translates again before it is made (R357) -/
  again : Bool := false
  x : Xact := {}
  done : Bool := false
  val : Nat := 0
  /-- the access ended with uncorrectable data or a refusal -/
  bad : Option Xfault := none
deriving DecidableEq, Repr, Inhabited

/-- The counted classes of R232 that lane words issue. -/
inductive OpCls where
  | l | s | t
deriving DecidableEq, Repr, Inhabited

/-- What a lane operation does with each lane's unit. -/
inductive OpKind where
  | load (sgn : Bool) | store | atomic (op : AtOp) | stx | priv (store : Bool)
deriving DecidableEq, Repr, Inhabited

/-- The tile operations (R249-R252). -/
inductive TileK where
  | mma (fmt : Nat) (off : Nat) | mzero | mwr (col : Nat) | mscat (rm : Rm) (fmt : AccFmt)
deriving DecidableEq, Repr, Inhabited

/-- An exchange window as a hearth holds it (R15, R156). -/
structure Xwin where
  ctx : Nat := 0
  base : Nat := 0
  size : Nat := 0
  /-- the halves have been exchanged an odd number of times -/
  swapped : Bool := false
deriving DecidableEq, Repr, Inhabited

/-- An outstanding counted operation of a group (R232, R305). -/
structure LaneOp where
  id : Nat := 0
  /-- issue number in its class -/
  no : Nat := 0
  cls : OpCls := .l
  kind : OpKind := .store
  width : Nat := 4
  scope : Nat := 1
  acls : Nat := 0
  /-- destination registers (physical, low first), or an oq number -/
  dst : List Nat := []
  oq : Option Nat := none
  /-- the destination is %fflags (R86) -/
  ff : Bool := false
  acc : List LaneAcc := []
  tile : Option TileK := none
  bank : Nat := 0
  lanes : List (Nat × Word) := []
  z : Bool := false
  started : Bool := false
  done : Bool := false
  /-- block sequence, word offset and pass of its issue -/
  seq : Nat := 0
  word : Nat := 0
  pass : Nat := 0
  /-- issue position of its block (R68) -/
  pos : Nat := 0
  /-- GCC at which a tile operation started (R250) -/
  t0 : Nat := 0
  /-- the feeder holds the A rows of an MMA (R17) -/
  fed : Bool := false
  /-- the exchange window by which an MMA's or MSCAT's local addresses were mapped as it issued (R15, R57) -/
  xw : Option Xwin := none
  /-- bytes of an MMA's A rows, by local address, as they were before a later STS of the group replaced them (R60, R63) -/
  keep : Map Byte := []
deriving DecidableEq, Repr, Inhabited

/-- A destination whose load came back uncorrectable or refused by a peer: physical register, the load's issue number and
place, and what its report will say (R213, R436). -/
structure Poison where
  /-- physical register; 512 for %fflags, 513 for a destination that no word reads -/
  phys : Nat := 0
  f : Xfault := {}
  no : Nat := 0
  word : Nat := 0
  pass : Nat := 0
  seq : Nat := 0
deriving DecidableEq, Repr, Inhabited

/-- A page of the word at which a group stands that has no valid entry: what its fault entry will say (R212, R365). -/
structure NoPage where
  va : Nat := 0
  level : Nat := 0
  reason : Nat := 0
  tid : Nat := 0
  tile : Nat := 0
deriving DecidableEq, Repr, Inhabited

/-- A PRET whose entry has not entered the PRQ (R225). -/
structure Pret where
  e : PrqE := {}
  notBefore : Nat := 0
  /-- the operation number of the next store after it: every earlier one must be performed -/
  ops : Nat := 0
  /-- place of its word and the word's executing lanes, for a trap (R39) -/
  pos : Nat := 0
  mask : Nat := 0
deriving DecidableEq, Repr, Inhabited

/-- An arrival of a lane NBARRIVE that has not been performed (R235): its barrier, the number of the next operation of its group, and whether
the stores before it are on their way to their homes. -/
structure NbArr where
  n : Nat := 0
  ops : Nat := 0
  sent : Bool := false
deriving DecidableEq, Repr, Inhabited

/-- The running block of a group (R35, R41). -/
structure Blk where
  seq : Nat := 0
  idx : Nat := 0
  n : Nat := 0
  tab : BlkTab := {}
  mask : Word := 0
  rel : Bool := false
  slot : Nat := 0
  gen : Nat := 0
  pos : Nat := 0
  /-- pass k and the next word -/
  k : Nat := 0
  w : Nat := 0
  /-- a pass is open: its stage predicates are set -/
  inPass : Bool := false
  /-- the last word of the last pass has issued -/
  fin : Bool := false
  /-- phase block: its channel, and the release that opened its phase -/
  phase : Option Nat := none
  t0 : Nat := 0
  /-- the words it began with (R185) -/
  body : List Word64 := []
deriving DecidableEq, Repr, Inhabited

/-- A lane group (R12, R14, R31, R307). -/
structure Group where
  /-- physical register × 32 + lane -/
  v : Map Word := []
  /-- p1-p7, one bit per lane -/
  p : Map Word := []
  k : Map Word64 := []
  iq : Map (List (List Word)) := []
  oq : Map (List (List Word)) := []
  fflags : Nat := 0
  exited : Word := 0
  wa : Nat := 0
  lo : Nat := 0
  /-- accumulators: (bank × 32 + row) × 32 + column -/
  acc : Map Word := []
  ver : Map Nat := []
  blk : Option Blk := none
  /-- the window delta of the head entry is being applied: chunks remain to move (R309) -/
  winTo : Option Nat := none
  winPart : Nat := 0
  /-- sequence number of the entry whose delta is being applied, and the access of the present atom -/
  winSeq : Nat := 0
  winX : Xact := {}
  pend : List Pend := []
  ops : List LaneOp := []
  nextOp : Nat := 0
  prets : List Pret := []
  pts : Nat := 0
  /-- timestamps that a BEMIT.RL carries to the next pass that starts (R65) -/
  acqPts : Nat := 0
  everRan : Bool := false
  lastPart : Nat := 0
  perf : Map Word64 := []
  /-- one more than the last cycle in which an event was counted, and what the counters gained in it (R345) -/
  perfAt : Nat := 0
  perfNow : Map Nat := []
  /-- first local cycle at which the next word may issue (R297) -/
  nextIssue : Nat := 0
  walking : Bool := false
  /-- failures of the walks made for the word at which the group stands, or for its window -/
  xfs : List Xfault := []
  fault : Option Nat := none
  /-- lanes of the word at which the group stands that have not finished (R212) -/
  unfinished : Option Word := none
  wait : Option Wait := none
  suppress : List Nat := []
  poisoned : List Poison := []
  /-- pages of the word at which the group stands that a walk found without a valid entry -/
  nopage : List NoPage := []
  /-- refused exchange writes and stores to peers: issue number in class S and what the report will say (R156, R436) -/
  refused : List (Nat × Xfault) := []
  /-- physical chunks and accumulator rows (bank × 32 + row) written since dispatch or restore, as bit sets (R414) -/
  wrV : Nat := 0
  wrAcc : Nat := 0
  /-- position word 0 and stage mask of the last pass (R329, R334) -/
  lastPos : Nat := 0
  lastSt : Nat := 0
  /-- operations issued in each class L, S, T since dispatch -/
  issued : Map Nat := []
  /-- arrivals of NBARRIVE that wait for earlier stores (R235) -/
  nbArr : List NbArr := []
  /-- the PHASE channel on which the context has arrived since its last block push, and whether the next push is its phase block (R114) -/
  phaseNext : Option Nat := none
deriving DecidableEq, Repr, Inhabited

/-! ## Hearths -/

/-- A 128-byte register in flight or at an input port of a transfer phase (R115, R116). -/
structure Reg where
  h : Nat := 0
  port : Nat := 0
  /-- cycle at which beat 1 arrives; beat 2 follows one cycle later -/
  at1 : Nat := 0
  vals : List Word := []
  /-- the PHASE channel in whose phase it was sent, and the release that opened the phase -/
  ch : Nat := 0
  t0 : Nat := 0
  /-- a beat was received with an error that could not be mended: unreadable (R390) -/
  bad : Bool := false
deriving DecidableEq, Repr, Inhabited

/-- A hearth (R12). -/
structure Hearth where
  /-- scratchpad and B store bytes by address -/
  pad : Map Byte := []
  bst : Map Byte := []
  /-- addresses of bytes of the scratchpad and the B store, and keys of block-store words, that cannot be read: an uncorrectable error has met
  them (R439; notes/assumptions/66) -/
  badPad : List Nat := []
  badBst : List Nat := []
  badWords : List Nat := []
  /-- exchange windows by context (at most one holds one) -/
  xwin : Option Xwin := none
  /-- a setting on its way to the other hearths: cycle of arrival and the setting (R156) -/
  xnew : List (Nat × Option Xwin) := []
  /-- the settings of other hearths as received here, by hearth: size in units -/
  xseen : Map Nat := []
  tlb : List TlbE := []
  /-- block store: lane words by partition and address, and table entries (R37, R160) -/
  bstore : Map Word64 := []
  btab : Map (BitVec 128) := []
  /-- clock step code and the re-sync value from which it counts (R371) -/
  step : Nat := 0
  sync : Nat := 0
  cycBase : Nat := 0
  /-- the step in force is a throttle ceiling's (R18) -/
  capped : Bool := false
  ports : List Reg := []
  outBusy : Map Nat := []
  /-- bank-conflict matrix and its latch (R343, R344) -/
  conf : Map Nat := []
  bankHead : Nat := 0
  bankMiss : Nat := 0
  /-- exits missed since the previous snapshot -/
  bankSkip : Nat := 0
  /-- the cycle in which the entry of the held latch is in T (R344) -/
  bankDue : Option Nat := none
  /-- 16-byte accesses ready for a bank and not served, by requester × 64 + bank (R15, R343) -/
  banks : Map Nat := []
  /-- one more than the cycle of the last write of a PERFSEL register, and what those written in it held before, by partition × 64 + offset
  (R345) -/
  selAt : Nat := 0
  selWas : Map Word64 := []
  /-- A tiles that the operand feeder holds, by group: scratchpad bytes and number of each row; and the group and operation whose rows it is
  reading (R17) -/
  feed : Map (List (Nat × Nat)) := []
  feeding : Option (Nat × Nat) := none
  /-- the context whose queue the engine takes words from, by engine (R243) -/
  turn : Map Nat := []
  /-- SEQ of recalls seen while a miss is out, by atom key (R382) -/
  seqSeen : Map Nat := []
  /-- atoms whose misses that are out serve their accesses and are not kept: their granule has been zeroed, or the driver has written
  them (R369, R323) -/
  noKeep : List Nat := []
  /-- one more than the last cycle in which a context took a pool thread, and the highest such context (R44) -/
  poolAt : Nat × Nat := (0, 0)
  /-- t_p of the last TREC seen, by tensor key (R383) -/
  trecSeen : Map Nat := []
  /-- largest timestamp of the write-backs of its L1 that have been acknowledged (R377, R67) -/
  wbPts : Nat := 0
deriving DecidableEq, Repr, Inhabited

/-! ## Engines -/

/-- A tensor operand as captured by a command (R265). -/
structure TenOp where
  tid : Nat := 0
  cls : Nat := 0
  rpt : Bool := false
  raddr : Nat := 0
  c : List Nat := []
deriving DecidableEq, Repr, Inhabited

/-- The launch words (R243). -/
inductive CmdK where
  | accst (bank fmt : Nat) | accld (bank fmt : Nat) | accclr (bank : Nat) | spgemm
  | cpy | zero | bloadb | xch | tcpy | tgath (wide : Bool) | tscat (wide : Bool) | slred
  | strm (q : Nat) | strmt (q : Nat) | ostrm (q : Nat)
  | rvtab | reval (b : Nat)
deriving DecidableEq, Repr, Inhabited

/-- The rule that a REVAL is reading (R259-R261): its id, and the stream word index of its header. -/
structure RuleSt where
  id : Nat := 0
  start : Nat := 0
deriving DecidableEq, Repr, Inhabited

/-- The progress of an SPGEMM (R257). -/
structure SpSt where
  /-- 0 descriptor, 1 first offset, 2 row of A, 3 entry of A, 4 entry of B, 5 row of C, 6 header, 7 done -/
  ph : Nat := 0
  desc : List Word64 := []
  row : Nat := 0
  /-- entry reached and end of the row of A, with the entry's value -/
  e : Nat := 0
  e1 : Nat := 0
  a : Nat := 0
  /-- entry reached and end of the row of B -/
  f : Nat := 0
  f1 : Nat := 0
  /-- column and the two factors of each product of the row -/
  prods : List (Nat × Nat × Nat) := []
  /-- entries of the row of C that remain to be stored -/
  outs : List (Nat × Nat) := []
  total : Nat := 0
deriving DecidableEq, Repr, Inhabited

/-- A decoded command: operands, captured setters and mode, place, progress (R243, R245, R246). -/
structure Cmd where
  kind : CmdK := .accclr 0
  /-- queue position of the launch word and PC of its sender (R149) -/
  pos : Nat := 0
  pc : Nat := 0
  /-- issue position of R68 -/
  ipos : Nat := 0
  args : List Nat := []
  src : Option TenOp := none
  dst : Option TenOp := none
  box : Option (Nat × List Nat) := none
  rxin : Option (Nat × Nat × Nat × Bool) := none
  rprog : Option (Nat × Nat × Nat × Nat) := none
  ryout : Option (Nat × Nat × Nat) := none
  rdlim : Nat := 16
  fibre : Nat × Nat := (0, 0)
  rm : Nat := 0
  ftz : Bool := false
  t : Nat := 0
  started : Bool := false
  /-- element reached, and bytes written (R268) -/
  elem : Nat := 0
  count : Nat := 0
  done : Bool := false
  /-- ended by a trap: nothing behind it that waits for it is performed -/
  dead : Bool := false
  fault : Option Nat := none
  xf : Option Xfault := none
  walking : Bool := false
  /-- host or peer access out, and its answer -/
  xact : Xact := {}
  /-- stages of the present element made, and the bytes that they loaded -/
  part : Nat := 0
  hold : List Byte := []
  /-- a store of the present element that a trap of the task holds back: target, bytes, class (R420) -/
  held : Option (Tgt × List Byte × Nat) := none
  /-- a page or tile of the present element that has no valid entry -/
  nopage : Option NoPage := none
  /-- flags raised so far (R247) -/
  flags : Nat := 0
  /-- decode order, and the cycle at which its present wait began (R418) -/
  no : Nat := 0
  since : Nat := 0
  /-- active sets of the shadowed tensors at launch (R73), and what their publishers' timestamps were (R65) -/
  sets : Map Nat := []
  setPts : Nat := 0
  /-- one more than the cycle of its launch (R263, R264) -/
  startAt : Nat := 0
  /-- it has accessed host or peer memory: its completion is a release at S scope (R65, R379) -/
  ext : Bool := false
  /-- elements in all; of a stream, fewer once SCLOSE has cut it (R274) -/
  total : Nat := 0
  /-- elements of the input entry being filled (R270) -/
  buf : List Word := []
  /-- words of a leaf stream (R269), of the rule being read (R259), indices that a TSCAT has used (R267) -/
  words : List Word64 := []
  /-- index of the slice being copied (R267) -/
  idx : Nat := 0
  /-- rule values by RVF entry × 8 + batch column, depths by RVF entry (R260); of a CPY whose ranges overlap, the bytes that its
  stores replaced (R264) -/
  vals : Map Word := []
  depths : Map Nat := []
  rule : RuleSt := {}
  sp : SpSt := {}
deriving DecidableEq, Repr, Inhabited

/-- An item of an engine queue in decode order (R243, R244, R172). -/
inductive Item where
  | cmd (n : Nat)
  | post (c pos pc : Nat)
  | arrive (n pos pc : Nat)
  | fence
deriving DecidableEq, Repr, Inhabited

/-- A queued word: the word, the PC of its ESEND or ERUN, its issue position. -/
structure QWord where
  w : BitVec 16 := 0
  pc : Nat := 0
  ipos : Nat := 0
deriving DecidableEq, Repr, Inhabited

/-- An engine queue: key 4·(4h + c) + engine, or 4096 + e for the record of copy engine e (R169, R240, R26). -/
structure EngQ where
  words : List QWord := []
  /-- words taken so far: the queue position of the head word, modulo 2^32 (R149) -/
  taken : Nat := 0
  /-- one more than the cycle at which the head word's wait began; 0 while it does not wait (R418) -/
  since : Nat := 0
  stack : List Word64 := []
  rm : Nat := 0
  ftz : Bool := false
  vmode : Bool := false
  /-- one more than the cycle of the last VMODE, and what held before that cycle: MMAs of later cycles see the new mode (R251) -/
  vmodeAt : Nat := 0
  vmodeWas : Bool := false
  fibre : Nat × Nat := (0, 0)
  src : Option TenOp := none
  dst : Option TenOp := none
  box : Option (Nat × List Nat) := none
  rxin : Option (Nat × Nat × Nat × Bool) := none
  rprog : Option (Nat × Nat × Nat × Nat) := none
  ryout : Option (Nat × Nat × Nat) := none
  rdlim : Nat := 16
  vt : Map Word := []
  cmds : Map Cmd := []
  nextCmd : Nat := 0
  items : List Item := []
  /-- script being fetched: address of the next word, words left, PC, issue position (R171) -/
  fetch : Option (Nat × Nat × Nat × Nat) := none
  /-- a copy record's script whose header has not been read (R26, R150) -/
  fetchHead : Bool := false
  fetchFault : Option Nat := none
  fetchWalking : Bool := false
  fetchXf : Option Xfault := none
  pts : Nat := 0
  /-- the copy record that owns the queue, with its partition (copy-record queues only) -/
  crec : Option (Nat × Record) := none
deriving DecidableEq, Repr, Inhabited

/-! ## Partitions -/

/-- A pending trap record (R416): its sixteen words. -/
structure TrapRec where
  words : List Word64 := []
  token : Nat := 0
deriving DecidableEq, Repr, Inhabited

/-- What a trap token stands for (R419). -/
structure TrapTok where
  token : Nat := 0
  h : Nat := 0
  c : Nat := 0
  cause : Nat := 0
  sub : Nat := 0
  /-- agent code and, for a thread, its number; for a command, queue and number -/
  agent : Nat := 0
  /-- detail word 8: the comparator number -/
  d8 : Nat := 0
  who : Who := .nobody
deriving DecidableEq, Repr, Inhabited

/-- A pending fault entry (R365): its four words. -/
structure FaultE where
  words : List Word64 := []
  token : Nat := 0
deriving DecidableEq, Repr, Inhabited

/-- A held fault token (R366): who is parked. -/
structure FaultTok where
  token : Nat := 0
  who : Who := .nobody
  va : Nat := 0
  /-- cycle at which the agent parked (R418) -/
  since : Nat := 0
  /-- REPLAY arrived while the context was saved -/
  replayed : Bool := false
  refused : Bool := false
deriving DecidableEq, Repr, Inhabited

/-- An entry of a ready queue (R28, R409): record address and image slot + 1. -/
structure ReadyE where
  addr : Nat := 0
  img : Nat := 0
deriving DecidableEq, Repr, Inhabited

/-- A push that waits at a home or in the launch window (R28, R325). -/
structure PushW where
  addr : Nat := 0
  /-- its level; 256 while the record of a launch window's push has not been read -/
  level : Nat := 0
  /-- the launch window holds it -/
  window : Bool := false
  /-- the thread whose TSPAWN, TJOIN or TYIELD waits for the ring to accept it -/
  who : Who := .nobody
deriving DecidableEq, Repr, Inhabited

/-- A join decrement on its way (R24): successor, and the thread whose instruction it is. -/
structure Dec where
  succ : Nat := 0
  who : Who := .nobody
  /-- of a TJOIN: a failure is the instruction's own (R177) -/
  join : Bool := false
deriving DecidableEq, Repr, Inhabited

/-- A fan-out walk (R25): record address, and once it is checked the record with the number of listed successors that have been taken. -/
structure Fan where
  addr : Nat := 0
  pos : Option (Record × Nat) := none
  who : Who := .nobody
deriving DecidableEq, Repr, Inhabited

/-- A channel as latched at the start (R404). -/
structure ChCfg where
  kind : Nat := 0
  members : List Nat := []
  sender : Nat := 0
  lph : Nat := 0
deriving DecidableEq, Repr, Inhabited

/-- The latched node of a tree (R405). -/
structure Node where
  kind : Nat := 0
  unit : Nat := 0
  parent : Nat := 127
  port : Nat := 0
deriving DecidableEq, Repr, Inhabited

/-- A latched tree (R405). -/
structure Tree where
  inTy : Nat := 0
  outTy : Nat := 0
  thr : Nat := 1024
  dest : Nat := 0
  cls : Nat := 0
  nodes : List Node := []
deriving DecidableEq, Repr, Inhabited

/-- An affinity class as latched (R403): bit sets. -/
structure AffCls where
  hset : Nat := 0
  eset : Nat := 0
deriving DecidableEq, Repr, Inhabited

/-- A kill in progress (R421). -/
structure KillP where
  h : Nat := 0
  c : Nat := 0
  /-- the driver's KILL counts in KSTAT -/
  counted : Bool := true
deriving DecidableEq, Repr, Inhabited

/-- An invalidation command (R357): kind, first address or tensor id, page count, and the entries that it has dropped. -/
structure InvC where
  kind : Nat := 0
  a : Nat := 0
  n : Nat := 0
  dropped : List TlbE := []
deriving DecidableEq, Repr, Inhabited

/-- The active set of a shadowed tensor (R74): set, t_p of the last exchange, pending exchanges. -/
structure Shadow where
  act : Nat := 0
  tp : Nat := 0
  /-- t_p of exchanges that have not taken effect, the earliest first -/
  pend : List Nat := []
  /-- timestamps of the publishers: of the exchanges that have taken effect, and of those that pend with their t_p (R65) -/
  pts : Nat := 0
  pubs : List (Nat × Nat) := []
deriving DecidableEq, Repr, Inhabited

/-- A saved context (R413), held beside its image slot. -/
structure Image where
  h : Nat := 0
  ctx : Ctx := {}
  threads : List (Nat × Thread) := []
  grp : Group := {}
  engines : List EngQ := []
  xwin : Option Xwin := none
deriving DecidableEq, Repr, Inhabited

/-- A partition (R400-R421). -/
structure Part where
  /-- 0 stopped, 1 running, 2 draining, 3 killing -/
  state : Nat := 0
  err : Nat := 0
  errIdx : Nat := 0
  aff : Map AffCls := []
  trees : Map Tree := []
  wires : Map Nat := []
  hset : Nat := 0
  fuse : Nat := 0
  ready : Map (List ReadyE) := []
  /-- entries dispatched from each ring, modulo its capacity: the ring's head index -/
  rhead : Map Nat := []
  pushes : List PushW := []
  /-- launch window LSTAT (R324): accepted count, last error -/
  accepted : Nat := 0
  lerr : Nat := 0
  decs : List Dec := []
  fans : List Fan := []
  slots : Map Image := []
  supp : Nat := 0
  suppPair : Option (Nat × Nat) := none
  /-- the pre-emption in progress: target context key -/
  preempt : Option Nat := none
  tqHead : Nat := 0
  traps : List TrapRec := []
  trapToks : List TrapTok := []
  nextTok : Nat := 0
  fqHead : Nat := 0
  faults : List FaultE := []
  faultToks : List FaultTok := []
  kIssued : Nat := 0
  kDone : Nat := 0
  kills : List KillP := []
  invIssued : Nat := 0
  invDone : Nat := 0
  invs : List InvC := []
  shadow : Map Shadow := []
  /-- budgets used in the period by unit, and the limits in force (R407, R408) -/
  used : Map Nat := []
  limit : Map Nat := []
  sigHead : Nat := 0
  sigLost : Nat := 0
deriving DecidableEq, Repr, Inhabited

/-! ## The Causeway -/

/-- A contribution to a reduction (R110): operation and value. -/
structure Contrib where
  op : Nat := 0
  v : Int := 0
deriving DecidableEq, Repr, Inhabited

/-- A transfer phase (R113): its t0, the members whose start at ph = 8 has been settled, those that it does not bind because their task
has ended since its arrival (R112), and the cycle of an abort. -/
structure Phase where
  t0 : Nat := 0
  begun : List Nat := []
  absent : List Nat := []
  abort : Option Nat := none
deriving DecidableEq, Repr, Inhabited

/-- A channel's state (R106, R110, R113); keys are the entries of the channel table. -/
structure Chan where
  part : Option Nat := none
  cfg : ChCfg := {}
  inst : Nat := 0
  /-- instance of each member's latest arrival, by context key; unlisted means none since its dispatch -/
  arr : Map Nat := []
  /-- members that have arrived in the current instance, and those with an early arrival -/
  here : List Nat := []
  early : List Nat := []
  /-- members whose task has ended since its arrival in the current instance, and since its early arrival (R112) -/
  oldHere : List Nat := []
  oldEarly : List Nat := []
  /-- cycle of the last arrival sent in the current instance, and in the next -/
  last : Nat := 0
  lastE : Nat := 0
  contrib : Map Contrib := []
  contribE : Map Contrib := []
  /-- the open phases, the oldest first -/
  phases : List Phase := []
  /-- a CWBCAST held at its sender -/
  held : Option Word64 := none
  /-- release cycle of the instance just released -/
  relAt : Nat := 0
  /-- largest timestamp of an arrival (R65) -/
  pts : Nat := 0
  /-- exchanges of halves made, for an EXCH channel, and the cycles of those to come (R108) -/
  swaps : Nat := 0
  swapAt : List Nat := []
  /-- results of the released reduction instances -/
  results : List (Nat × Option Int) := []
deriving DecidableEq, Repr, Inhabited

/-! ## Sluice, host link, pods, fleet -/

/-- A stream at one place of a reduction (R118, R122): segments delivered, in order, and whether the trailer has come. -/
structure Seg where
  seg : Nat := 0
  dense : Bool := false
  vals : Map Word := []
  flags : Nat := 0
  count : Nat := 0
deriving DecidableEq, Repr, Inhabited

/-- A stream trailer (R118). -/
structure STrail where
  flags : Nat := 0
  count : Nat := 0
deriving DecidableEq, Repr, Inhabited

/-- A child stream held at a merge node's port, or the merged stream that waits at the root. -/
structure Strm where
  segs : List Seg := []
  trail : Option STrail := none
deriving DecidableEq, Repr, Inhabited

/-- A reduction in progress on a tree. -/
structure Reduc where
  /-- streams delivered, by node × 4 + port -/
  ports : Map Strm := []
  /-- the merged stream at the root -/
  out : Strm := {}
  /-- SLRED commands that wait for the root: queue and command -/
  leaves : List (Nat × Nat) := []
  /-- leaves that have joined, by node -/
  joined : List Nat := []
  /-- element reached by the root's store, and the largest stamp of its stores (R380) -/
  stored : Nat := 0
  pts : Nat := 0
  /-- the merged stream has left for the parent package (R440) -/
  sent : Bool := false
deriving DecidableEq, Repr, Inhabited

/-- A page request or ATS request in flight (R359, R360): `denied` while its page request waits for a free one of the package's 1,024
(R348), `prg` once that is out, under PRG index `ix`. -/
structure AtsReq where
  part : Nat := 0
  iova : Nat := 0
  write : Bool := false
  denied : Bool := false
  prg : Bool := false
  ix : Nat := 0
  walk : Walk := {}
  tlb : TlbE := {}
  /-- hardware of the partition asks for it, and it has been refused (R22, R359) -/
  sys : Bool := false
  refused : Bool := false
deriving DecidableEq, Repr, Inhabited

/-- A cached ATS translation of a die (R356, R359, R361): of a range of IO virtual addresses, to a host physical address. -/
structure AtsE where
  die : Nat := 0
  pasid : Nat := 0
  iova : Nat := 0
  lg : Nat := 12
  frame : Nat := 0
  w : Bool := false
deriving DecidableEq, Repr, Inhabited

/-- An Invalidate Request of the host that has not been completed (R361): the accesses that it waits for. -/
structure AtsInv where
  waits : List Who := []
deriving DecidableEq, Repr, Inhabited

/-- A back-invalidation snoop to the host that waits for its answer (R385). -/
structure BiSnp where
  line : Nat := 0
  inv : Bool := true
deriving DecidableEq, Repr, Inhabited

/-- A queue pair in service (R441-R445). -/
structure Qp where
  inService : Bool := false
  err : Bool := false
  /-- it has moved to error, and its posted entries have not been completed (R445) -/
  failing : Bool := false
  part : Nat := 0
  tab : Map Word64 := []
  /-- send producer and consumer index, receive producer and consumer index -/
  spi : Nat := 0
  sci : Nat := 0
  rpi : Nat := 0
  rci : Nat := 0
  /-- the entry at `sci` has been sent whole and awaits its acknowledgement or data -/
  sent : Bool := false
  /-- retries used, and bytes sent of the entry at `sci` -/
  tries : Nat := 0
  offset : Nat := 0
  /-- the greatest timestamp of the station's stores for the queue pair (R443, R444) -/
  pts : Nat := 0
deriving DecidableEq, Repr, Inhabited

/-- What leaves the package on its links: packets of a queue pair and its answers (R443, R444), answers to peers and to the host (R348, R385, R435),
and a merged stream on its way to the parent package (R440). -/
inductive SentK where
  | send | write | readRequest | readData | ack | rnrNak | accessNak
  | answer | refusal
  | stream
deriving DecidableEq, Repr, Inhabited

/-- One of them: the queue pair, tree or source that it belongs to; remote address and key; the subcause of a refusal, the port or the length; the
bytes; of a stream the parent package in `addr` and the words in `words`. -/
structure Sent where
  kind : SentK
  unit : Nat := 0
  addr : Nat := 0
  key : Nat := 0
  n : Nat := 0
  data : List Byte := []
  words : List Nat := []
deriving DecidableEq, Repr, Inhabited

/-- A tracked location of a RAS page (R447, R449). -/
structure RasLoc where
  die : Nat := 0
  src : Nat := 0
  loc : Nat := 0
  count : Nat := 0
  start : Nat := 0
deriving DecidableEq, Repr, Inhabited

/-- A die: sweeper, zeroing unit, start-up code and telemetry (R367, R369, R425, R448-R452). -/
structure Die where
  /-- last-level TLB and cache of pointer entries, the newest first (R356) -/
  tlb : List TlbE := []
  ptrs : List PtrE := []
  hand : Nat := 0
  /-- one more than the last cycle in which a home set A in the frame table, and the frames whose A was set in it (R367) -/
  setAt : Nat := 0
  setA : List Nat := []
  cqHead : Nat := 0
  zIssued : Nat := 0
  zDone : Nat := 0
  /-- zeroing commands: first granule and count, the oldest first -/
  zcmds : List (Nat × Nat) := []
  /-- the oldest zeroing command has marked its granules and sent its probes -/
  zProbes : Bool := false
  bootStat : Nat := 0
  /-- cycles by which the die's GCC tap lags: only a hardware fault makes it non-zero (R370) -/
  gccLag : Nat := 0
  gccFix : Nat := 0
  linkRepair : Nat := 0
  linkRetrain : Nat := 0
  /-- throttle ceiling set by the power limit, as a step code (R451) -/
  throttle : Nat := 0
  /-- a hearth sensor has reached 100.0 °C and has not fallen below 95.0 °C (R452) -/
  hot : Bool := false
  throtCyc : Nat := 0
  /-- readings of its hearths' sensors and of its HBM4 stacks in 1/16 °C, by hearth and stack, and power in 1/8 W, as last reported (R448) -/
  coreTemps : Map Int := []
  hbmTemps : Map Int := []
  power : Nat := 0
  /-- one more than the cycle in which a reading first reached 110.0 °C (R452) -/
  critAt : Nat := 0
  /-- event ring: entries written and dropped (R449) -/
  evHead : Nat := 0
  evLost : Nat := 0
  /-- one more than the cycle of the error counted last, and its structure and location (R447) -/
  errAt : Nat := 0
  errLast : Nat × Nat := (0, 0)
deriving DecidableEq, Repr, Inhabited

/-- A retired or retiring location: die, structure, location (R446). -/
structure Retired where
  die : Nat := 0
  src : Nat := 0
  loc : Nat := 0
deriving DecidableEq, Repr, Inhabited

/-- The module's start-up state (R423-R429, R450). -/
structure Boot where
  /-- step 9 has been reached (R425) -/
  up : Bool := false
  /-- flash slots as staged since the factory: `none` holds what the factory wrote (R423) -/
  slotA : Option (List Byte) := none
  slotB : Option (List Byte) := none
  /-- the MMC's counter -/
  counter : Nat := 0
  /-- selected slot: 0 A, 1 B -/
  sel : Option Nat := none
  /-- the selected record -/
  record : List Byte := []
  /-- AK seed, held until reset, and the DIK's signature made at this start (R426) -/
  akSeed : List Byte := []
  dikSig : List Byte := []
  /-- mailbox: commands completed and the last result (R427) -/
  mbDone : Nat := 0
  mbRes : Nat := 0
  /-- the command in progress: its number and the first cycle in which it may end (notes/assumptions/59) -/
  mb : Option (Nat × Nat) := none
  /-- fitted DDR5 bytes -/
  ddr5 : Nat := 0
  /-- retirement log of the MMC, and row spares being filled (R450) -/
  retired : List Retired := []
  /-- locations marked lasting whose retirement has not been made (R447) -/
  lasting : List Retired := []
  sparing : List Retired := []
deriving DecidableEq, Repr, Inhabited

/-! ## The package -/

/-- The state of the package. -/
structure State where
  powered : Bool := true
  gcc : Nat := 0
  /-- MODEL: the moves to come; which agent moves when it is empty is free (notes/assumptions/1) -/
  sched : List Turn := []
  /-- MODEL: the agent that the instruction runs on -/
  focus : Focus := {}
  /-- MODEL: counts steps; the free values are functions of it (notes/assumptions/5) -/
  tick : Nat := 0
  mem : List Host.Cell := []
  zeroed : List Nat := []
  /-- BAR registers: bar × 2^40 + offset -/
  bars : Map Word64 := []
  threads : Map Thread := []
  ctxs : Map Ctx := []
  groups : Map Group := []
  hearths : Map Hearth := []
  engs : Map EngQ := []
  parts : Map Part := []
  chans : Map Chan := []
  atoms : Map Atom := []
  slices : Map Slice := []
  recalls : List Recall := []
  l1 : Map L1E := []
  reqs : List Req := []
  reps : List Rep := []
  probes : List Probe := []
  exts : List Ext := []
  /-- atoms of host and peer memory read by fetches and by hardware -/
  lines : List Line := []
  walks : List Walk := []
  ats : List AtsReq := []
  atsCache : List AtsE := []
  /-- Invalidate Requests not completed, the oldest first, and Invalidate Completions sent to the host (R361) -/
  atsInvs : List AtsInv := []
  atsDone : Nat := 0
  bisnps : List BiSnp := []
  hts : Nat := 0
  /-- budget period whose counts the partitions hold (R407) -/
  period : Nat := 0
  regsInFlight : List Reg := []
  reducs : Map Reduc := []
  /-- what has left on the links, the latest last; nothing reads it (notes/assumptions/114) -/
  wire : List Sent := []
  stxs : List Stx := []
  dies : Map Die := []
  qps : Map Qp := []
  refcnt : Map Nat := []
  ras : List RasLoc := []
  /-- HBM4 stacks whose homes are throttled (R452) -/
  hotStacks : List Nat := []
  paused : List (Nat × Nat) := []
  boot : Boot := {}
deriving DecidableEq, Repr, Inhabited

/-- Right after reset (R31, R373, R425; notes/assumptions/2): every record at its defaults. -/
def State.reset : State := {}

/-- Why the machine stops. -/
inductive Fault where
  /-- Raised by `step` while the module has no power, after POWER_LOSS or a critical temperature, for every turn but a start-up: nothing
  executes (R429, R452, R453). Safe. -/
  | noPower
deriving DecidableEq, Repr

/-- Why an instruction is not run. -/
inductive Refusal where
  /-- Raised by `exec` for an instruction that has no meaning yet. Safe. -/
  | notModelled (mnemonic : String)
deriving DecidableEq, Repr

/-- The outcome of a step of this machine. -/
abbrev Res := Host.Outcome State Fault Refusal

end Sys2Proof.Machine
end

