-- ==== Sys2Proof/Machine/Ops.lean ====
section
/-! DEFINITION. The named operations over the state: records and registers, memory, time, configuration registers,
translation through a TLB, trace packets, taking a trap and parking on a fault. -/

namespace Sys2Proof.Machine

/-! ## Records by number -/

/-- Key of a CC thread (R12). -/
def tkey (h t : Nat) : Nat := 8 * h + t
/-- Key of a task context or lane group (R13). -/
def ckey (h c : Nat) : Nat := 4 * h + c
/-- Key of an engine queue of a task (R169). -/
def qkey (h c e : Nat) : Nat := 4 * ckey h c + e
/-- Key of a copy record's queue (R26). -/
def crecKey (e : Nat) : Nat := 4096 + e

def State.thread (s : State) (k : Nat) : Thread := Map.get {} s.threads k
def State.ctx (s : State) (k : Nat) : Ctx := Map.get {} s.ctxs k
def State.group (s : State) (k : Nat) : Group := Map.get {} s.groups k
def State.hearth (s : State) (h : Nat) : Hearth := Map.get {} s.hearths h
def State.eng (s : State) (q : Nat) : EngQ := Map.get {} s.engs q
def State.part (s : State) (p : Nat) : Part := Map.get {} s.parts p
def State.chan (s : State) (n : Nat) : Chan := Map.get {} s.chans n
def State.die (s : State) (d : Nat) : Die := Map.get {} s.dies d
def State.slice (s : State) (n : Nat) : Slice := Map.get {} s.slices n
def State.qp (s : State) (n : Nat) : Qp := Map.get {} s.qps n
def State.reduc (s : State) (n : Nat) : Reduc := Map.get {} s.reducs n

def State.modThread (s : State) (k : Nat) (f : Thread → Thread) : State := { s with threads := Map.mod {} s.threads k f }
def State.modCtx (s : State) (k : Nat) (f : Ctx → Ctx) : State := { s with ctxs := Map.mod {} s.ctxs k f }
def State.modGroup (s : State) (k : Nat) (f : Group → Group) : State := { s with groups := Map.mod {} s.groups k f }
def State.modHearth (s : State) (h : Nat) (f : Hearth → Hearth) : State := { s with hearths := Map.mod {} s.hearths h f }
def State.modEng (s : State) (q : Nat) (f : EngQ → EngQ) : State := { s with engs := Map.mod {} s.engs q f }
def State.modPart (s : State) (p : Nat) (f : Part → Part) : State := { s with parts := Map.mod {} s.parts p f }
def State.modChan (s : State) (n : Nat) (f : Chan → Chan) : State := { s with chans := Map.mod {} s.chans n f }
def State.modDie (s : State) (d : Nat) (f : Die → Die) : State := { s with dies := Map.mod {} s.dies d f }
def State.modSlice (s : State) (n : Nat) (f : Slice → Slice) : State := { s with slices := Map.mod {} s.slices n f }
def State.modQp (s : State) (n : Nat) (f : Qp → Qp) : State := { s with qps := Map.mod {} s.qps n f }
def State.modReduc (s : State) (n : Nat) (f : Reduc → Reduc) : State := { s with reducs := Map.mod {} s.reducs n f }

/-- A new free value's number, and the state that has used it (notes/assumptions/5). -/
def State.fresh (s : State) : Nat × State := (s.tick, { s with tick := s.tick + 1 })

/-- Register x of a thread: x0 reads 0 (R158, RV64I). -/
def Thread.xr (th : Thread) (r : XReg) : Word64 := if r = 0#5 then 0 else Map.get 0 th.x r.toNat
/-- Write a register: a write of x0 is discarded (R158, RV64I). -/
def Thread.setX (th : Thread) (r : XReg) (v : Word64) : Thread :=
  if r = 0#5 then th else { th with x := Map.set 0 th.x r.toNat v }

/-! ## Memory -/

/-- A byte of device memory by physical address: zero in a granule that carries the zero mark (R369), else the listed value;
an unlisted byte reads 0 (DESIGN CHOICE, unsafe, notes/assumptions/3). -/
def State.byte (s : State) (a : Nat) : Byte := if s.zeroed.contains (a / 4096) then 0 else Map.get 0 s.mem a

/-- `n` bytes from an address. -/
def State.bytes (s : State) (a n : Nat) : List Byte := (natsFrom a n).map s.byte

/-- A little-endian number of `n` bytes (R2). -/
def State.num (s : State) (a n : Nat) : Nat := natOfBytes (s.bytes a n)

/-- Remove the listed bytes of a range: they read as unlisted. -/
def memClear (lo n : Nat) : List Host.Cell → List Host.Cell
  | [] => []
  | (a, b) :: r => if lo ≤ a && decide (a < lo + n) then memClear lo n r else (a, b) :: memClear lo n r

/-- Materialise the granule of an address: its bytes are zeros from now on, and it carries no mark (R369). -/
def State.materialise (s : State) (a : Nat) : State :=
  if s.zeroed.contains (a / 4096) then
    { s with zeroed := s.zeroed.filter (· != a / 4096), mem := memClear (a / 4096 * 4096) 4096 s.mem }
  else s

/-- Write one byte. -/
def State.setByte (s : State) (a : Nat) (b : Byte) : State :=
  let s := s.materialise a
  { s with mem := Map.set 0 s.mem a b }

/-- Write bytes from an address up; `none` leaves its byte as it is (byte enables, R384). -/
def State.setEnabled : State → Nat → List (Option Byte) → State
  | s, _, [] => s
  | s, a, some b :: r => (s.setByte a b).setEnabled (a + 1) r
  | s, a, none :: r => s.setEnabled (a + 1) r

/-- Write bytes from an address up. -/
def State.setBytes : State → Nat → List Byte → State
  | s, _, [] => s
  | s, a, b :: r => (s.setByte a b).setBytes (a + 1) r

/-- Write a little-endian number of `n` bytes (R2). -/
def State.setNum (s : State) (a n v : Nat) : State := s.setBytes a (bytesOf v n)

/-- Write 64-bit words from an address up. -/
def State.setWords : State → Nat → List Word64 → State
  | s, _, [] => s
  | s, a, w :: r => (s.setNum a 8 w.toNat).setWords (a + 8) r

/-- The form of memory: keys strictly rising, nothing listed that equals what an unlisted byte reads as. -/
abbrev Memory.wf (m : List Host.Cell) : Bool := Map.wf (0 : Byte) m

/-! ## Homes and the state of an atom (R351, R372-R374, R380) -/

/-- Bytes of HBM4. -/
def hbmBytes : Nat := 0xC000000000
/-- The home of an address: HBM4 and DDR5 by R351; host lines of CXL.cache at the I/O stop of D0, home 48 (R386). -/
def homeOf (a : Nat) : Nat :=
  if 2 ^ 56 ≤ a then 48
  else if a < hbmBytes then
    let st := a / (48 * 2 ^ 30)
    12 * (st / 4) + 3 * (st % 4) + (a / 128) % 3
  else (a / 4096) % 48

/-- The state of an atom: one that is not in the L2 stands at the floor (R373). -/
def State.atom (s : State) (a : Nat) : Atom :=
  let f := (s.slice (homeOf a)).floor
  let t := Map.get { rts := f, wts := f } s.atoms (a / 32)
  if t.gone then { t with rts := f, wts := f } else t

/-- Change the state of an atom, which is then present. -/
def State.modAtom (s : State) (a : Nat) (f : Atom → Atom) : State :=
  { s with atoms := Map.put s.atoms (a / 32) { f (s.atom a) with gone := false } }

/-- A timestamp of a slice's offset (R373). -/
def State.ofOff (s : State) (a o : Nat) : Nat := (s.slice (homeOf a)).base + o
/-- The offset of a timestamp (R373); one below the base is at the base (R374). -/
def State.toOff (s : State) (a t : Nat) : Nat := t - (s.slice (homeOf a)).base

/-! ## The mesh (R8, R9, R11) -/

/-- A stop of the mesh (R9): a hearth, a home or the I/O stop of D0 as home 48, and a die's station, bridges and host stop. -/
inductive Stop where
  | hearth (h : Nat) | home (n : Nat) | station (d : Nat) | bridgeX (d : Nat) | bridgeY (d : Nat) | host (d : Nat)
deriving DecidableEq, Repr

/-- Package grid place of a local stop (R8). -/
def gridAt (d x y : Nat) : Nat × Nat := (if d % 2 = 0 then x else 15 - x, if d / 2 = 0 then y else 15 - y)

/-- Package grid place of a stop (R9). -/
def Stop.grid : Stop → Nat × Nat
  | .hearth h => gridAt (h / 48) (h % 48 % 6 + 1) (h % 48 / 6)
  | .home n =>
    if n < 48 then (if n % 12 < 6 then gridAt (n / 12) 0 (n % 12 + 1) else gridAt (n / 12) 7 (n % 12 - 5)) else gridAt 0 7 7
  | .station d => gridAt d 0 0
  | .bridgeX d => gridAt d 7 0
  | .bridgeY d => gridAt d 0 7
  | .host d => gridAt d 7 7

/-- The cycles of a packet's route, X first and then Y: 3 for each hop and 4 for each die edge that it crosses (R11). -/
def transit (a b : Stop) : Nat :=
  let (x, y) := a.grid
  let (u, v) := b.grid
  3 * ((x - u) + (u - x) + (y - v) + (v - y)) + (if x / 8 = u / 8 then 0 else 4) + (if y / 8 = v / 8 then 0 else 4)

/-- The stop of an agent's place: a hearth, or that of the copy engine of a home or of an I/O stop, which stands above 1000 (R9, R403). -/
def stopOf (h : Nat) : Stop :=
  if h < 1000 then .hearth h
  else
    let d := (h - 1000) / 64
    let i := (h - 1000) % 64
    if i < 60 then .home (12 * d + (i - 48)) else if i = 60 then .station d else if i = 61 then .bridgeX d else if i = 62 then .bridgeY d else .host d

/-- The stop from which requests of a source come, and to which their answers go (R9): a hearth's L1, or the host stop of D0; a pod peer's
station is that of its port, whose place the manual does not give (notes/assumptions/84). -/
def srcStop (src h home : Nat) : Stop := if src = 0 then stopOf h else if src = 3 then .home home else .host 0

/-! ## Time (R370, R371) -/

/-- 1.6 GHz / f of a step code, as a fraction (R371, R400). -/
def stepRatio (step : Nat) : Nat × Nat :=
  if step = 0 then (1, 1) else if step = 1 then (4, 3) else if step = 2 then (2, 1) else (4, 1)

/-- Local edges of a hearth since its last re-sync value (R371). -/
def State.edges (s : State) (h : Nat) : Nat :=
  let hh := s.hearth h
  let (n, d) := stepRatio hh.step
  ((s.gcc - hh.sync + 1) * d - 1) / n

/-- The hearth's local copy of the GCC (R371). -/
def State.localGcc (s : State) (h : Nat) : Nat :=
  let hh := s.hearth h
  let (n, d) := stepRatio hh.step
  hh.sync + s.edges h * n / d

/-- The local cycle of a hearth since reset (R151, R297). -/
def State.cycle (s : State) (h : Nat) : Nat := (s.hearth h).cycBase + s.edges h

/-- A local clock edge of a hearth falls in the present cycle: what it holds or receives acts from one edge to the next (R105, R371). -/
def State.atEdge (s : State) (h : Nat) : Bool :=
  let hh := s.hearth h
  let (n, d) := stepRatio hh.step
  decide (s.gcc ≤ hh.sync) || ((s.gcc - hh.sync + 1) * d - 1) / n != ((s.gcc - hh.sync) * d - 1) / n

/-- Cycles from a local edge of a hearth to its next one: what a local cycle counts for where counts are in cy (R1, R371). -/
def State.localSpan (s : State) (h : Nat) : Nat :=
  ((natsFrom 1 4).find? (fun d => ({ s with gcc := s.gcc + d } : State).atEdge h)).getD 1

/-- The guard band G = ⌈2q⌉ (R371). -/
def State.guardBand (s : State) (h : Nat) : Nat :=
  let (n, d) := stepRatio (s.hearth h).step
  (2 * n + d - 1) / d

/-! ## Configuration registers -/

/-- Reset values of BAR registers (R400, R448): RPOL per error source, PLIM, else 0 (notes/assumptions/2). -/
def barReset (bar off : Nat) : Word64 :=
  if bar = 0 && decide (0x1A0000 ≤ off) && decide (off < 0x1A4000) then
    let o := off % 0x1000
    if o < 0x28 && o % 8 = 0 then 0x05A00013#64
    else if o = 0x28 then 0x05A00003#64
    else if off = 0x1A0130 then 2600 else 0
  else 0

/-- A register of a BAR by offset (R348). -/
def State.bar (s : State) (n off : Nat) : Word64 := Map.get (barReset n off) s.bars (n * 2 ^ 40 + off)
/-- Write a register of a BAR. -/
def State.setBar (s : State) (n off : Nat) (v : Word64) : State := { s with bars := Map.put s.bars (n * 2 ^ 40 + off) v }

/-- A register of partition page p of BAR 0 (R348, R400). -/
def State.preg (s : State) (p off : Nat) : Nat := (s.bar 0 (0x10000 * p + off)).toNat
/-- A register of die page d of BAR 0 (R348, R367). -/
def State.dreg (s : State) (d off : Nat) : Nat := (s.bar 0 (0x100000 + 0x1000 * d + off)).toNat
/-- A register of the RAS page of die d (R448). -/
def State.ras0 (s : State) (d off : Nat) : Nat := (s.bar 0 (0x1A0000 + 0x1000 * d + off)).toNat
/-- The home sets A, and on a write D, in the frame-table entry of an HBM4 frame, when the die has a frame table; it notes the frames whose
A it sets in a cycle (R367). -/
def State.touchFrame (s : State) (a : Nat) (write : Bool) : State :=
  if a < hbmBytes then
    let d := a / (192 * 2 ^ 30)
    let base := bitsOf (s.dreg d 0x000) 51 12 * 4096
    if base = 0 then s
    else
      let i := (a - d * (192 * 2 ^ 30)) / 65536
      let ea := base + 8 * i
      let b := s.byte ea
      (s.setByte ea (b ||| (if write then 3 else 1))).modDie d (fun e =>
        { e with setAt := s.gcc + 1, setA := if e.setAt = s.gcc + 1 then i :: e.setA.filter (· != i) else [i] })
  else s

/-- The frames of a range are accessed (R367). -/
def State.touchRange (s : State) (a n : Nat) (write : Bool) : State :=
  (natsFrom (a / 65536) ((a + n + 65535) / 65536 - a / 65536)).foldl (fun s i => s.touchFrame (65536 * i) write) s

/-- The stamps of a write that the hardware makes for itself to `n` bytes: WTS and RTS of every atom pass the leases on it (R380); an atom that
is written whole is poisoned no longer (R384). -/
def State.restamp (s : State) (a n : Nat) : State :=
  (natsFrom (a / 32) ((a + n + 31) / 32 - a / 32)).foldl (fun (s : State) (q : Nat) =>
    let w := max (s.toOff (32 * q) s.gcc) ((s.atom (32 * q)).rts + 1)
    s.modAtom (32 * q) (fun t => { t with rts := w, wts := w, psn := t.psn && !(decide (a ≤ 32 * q) && decide (32 * q + 32 ≤ a + n)) })) s

/-- Bytes that the hardware writes at their homes (R340, R365, R416, R449); their frames are marked (R367). -/
def State.hwBytes (s : State) (a : Nat) (bs : List Byte) : State := ((s.restamp a bs.length).setBytes a bs).touchRange a bs.length true
/-- A number that the hardware writes. -/
def State.hwNum (s : State) (a n v : Nat) : State := ((s.restamp a n).setNum a n v).touchRange a n true
/-- Words that the hardware writes. -/
def State.hwWords (s : State) (a : Nat) (ws : List Word64) : State :=
  ((s.restamp a (8 * ws.length)).setWords a ws).touchRange a (8 * ws.length) true

/-- A debug register of hearth h in partition p (R334). -/
def State.dbg (s : State) (p h off : Nat) : Nat := (s.bar 4 (0x40000 * p + 0x400 * h + off)).toNat
/-- A debug register of partition p (R334). -/
def State.pdbg (s : State) (p off : Nat) : Nat := (s.bar 4 (0x40000 * p + 0x30000 + off)).toNat

/-- Lease length L of a partition (R400). -/
def State.lease (s : State) (p : Nat) : Nat := bitsOf (s.preg p 0x128) 14 0
/-- PSIZE of a partition (R400, R58). -/
def State.psize (s : State) (p : Nat) : Nat := 256 * bitsOf (s.preg p 0x138) 8 0
/-- PBASE of context c of hearth h (R400, R58). -/
def State.pbase (s : State) (p h c : Nat) : Nat :=
  bitsOf (s.preg p 0x130) 51 7 * 128 + 32 * s.psize p * (4 * h + c)
/-- PASID of a partition's host context (R352). -/
def State.pasid (s : State) (p : Nat) : Nat := bitsOf (s.preg p 0x010) 51 32

/-- The running partition that holds a hearth (R400, R401). -/
def State.partOfHearth (s : State) (h : Nat) : Option Nat :=
  (natsFrom 0 16).find? (fun p => (s.part p).state != 0 && (s.part p).hset.testBit h)

/-! ## Threads of a task -/

/-- The threads of a context that live: the context thread and the pool threads it holds (R44). -/
def State.liveThreads (s : State) (h c : Nat) : List Nat :=
  (c :: natsFrom 4 4).filter (fun t => (s.thread (tkey h t)).st != .free && (s.thread (tkey h t)).ctx == c)

/-- The same in slot order. -/
def State.liveBySlot (s : State) (h c : Nat) : List Nat :=
  ((natsFrom 0 4).map (fun sl => (s.liveThreads h c).filter (fun t => (s.thread (tkey h t)).slot == sl))).flatten

/-! ## Trace packets (R335-R341) -/

/-- Offset of a trace register of context c. -/
def trOff (c o : Nat) : Nat := o + 0x40 * c

/-- Bytes free in a context's trace ring (R341); the ring base is taken as a physical address (notes/assumptions/7). -/
def State.traceRoom (s : State) (h c : Nat) : Nat :=
  let x := s.ctx (ckey h c)
  2 ^ (s.dbg x.part h (trOff c 0x108)) - (x.trace.head - s.dbg x.part h (trOff c 0x118))

/-- The header of a packet (R337). -/
def traceWord (ty slot dt payload : Nat) : Word64 :=
  BitVec.ofNat 64 (ty * 2 ^ 60 + slot * 2 ^ 58 + (dt % 4096) * 2 ^ 46 + payload)

/-- Write one packet, or count it as lost (R340, R341). -/
def State.packet (s : State) (h c ty slot payload : Nat) (later : List Word64) : State :=
  let x := s.ctx (ckey h c)
  let n := 8 * (1 + later.length)
  if decide (0 < x.trace.lost) || decide (s.traceRoom h c < n) then
    s.modCtx (ckey h c) (fun x => { x with trace := { x.trace with lost := x.trace.lost + 1 } })
  else
    let dt := if ty = 1 then 0 else s.gcc - x.trace.lastTime
    let base := s.dbg x.part h (trOff c 0x100)
    let size := 2 ^ (s.dbg x.part h (trOff c 0x108))
    let rec put (s : State) (hd : Nat) : List Word64 → State
      | [] => s
      | w :: r => put (s.hwNum (base + hd % size) 8 w.toNat) (hd + 8) r
    let s := put s x.trace.head (traceWord ty slot dt payload :: later)
    s.modCtx (ckey h c) (fun x => { x with trace := { x.trace with
      head := x.trace.head + n, lastTime := s.gcc, lastSync := if ty = 1 then s.gcc else x.trace.lastSync, sinceSync := if ty = 1 then 0 else x.trace.sinceSync + 1 } })

/-- A SYNC of one split (R337, R338). -/
def State.syncPacket (s : State) (h c t reason : Nat) : State :=
  let x := s.ctx (ckey h c)
  let th := s.thread (tkey h t)
  let later := [BitVec.ofNat 64 (th.pc.toNat % 2 ^ 52), BitVec.ofNat 64 s.gcc] ++ (if reason = 0 || reason = 3 then [BitVec.ofNat 64 x.task.addr] else [])
  let s := s.packet h c 1 th.slot (reason * 2 ^ 44 + x.depth * 2 ^ 36 + th.mask.toNat) later
  s.modCtx (ckey h c) (fun x => { x with trace := { x.trace with prevBlk := 0 } })

/-- The SYNCs of every live split, in slot order. -/
def State.syncAll (s : State) (h c reason : Nat) : State :=
  (s.liveBySlot h c).foldl (fun s t => s.syncPacket h c t reason) s

/-- The pending BR bits of a thread go out as one packet (R338). -/
def State.brPacket (s : State) (h c t : Nat) : State :=
  let th := s.thread (tkey h t)
  if th.br.isEmpty then s
  else
    let bits := th.br.foldr (fun b a => 2 * a + boolNat b) 0
    (s.packet h c 2 th.slot (th.br.length * 2 ^ 43 + bits) []).modThread (tkey h t) (fun th => { th with br := [] })

/-- The pending BR bits of every live split, in slot order. -/
def State.brAll (s : State) (h c : Nat) : State := (s.liveBySlot h c).foldl (fun s t => s.brPacket h c t) s

/-- Once packets have been dropped and the ring has room for a LOSS and a SYNC of every live split, both are written in this cycle, and the
stream goes on; pending branch bits count as dropped (R341). -/
def State.lossResync (s : State) (h c : Nat) : State :=
  let tr := (s.ctx (ckey h c)).trace
  if !tr.on || tr.lost = 0 || decide (s.traceRoom h c < 8 + 24 * (s.liveBySlot h c).length) then s
  else
    let s := s.brAll h c
    let lost := min (2 ^ 32 - 1) (s.ctx (ckey h c)).trace.lost
    let s := s.modCtx (ckey h c) (fun x => { x with trace := { x.trace with lost := 0 } })
    (s.packet h c 9 0 lost []).syncAll h c 2

/-- The periodic SYNC that goes before the packet that would be the 256th after the last SYNC or 4,096 cycles or more after it, behind the
pending BR bits of every split (R338; notes/assumptions/82); none while packets are being dropped (R341). -/
def State.periodic (s : State) (h c : Nat) : State :=
  let tr := (s.ctx (ckey h c)).trace
  if decide (0 < tr.lost) then s
  else if decide (255 ≤ tr.sinceSync) || decide (4096 ≤ s.gcc - tr.lastSync) then (s.brAll h c).syncAll h c 1 else s

/-- Emit the pending BR bits of a thread (R338). -/
def State.flushBr (s : State) (h c t : Nat) : State :=
  if (s.thread (tkey h t)).br.isEmpty then s else ((s.lossResync h c).periodic h c).brPacket h c t

/-- Emit a packet of the split on thread t (R338): nothing when the task is not traced. -/
def State.emit (s : State) (h c t ty payload : Nat) (later : List Word64) : State :=
  if (s.ctx (ckey h c)).trace.on then
    (((s.lossResync h c).flushBr h c t).periodic h c).packet h c ty (s.thread (tkey h t)).slot payload later
  else s

/-- Append a BR bit (R338). -/
def State.brBit (s : State) (h c t : Nat) (taken : Bool) : State :=
  if (s.ctx (ckey h c)).trace.on then
    let s := s.modThread (tkey h t) (fun th => { th with br := th.br ++ [taken] })
    if (s.thread (tkey h t)).br.length = 6 then s.flushBr h c t else s
  else s

/-- The END packet of a task (R338), after the pending bits of every split. -/
def State.emitEnd (s : State) (h c reason : Nat) : State :=
  if (s.ctx (ckey h c)).trace.on then
    let s := (s.liveBySlot h c).foldl (fun s t => s.flushBr h c t) s
    s.emit h c c 10 (reason * 2 ^ 43) []
  else s

/-- rotl64(sig xor (pc xor (target << 1)), 7) (R342). -/
def foldSig (sig pc target : Nat) : Nat :=
  ((BitVec.ofNat 64 sig ^^^ (BitVec.ofNat 64 pc ^^^ (BitVec.ofNat 64 target <<< 1))).rotateLeft 7).toNat

/-- The signature of a thread after a taken branch, JALR or SPLIT, when the partition records signatures (R342). -/
def State.foldThread (s : State) (p k pc target : Nat) : State :=
  if bitOf (s.pdbg p 0) 0 then s.modThread k (fun th => { th with sig := foldSig th.sig pc target }) else s

/-! ## Taking a trap (R416, R417, R419) -/

/-- What a trap reports. -/
structure Trap where
  cause : Nat
  sub : Nat := 0
  /-- 0 CC, 1 lane group, 2 matrix, 3 copy, 4 stream, 5 rule, 6 window, 7 scheduler -/
  agent : Nat := 0
  mask : Nat := 0
  slot : Nat := 0
  pc : Nat := 0
  /-- word 4, pass, word offset and block sequence number, where the trap names it; else the place at which a lane group stands, or 0 -/
  pos : Option Nat := none
  d8 : Nat := 0
  d9 : Nat := 0
  d10 : Nat := 0
  who : Who := .nobody
deriving DecidableEq, Repr, Inhabited

/-- The token after a token: 32 bits (R365, R416). -/
def nextToken (t : Nat) : Nat := (t + 1) % 2 ^ 32

/-- The next token from a token on that no list holds (R365). -/
def freeToken (held : List Nat) : Nat → Nat → Nat
  | 0, t => t
  | f + 1, t => if held.contains t then freeToken held f (nextToken t) else t

/-- A partition's next token: no agent and no trap that is outstanding holds it (R365, R366, R419). -/
def Part.token (q : Part) : Nat :=
  let held := q.faultToks.map (·.token) ++ q.trapToks.map (·.token) ++ q.faults.map (·.token) ++ q.traps.map (·.token)
  freeToken held held.length q.nextTok

/-- Word 0 of a record (R416). -/
def trapWord0 (i : Trap) (cv : Bool) (c h : Nat) : Nat :=
  i.mask * 2 ^ 32 + i.slot * 2 ^ 30 + i.agent * 2 ^ 27 + boolNat cv * 2 ^ 26 + c * 2 ^ 24 + h * 2 ^ 16 + i.sub * 2 ^ 8 + i.cause

/-- Queue a record that names no context: for a record that the scheduler refuses, a successor, or a copy record
(R22, R24, R25, R27). -/
def State.trapNoCtx (s : State) (p : Nat) (i : Trap) (unit rec : Nat) : State :=
  let tok := (s.part p).token
  let ws : List Nat := [trapWord0 i false 0 unit, rec, s.gcc, i.pc, 0, 0, 0, tok, i.d8, i.d9, i.d10, 0, 0, 0, 0, 0]
  s.modPart p (fun q => { q with nextTok := nextToken tok, traps := q.traps ++ [{ words := ws.map (BitVec.ofNat 64), token := tok }] })

/-- The image slot of a pre-emption that has ended before its first image is free again (R412). -/
def State.dropNewSlot (s : State) (k : Nat) : State :=
  let x := s.ctx k
  match x.slot with
  | some n =>
    if x.signal.isSome && x.images == 0 then
      (s.modPart x.part (fun q => { q with slots := Map.erase q.slots n })).modCtx k (fun x => { x with slot := none })
    else s
  | none => s

/-- The words of a context's record (R416, R417). -/
def State.trapWords (s : State) (h c tok : Nat) (i : Trap) : List Word64 :=
  let x := s.ctx (ckey h c)
  ([trapWord0 i true c h, x.task.addr, s.gcc, i.pc, i.pos.getD 0, x.bq.length * 2 ^ 52 + x.lastBemit, x.prq.length * 2 ^ 52 + x.lastPop, tok,
    i.d8, i.d9, i.d10, 0, 0, 0, 0, 0] : List Nat).map (BitVec.ofNat 64)

/-- TAKE A TRAP in context c of hearth h: the task freezes at its matched position, one record is queued for the trap ring
with a token, and the context waits for TACT (R416, R419). Of a context that is frozen already the record of the present cycle gives way to that
of a lower agent code; else it keeps its record. A pre-emption of the context ends (R412). -/
def State.takeTrap (s : State) (h c : Nat) (i : Trap) : State :=
  let k := ckey h c
  let x := s.ctx k
  let p := x.part
  match x.trapped with
  | some tok =>
    if x.trapAt.1 = s.gcc + 1 && decide (i.agent < x.trapAt.2) then
      let ws := s.trapWords h c tok i
      (s.modPart p (fun q => { q with
        traps := q.traps.map (fun r => if r.token = tok then { r with words := ws } else r)
        trapToks := q.trapToks.map (fun r => if r.token = tok then { r with cause := i.cause, sub := i.sub, agent := i.agent, d8 := i.d8, who := i.who } else r) })).modCtx k
        (fun x => { x with trapAt := (x.trapAt.1, i.agent) })
    else s
  | none =>
  if x.st == .idle then s
  else
    let tok := (s.part p).token
    let ws := s.trapWords h c tok i
    let s := s.emitEnd h c 2
    let s := s.modPart p (fun q => { q with
      nextTok := nextToken tok
      traps := q.traps ++ [{ words := ws, token := tok }]
      trapToks := q.trapToks ++ [{ token := tok, h := h, c := c, cause := i.cause, sub := i.sub, agent := i.agent, d8 := i.d8, who := i.who }]
      preempt := if q.preempt = some k then none else q.preempt })
    let s := s.dropNewSlot k
    -- a thread that has trapped holds no reservation any more (R152)
    let s := match i.who with
      | .thread hh t => s.modThread (tkey hh t) (fun th => { th with resv := none })
      | _ => s
    s.modCtx k (fun x => { x with trapped := some tok, trapAt := (s.gcc + 1, i.agent), signal := none, st := if x.st == .stopping then .running else x.st })

/-- An agent of a context is stopped by a trap: in the cycle of the trap those of a lower code than the recorded one still act, so that the lowest
that traps in it is recorded (R419). -/
def Ctx.stopped (x : Ctx) (gcc agent : Nat) : Bool := x.trapped.isSome && !(x.trapAt.1 == gcc + 1 && decide (agent < x.trapAt.2))

/-- A trap of the control instruction at pc of thread t (R153, R158): precise, the mask of the split, the wait undone. -/
def State.trapCc (s : State) (h t : Nat) (i : Trap) : State :=
  let th := s.thread (tkey h t)
  let s := s.modThread (tkey h t) (fun th => { th with wait := none, xf := none, xact := {}, since := 0, held := false })
  s.takeTrap h th.ctx { i with mask := th.mask.toNat, slot := th.slot, pc := th.pc.toNat, who := .thread h t }

/-- Word 4 of a lane word's record (R416). -/
def blkPos (b : Blk) : Nat := b.k * 2 ^ 28 + b.w * 2 ^ 16 + b.seq

/-- A trap of the lane word at which group g stands (R138, R211, R304): precise. A trap that names another word's place keeps it
(R213). -/
def State.trapLane (s : State) (h g : Nat) (i : Trap) : State :=
  let gr := s.group (ckey h g)
  let b := gr.blk.getD {}
  let s := s.modGroup (ckey h g) (fun gr => { gr with wait := none, xfs := [] })
  s.takeTrap h g { i with agent := 1, slot := b.slot, pos := some (i.pos.getD (blkPos b)), who := .group h g }

/-- Park an agent on a replayable fault: one fault entry with a token of its own (R365, R366). The entry is the 32 bytes of R365, which have no
place for the cause and the mask of unfinished lanes that R212 names: the mask stays with the group (DESIGN CHOICE, notes/assumptions/103). -/
def State.parkFault (s : State) (p h c agent : Nat) (who : Who) (va acc level reason tid tile : Nat) : State × Nat :=
  let tok := (s.part p).token
  let w1 := tok + h * 2 ^ 32 + c * 2 ^ 40 + agent * 2 ^ 42 + acc * 2 ^ 45 + level * 2 ^ 48 + reason * 2 ^ 50
  let ws := [va, w1, tid + tile * 2 ^ 16, s.gcc].map (BitVec.ofNat 64)
  (s.modPart p (fun q => { q with
    nextTok := nextToken tok
    faults := q.faults ++ [{ words := ws, token := tok }]
    faultToks := q.faultToks ++ [{ token := tok, who := who, va := va, since := s.gcc }] }), tok)

/-! ## Translation through the TLB (R54, R354, R356) -/

/-- Code of an access in a fault entry (R365). -/
def accCode : Acc → Nat
  | .read => 0 | .write => 1 | .atomic => 2 | .fetch => 3

/-- The answer of a translation: a target, a miss, or a protection cause and subcause. -/
inductive Xl where
  | ok (t : Tgt)
  | miss
  | bad (cause sub : Nat)
deriving DecidableEq, Repr

/-- What an address names under an entry. -/
def tgtAt (e : TlbE) (va : Nat) : Tgt :=
  match e.tgt with
  | .dev pa => .dev (pa + (va - e.va))
  | .win p t _ => .win p t va
  | .host coh p a _ => .host coh p (a + (va - e.va))
  | .peer p r o => .peer p r (o + (va - e.va))

/-- The first entry of a TLB that covers an address of a partition. -/
def tlbFind (l : List TlbE) (p va : Nat) : Option TlbE :=
  l.find? (fun e => e.part == p && decide (e.va ≤ va) && decide (va < e.va + 2 ^ e.lg))

/-- Translate an access of a hearth (R54, R354, R356): a store or atomic to a page whose cached entry has D clear walks. -/
def State.xlate (s : State) (h p va : Nat) (acc : Acc) : Xl :=
  if 2 ^ 52 ≤ va then .bad 0x0C 1
  else
    match tlbFind (s.hearth h).tlb p va with
    | none => .miss
    | some e =>
      match acc with
      | .read => .ok (tgtAt e va)
      | .fetch => if e.x then .ok (tgtAt e va) else .bad 0x0C 2
      | _ => if !e.w then .bad 0x0C 2 else if e.d then .ok (tgtAt e va) else .miss

/-! ## Outcomes of a part of an instruction -/

/-- A part of an instruction answers a value, waits, or traps. -/
inductive Ans (α : Type) where
  | ok (a : α) (s : State)
  | wait (s : State)
  | trap (i : Trap) (s : State)

/-- Continue with the value. -/
def Ans.bind {α β : Type} (x : Ans α) (f : α → State → Ans β) : Ans β :=
  match x with
  | .ok a s => f a s
  | .wait s => .wait s
  | .trap i s => .trap i s

/-! ## Locations of the reliability tables (R446) -/

/-- What a location names: a row of a bank of a stack for HBM4, a 128-byte line for an L2, else the location's own number (R446, R449;
notes/assumptions/60). -/
def rasPlace (src loc : Nat) : Nat := if src = 0 then Config.hbmRow (loc / 32) else if src = 1 then loc / 128 else loc

/-- The SRAM row of a location of structure 2: whether it is the scratchpad's, and its first byte: banks 0-63 are the scratchpad's, 64-95 the
B-store columns' (R15, R248, R449; notes/assumptions/34). -/
def rowOf (loc : Nat) : Bool × Nat :=
  let b := loc / 256 % 256
  let r := loc / 65536
  if b < 64 then (true, 16 * (64 * r + b)) else (false, (b - 64) * 2 ^ 19 + 16 * r)

/-- A row that is being copied to a spare holds the new requests to bytes of it (R450). -/
def State.rowHeld (s : State) (h : Nat) (pad : Bool) (as : List Nat) : Bool :=
  s.boot.sparing.any (fun r => r.src == 2 && r.loc % 256 == h && (rowOf r.loc).1 == pad && as.any (fun a => a / 16 == (rowOf r.loc).2 / 16))

end Sys2Proof.Machine
end

