-- ==== Sys2Proof/Machine/Home.lean ====
section
/-! DEFINITION. The homes: physical addresses, tensors and their windows, the state of an atom, and the operations that a
home performs on it (spec/17 R351, R362-R364; spec/18 R372-R384). -/

namespace Sys2Proof.Machine

/-! ## Physical addresses (R351) -/

/-- First DDR5 address. -/
def ddrBase : Nat := 0x10000000000

/-- An address that R351 backs with memory. -/
def State.backed (s : State) (pa : Nat) : Bool :=
  decide (pa < hbmBytes) || (decide (ddrBase ≤ pa) && decide (pa < ddrBase + s.boot.ddr5))

/-- The memory key of a host byte: host memory lies above every device address, one space for each partition's PASID. -/
def hostAddr (p iova : Nat) : Nat := 2 ^ 56 * (p + 1) + iova
/-- The memory key of a byte of a host page: its host physical address where ATS has given it, else its IO virtual address (R359). -/
def hostKey (p iova : Nat) (hpa : Option Nat) : Nat := match hpa with | some x => 2 ^ 62 + x | none => hostAddr p iova

/-! ## Tensors (R362-R364) -/

/-- A tensor descriptor (R362). -/
structure TenDesc where
  shadow : Bool := false
  fmt : Nat := 0
  p : Nat := 0
  /-- log2 tile extents t0 .. t3, extents E0 .. E3 -/
  t : List Nat := []
  e : List Nat := []
  tpgLg : Nat := 12
  tta : Nat := 0
  ttb : Nat := 0
  scale : Nat := 0
  vwin : Nat := 0
deriving DecidableEq, Repr, Inhabited

/-- log2 of a page-size code (R353 PS). -/
def psLg (c : Nat) : Nat := if c = 0 then 12 else if c = 1 then 16 else if c = 2 then 21 else 24

/-- A block format (R362 FMT). -/
def fmtBpi (f : Nat) : Bool := f == 8 || f == 9

/-- Bytes of an element, or of a BPI unit of 384 elements (R362, R363). -/
def fmtSize (f p : Nat) : Nat :=
  if f = 0 || f = 3 then 4 else if f = 1 || f = 2 || f = 4 then 2 else if f = 5 || f = 6 then 1 else if f = 7 then 8 else 48 * p

/-- The descriptor at an address: `none` unless every field is within its limits (R362, R363). -/
def State.descAt (s : State) (a : Nat) : Option TenDesc :=
  let flags := s.num (a + 23) 1
  let fm := s.num (a + 22) 1
  let tile := s.num (a + 20) 2
  let tpg := s.num (a + 16) 4
  let exts := (natsFrom 0 4).map (fun i => s.num (a + 4 * i) 4)
  let f := fm / 16
  let p := fm % 16
  let ts := (natsFrom 0 4).map (fun i => bitsOf tile (4 * i + 3) (4 * i))
  let lg := psLg (tpg % 4)
  let d : TenDesc := {
    shadow := bitOf flags 6, fmt := f, p := p, t := ts, e := exts, tpgLg := lg,
    tta := s.num (a + 24) 8, ttb := s.num (a + 32) 8, scale := s.num (a + 40) 8, vwin := s.num (a + 48) 8 }
  let ok := bitOf flags 7 && flags % 64 == 0 && decide (f ≤ 9) && decide (tpg < 4)
    && (if fmtBpi f then decide (2 ≤ p) && decide (p ≤ 8) else p == 0)
    && exts.all (fun x => decide (1 ≤ x) && decide (x ≤ 2 ^ 32 - 2))
    && decide (fmtSize f p * 2 ^ (ts.foldl (· + ·) 0) ≤ 2 ^ lg)
    && d.tta % 8 == 0 && d.vwin % 2 ^ lg == 0 && s.num (a + 56) 8 == 0
    && (d.shadow || d.ttb == 0) && (fmtBpi f || d.scale == 0)
  if ok then some d else none

/-- The descriptor of a tensor id of a partition, if it is defined (R362). -/
def State.tensor (s : State) (p tid : Nat) : Option TenDesc :=
  s.descAt (bitsOf (s.preg p 0x008) 51 22 * 2 ^ 22 + 64 * tid)

/-- Units along dimension d: blocks of 384 for dimension 0 of a block format (R363). -/
def TenDesc.units (d : TenDesc) (i : Nat) : Nat :=
  let e := d.e.getD i 1
  if fmtBpi d.fmt && i == 0 then (e + 383) / 384 else e

/-- Tiles along dimension i (R363). -/
def TenDesc.tiles (d : TenDesc) (i : Nat) : Nat := (d.units i + 2 ^ (d.t.getD i 0) - 1) / 2 ^ (d.t.getD i 0)

/-- Tiles of the tensor (R363). -/
def TenDesc.tileCount (d : TenDesc) : Nat := d.tiles 0 * d.tiles 1 * d.tiles 2 * d.tiles 3

/-- Tile number and byte in the tile of a coordinate (R363). -/
def TenDesc.place (d : TenDesc) (c : List Nat) : Nat × Nat :=
  let u (i : Nat) : Nat := if fmtBpi d.fmt && i == 0 then c.getD 0 0 / 384 else c.getD i 0
  let lg (i : Nat) : Nat := d.t.getD i 0
  let q (i : Nat) : Nat := u i / 2 ^ lg i
  let w (i : Nat) : Nat := u i % 2 ^ lg i
  (q 0 + d.tiles 0 * (q 1 + d.tiles 1 * (q 2 + d.tiles 2 * q 3)),
   fmtSize d.fmt d.p * (w 0 + 2 ^ lg 0 * (w 1 + 2 ^ lg 1 * (w 2 + 2 ^ lg 2 * w 3))))

/-- Where an access lands: a memory address, a replayable fault, or a trap. -/
inductive Loc where
  | at (a : Nat)
  /-- reason and level of R365, the address reported, tensor id and tile number -/
  | fault (reason level va tid tile : Nat)
  | bad (cause sub : Nat)
deriving DecidableEq, Repr

/-- The frame address of tile T of a set's table (R364). -/
def State.tileAt (s : State) (d : TenDesc) (tid set tile : Nat) : Loc :=
  if d.tileCount ≤ tile then .bad 0x0C 1
  else
    let e := s.num ((if set = 0 then d.tta else d.ttb) + 8 * tile) 8
    let frame := bitsOf e 51 12 * 4096
    if e % 2 = 0 then .fault 1 0 (d.vwin + tile * 2 ^ d.tpgLg) tid tile
    else if bitsOf e 63 52 != 0 || bitsOf e 11 1 != 0 then .bad 0x0C 8
    else if frame % 2 ^ d.tpgLg != 0 then .bad 0x0C 8
    else if !s.backed frame then .bad 0x0C 1
    else .at frame

/-- The active set of a shadowed tensor at this cycle: each published exchange counts from its t_p on (R74, R75). -/
def State.activeSet (s : State) (p tid : Nat) : Nat :=
  let sh := Map.get {} (s.part p).shadow tid
  (sh.act + (sh.pend.filter (fun t => decide (t ≤ s.gcc))).length) % 2

/-- The t_p of the active set (R383). -/
def State.activeTp (s : State) (p tid : Nat) : Nat :=
  let sh := Map.get {} (s.part p).shadow tid
  (sh.pend.filter (fun t => decide (t ≤ s.gcc))).foldl max sh.tp

/-- The timestamp of those who have published the active set of a tensor: an access that binds to it follows them (R65). -/
def State.pubPts (s : State) (p tid : Nat) : Nat :=
  let sh := Map.get {} (s.part p).shadow tid
  (sh.pubs.filter (fun q => decide (q.1 ≤ s.gcc))).foldl (fun a q => max a q.2) sh.pts

/-- What an access to a target follows. -/
def State.tgtPts (s : State) (t : Tgt) : Nat := match t with | .win p tid _ => s.pubPts p tid | _ => 0

/-- The set that an access binds: loads the active one, stores and atomics the shadow (R74). -/
def State.bindSet (s : State) (p tid : Nat) (store : Bool) : Nat :=
  if store then 1 - s.activeSet p tid else s.activeSet p tid

/-- An address in a tensor's window through the tile table of a set (R364). -/
def State.winAt (s : State) (p tid va set : Nat) : Loc :=
  match s.tensor p tid with
  | none => .bad 0x0C 4
  | some d =>
    if va < d.vwin then .bad 0x0C 1
    else
      match s.tileAt d tid set ((va - d.vwin) / 2 ^ d.tpgLg) with
      | .at f => .at (f + (va - d.vwin) % 2 ^ d.tpgLg)
      | .fault r l _ i t => .fault r l va i t
      | .bad c u => .bad c u

/-- Where an access to a translated target lands. Pod peers have no home here. -/
def State.place (s : State) (t : Tgt) (store : Bool) : Loc :=
  match t with
  | .dev pa => .at pa
  | .win p tid va => s.winAt p tid va (s.bindSet p tid store)
  | .host _ p a x => .at (hostKey p a x)
  | .peer .. => .bad 0x0C 1

/-- The address of a send window entry (R431). -/
def State.sendWinAt (s : State) (p w : Nat) : Nat := bitsOf (s.preg p 0x200) 51 14 * 2 ^ 14 + 16 * w

/-- The send window entry of a partition: KEY, TWIN, TAID, SIZE, valid (R431, R433). -/
def State.sendWin (s : State) (p w : Nat) : Nat := s.num (s.sendWinAt p w) 16

/-- A command of a queue. -/
def State.cmd (s : State) (q n : Nat) : Cmd := Map.get {} (s.eng q).cmds n

/-- Where a command's access lands: a load of a shadowed tensor reads the set bound at launch (R73), a store the shadow set. -/
def State.cmdPlace (s : State) (q n : Nat) (t : Tgt) (store : Bool) : Loc :=
  match t with
  | .win p tid va => s.winAt p tid va (if store then 1 - s.activeSet p tid else Map.get 0 (s.cmd q n).sets tid)
  | t => s.place t store

/-- Where an agent's access lands: that of a command by the sets bound at its launch, any other by the sets of its moment (R73, R74). -/
def State.placeOf (s : State) (w : Who) (t : Tgt) (store : Bool) : Loc :=
  match w with
  | .cmd q n => s.cmdPlace q n t store
  | _ => s.place t store

/-- The checks of a send window for an offset (R433). -/
def State.sendCheck (s : State) (p w off : Nat) : Option (Nat × Nat) :=
  let e := s.sendWin p w
  if !bitOf e 86 || bitsOf e 127 87 != 0 || bitsOf e 79 74 != 0 || bitsOf e 63 58 != 0
      || bitsOf e 73 64 == (s.bar 0 0x190000).toNat % 1024 then some (0x0C, 4)
  else if 2 ^ bitsOf e 85 80 ≤ off then some (0x0C, 1)
  else none

/-- The die of a hearth. -/
def dieOf (h : Nat) : Nat := h / 48

/-- The ATS translation of a die that covers an IO virtual address of a partition and permits the access (R359). -/
def State.atsFind (s : State) (d p iova : Nat) (wr : Bool) : Option AtsE :=
  s.atsCache.find? (fun a => a.die == d && a.pasid == s.pasid p && decide (a.iova ≤ iova) && decide (iova < a.iova + 2 ^ a.lg) && (a.w || !wr))

/-- A host page with ATS on is accessed by a translated request: without a translation the access walks (R359). -/
def State.hostXl (s : State) (h : Nat) (coh : Bool) (p iova : Nat) (wr : Bool) : Xl :=
  if !bitOf (s.preg p 0x010) 0 then .ok (.host coh p iova)
  else
    match s.atsFind (dieOf h) p iova wr with
    | some e => .ok (.host coh p iova (some (e.frame / 2 ^ e.lg * 2 ^ e.lg + iova % 2 ^ e.lg)))
    | none => .miss

/-- Translate an access and find the tile behind a tensor window, where `place` says that the access lands: a tile entry that is not
valid asks for a walk; an access to a peer passes its send window, one to a host page has its ATS translation (R354, R359, R364, R433). -/
def State.reachBy (s : State) (place : Tgt → Bool → Loc) (h p va : Nat) (acc : Acc) : Xl :=
  match s.xlate h p va acc with
  | .ok (.win q t a) =>
    (match place (.win q t a) (acc == .write || acc == .atomic) with
     | .at _ => .ok (.win q t a)
     | .fault .. => .miss
     | .bad c u => .bad c u)
  | .ok (.peer q w o) =>
    (match s.sendCheck q w o with
     | some (c, u) => .bad c u
     | none => .ok (.peer q w o))
  | .ok (.host c q a _) => s.hostXl h c q a (acc == .write || acc == .atomic)
  | r => r

/-- The same for an access that binds as it is made (R73). -/
def State.reach (s : State) (h p va : Nat) (acc : Acc) : Xl := s.reachBy s.place h p va acc

/-- The set tag that an L1 keeps with an atom of a shadowed window (R383). -/
def State.winTag (s : State) (t : Tgt) : Option (Nat × Nat × Nat) :=
  match t with
  | .win p tid _ => some (tid, p, s.activeTp p tid)
  | _ => none

/-- The limit in force of a budget of a partition: 0 is unlimited (R407, R408). -/
def State.budget (s : State) (p k : Nat) : Nat := Map.get 0 (s.part p).limit k

/-! ## Atoms (R372-R374, R380) -/

/-- The home that an agent's request for a target goes to: that of its address; of a shadowed window, the home of the bound set's atom. -/
def State.homeAt (s : State) (w : Who) (t : Tgt) (store : Bool) : Nat := match s.placeOf w t store with | .at a => homeOf a | _ => 0

/-- An access by a fetch reaches its frame (R367). -/
def State.touchTgt (s : State) (t : Tgt) : State := match s.place t false with | .at a => s.touchFrame a false | _ => s

/-- A read at the home with timestamp P and lease L: RTS ← max(RTS, P + L, WTS) (R380). Answers data, wts, rts, seq. -/
def State.homeRead (s : State) (a P L : Nat) : (List Byte × Nat × Nat × Nat) × State :=
  let at' := s.atom a
  let rts := max (max at'.rts (s.toOff a (P + L))) at'.wts
  let s := (s.modAtom a (fun t => { t with rts := rts })).touchFrame a false
  ((s.bytes (a / 32 * 32) 32, s.ofOff a at'.wts, s.ofOff a rts, at'.seq), s)

/-- An access to a peer reads its send window entry (R367, R433). -/
def State.sendSeen (s : State) (t : Tgt) : State :=
  match t with | .peer p w _ => s.touchFrame (s.sendWinAt p w) false | _ => s

/-- Count a request accepted at a home for a partition (R407). -/
def State.countHome (s : State) (a p : Nat) : State :=
  s.modSlice (homeOf a) (fun t => { t with used := Map.put t.used p (Map.get 0 t.used p + 1) })

/-- A read that the hardware makes for itself, at its home: it counts for the partition (R354, R367, R380, R407). -/
def State.seen (s : State) (p a : Nat) : State := (s.homeRead a s.gcc (s.lease p)).2.countHome a p

/-- The descriptor of a tensor and an entry of a tile table are read at their homes (R362, R364, R367). -/
def State.tileRead (s : State) (p tid set tile : Nat) : State :=
  let a := bitsOf (s.preg p 0x008) 51 22 * 2 ^ 22 + 64 * tid
  let s := (s.seen p a).seen p (a + 32)
  match s.tensor p tid with
  | some d => s.seen p ((if set = 0 then d.tta else d.ttb) + 8 * tile)
  | none => s

/-- The timestamp of a write at the home: WTS ← max(P, RTS + 1), RTS ← WTS (R380). -/
def State.homeStamp (s : State) (a P : Nat) : Nat × State :=
  let at' := s.atom a
  let w := max (s.toOff a P) (at'.rts + 1)
  let s := (s.modAtom a (fun t => { t with rts := w, wts := w })).touchFrame a true
  (s.ofOff a w, s)

/-- A write of enabled bytes at the home (R380, R384): a WR of the whole atom clears the poison, and of a poisoned atom no other write comes
here. Answers wts. -/
def State.homeWrite (s : State) (a P : Nat) (bs : List (Option Byte)) : Nat × State :=
  let (w, s) := s.homeStamp a P
  let s := s.setEnabled a bs
  let full := bs.length == 32 && bs.all Option.isSome
  (w, if full then s.modAtom a (fun t => { t with psn := false }) else s)

end Sys2Proof.Machine
end

