-- ==== Sys2Proof/Machine/Access.lean ====
section
/-! DEFINITION. How an agent reaches memory: the L1 with its leases, the agent's program timestamp, messages to the homes, and
accesses to host and peer memory (spec/18 R375-R379; spec/03 R59, R67; spec/17 R350). An access is attempted until it is done:
an attempt that must wait leaves its request on the way and answers `wait`. -/

namespace Sys2Proof.Machine

/-- The cluster of a hearth that may be fused, or none for a hearth (R16). -/
def clusterOf (h : Nat) : Nat :=
  let i := h % 48
  12 * (h / 48) + 3 * (i / 6 / 2) + (i % 6) / 2

/-- Member m of cluster n in cluster order (R16). -/
def clusterMember (n m : Nat) : Nat :=
  let d := n / 12
  let j := (n % 12) / 3
  let i := n % 3
  48 * d + 6 * (2 * j + m / 2) + (2 * i + m % 2)

/-- The L1 of a hearth is fused with its cluster's (R16). -/
def State.fused (s : State) (h : Nat) : Bool :=
  match s.partOfHearth h with
  | some p => (s.part p).fuse.testBit (clusterOf h)
  | none => false

/-- The key of a target's atom in an L1: physical atoms, host lines, and window atoms by their address. -/
def tgtKey : Tgt → Nat
  | .dev pa => pa / 32
  | .win p tid va => 2 ^ 60 + (2 ^ 16 * p + tid) * 2 ^ 47 + va / 32
  | .host _ p a x => hostKey p a x / 32
  | .peer p r o => 2 ^ 90 + (2 ^ 10 * p + r) * 2 ^ 52 + o

/-- Offset of a target in its atom. -/
def tgtOff : Tgt → Nat
  | .dev pa => pa % 32
  | .win _ _ va => va % 32
  | .host _ _ a _ => a % 32
  | .peer _ _ o => o % 32

/-- The same target at another offset. -/
def Tgt.plus (t : Tgt) (n : Nat) : Tgt :=
  match t with
  | .dev pa => .dev (pa + n)
  | .win p i va => .win p i (va + n)
  | .host c p a x => .host c p (a + n) (x.map (· + n))
  | .peer p r o => .peer p r (o + n)

/-- The base of a target's atom. -/
def Tgt.atomBase (t : Tgt) : Tgt :=
  match t with
  | .dev pa => .dev (pa / 32 * 32)
  | .win p i va => .win p i (va / 32 * 32)
  | .host c p a x => .host c p (a / 32 * 32) (x.map (fun y => y / 32 * 32))
  | .peer p r o => .peer p r (o / 32 * 32)

/-- Host pages of PCIe and pod peers are reached by requests of their own (R350, R433). -/
def Tgt.external : Tgt → Bool
  | .host coh .. => !coh
  | .peer .. => true
  | _ => false

/-- Targets outside package memory are accessed at S scope (R59). -/
def Tgt.scopeOf (t : Tgt) (scope : Nat) : Nat :=
  match t with
  | .host .. => 2
  | .peer .. => 2
  | _ => scope

/-- The hearth whose L1 slice holds an atom (R16). -/
def State.l1Owner (s : State) (h : Nat) (t : Tgt) : Nat :=
  if s.fused h then clusterMember (clusterOf h) ((tgtKey t / 4) % 4) else h

/-- Key of an atom in the L1s. -/
def State.l1Key (s : State) (h : Nat) (t : Tgt) : Nat := s.l1Owner h t * 2 ^ 110 + tgtKey t

/-- The copy that an agent of a hearth finds in the L1. -/
def State.l1Find (s : State) (h : Nat) (t : Tgt) : Option L1E := Map.find? s.l1 (s.l1Key h t)

/-- Who accesses: place, task, timestamp and the stage of its access. -/
structure Port where
  h : Nat := 0
  p : Nat := 0
  c : Nat := 0
  who : Who := .nobody
  pts : Nat := 0
  x : Xact := {}
  /-- the accessed bytes are private memory of the task (R58) -/
  priv : Bool := false
deriving DecidableEq, Repr, Inhabited

/-- The answer of an attempt. -/
inductive Acs where
  | done (data : List Byte) (val : Nat)
  | wait
  | bad (cause sub : Nat)
deriving DecidableEq, Repr

/-- pts ← max(pts, local GCC), and whether the access may go: pts within local GCC + 64 (R375). -/
def State.ptsTick (s : State) (a : Port) : Port × Bool :=
  let g := s.localGcc a.h
  let t := max a.pts g
  ({ a with pts := t }, decide (t ≤ g + 64))

/-- The same for an access to a target: it follows the PUBLISH of the frame set that it binds to (R65), and one that another member's slice of a fused L1 serves takes 6 cy more (R16). -/
def State.accTick (s : State) (a : Port) (t : Tgt) : Port × Bool :=
  let (a, go) := s.ptsTick { a with pts := if a.x.out || a.x.got.isSome then a.pts else max a.pts (s.tgtPts t), x := { a.x with tgt := some t } }
  if !go || t.external || s.l1Owner a.h t = a.h || a.x.out || a.x.got.isSome then (a, go)
  else if a.x.due = 0 then ({ a with x := { a.x with due := s.gcc + 6 } }, false)
  else (a, decide (a.x.due ≤ s.gcc))

/-- The request of an agent. -/
def mkReq (a : Port) (ep : Nat) (k : ReqK) (t : Tgt) (scope cls : Nat) : Req :=
  { kind := k, who := a.who, h := a.h, part := a.p, ctx := ckey a.h a.c, epoch := ep, tgt := t, pts := a.pts, scope := scope, cls := cls }

/-- A read or a renewal, and not a write, write-back or atomic. -/
def ReqK.reads : ReqK → Bool
  | .rd | .rnw => true
  | .wr | .wb | .at => false

/-- The stop at which a request enters the mesh: the L1 slice that serves its hearth, or an outside source's (R9, R16). -/
def State.reqStop (s : State) (r : Req) (home : Nat) : Stop := srcStop r.src (s.l1Owner r.h r.tgt) home

/-- A request sets out to its home, where its route brings it (R11, R388). -/
def State.sendReq (s : State) (r : Req) : State :=
  let home := s.homeAt r.who r.tgt (!r.kind.reads)
  { s with reqs := s.reqs ++ [{ r with home := home, due := s.gcc + transit (s.reqStop r home) (.home home) }] }

/-- Send a request, and note that it is out. -/
def State.send (s : State) (a : Port) (r : Req) : State × Port := (s.sendReq r, { a with x := { a.x with out := true, due := 0 } })

/-- The epoch that a write of a context carries (R421). -/
def State.epochOf (s : State) (a : Port) : Nat := (s.ctx (ckey a.h a.c)).epoch

/-- The UALink port of an access to a peer (R433). -/
def State.portOf (s : State) (t : Tgt) : Option Nat :=
  match t with
  | .peer p r _ => some (Config.ualPort (bitsOf (s.sendWin p r) 73 64))
  | _ => none

/-- Key of a UALink port's use by a partition (R407). -/
def ualUse (port : Nat) : Nat := 2 ^ 21 + port

/-- An access to a peer waits at its source while pod traffic is not enabled, on a port whose peer has no tenancy prefix, or past the partition's BUAL (R407, R408, R430,
R431). -/
def State.extHeld (s : State) (p : Nat) (e : Ext) : Bool :=
  match s.portOf e.tgt with
  | none => false
  | some q =>
    !bitOf (s.bar 0 0x190000).toNat 16 || !Config.ualPrefix q
      || (s.budget p 2 != 0 && decide (s.budget p 2 < Map.get 0 (s.part p).used (ualUse q) + Config.ualFlits e.kind e.len))

/-- Count the flits of an access (R407). -/
def State.countExt (s : State) (p : Nat) (e : Ext) : State :=
  match s.portOf e.tgt with
  | none => s
  | some q => s.modPart p (fun r => { r with used := Map.put r.used (ualUse q) (Map.get 0 r.used (ualUse q) + Config.ualFlits e.kind e.len) })

/-- The reads, or the writes, of one lane word in one 128-byte line of a host page travel as one request (R350). -/
def Ext.joins (e f : Ext) : Bool :=
  match e.who, f.who, e.tgt, f.tgt with
  | .lane h g o _, .lane i k q _, .host _ p a x, .host _ r b y =>
    h == i && g == k && o == q && e.kind == f.kind && decide (e.kind < 2) && e.sentAt == f.sentAt && p == r
      && hostKey p a x / 128 == hostKey r b y / 128
  | _, _, _, _ => false

/-- The request that carries an access: that of an access which it joins, or one of its own. -/
def State.extRq (s : State) (e : Ext) : Nat :=
  match s.exts.find? (fun f => f.joins e) with
  | some f => f.rq
  | none => 1 + (s.exts.map (·.rq)).foldl max 0

/-- Send an access to host or peer memory, when it may go. -/
def State.sendExt (s : State) (a : Port) (e : Ext) : State × Port :=
  if s.extHeld a.p e then (s, a)
  else
  let s := (s.countExt a.p e).sendSeen e.tgt
  let e := { e with who := a.who, h := a.h, part := a.p, ctx := ckey a.h a.c, sentAt := s.gcc }
  ({ s with exts := s.exts ++ [{ e with rq := s.extRq e }] }, { a with x := { a.x with out := true } })

/-- Read `n` bytes of a byte list from an offset. -/
def sliceOf (l : List Byte) (o n : Nat) : List Byte := (l.drop o).take n

/-- Replace bytes of a list from an offset. -/
def patch : List Byte → Nat → List Byte → List Byte
  | [], _, _ => []
  | l, _, [] => l
  | _ :: r, 0, b :: bs => b :: patch r 0 bs
  | a :: r, o + 1, bs => a :: patch r o bs

/-- Every byte of an atom. -/
def allBytes : Nat := 2 ^ 32 - 1

/-- The bits of `n` bytes from an offset of an atom. -/
def dirtyBits (o n : Nat) : Nat := (2 ^ n - 1) * 2 ^ o

/-- Some bytes of a set that another set lacks. -/
def lacking (a b : Nat) : Nat := a ^^^ (a &&& b)

/-- A context's pending stores are held at its hearth: from a trap until the driver's answer (R420). -/
def State.frozen (s : State) (k : Nat) : Bool := (s.ctx k).trapped.isSome

/-- Send the dirty bytes of an L1 atom to the home as a WB (R376, R67). Until it is acknowledged the copy keeps these bytes and
no lease: a read goes to the home, behind them. Those of a frozen task stay (R420). -/
def State.writeBack (s : State) (key : Nat) : State :=
  match Map.find? s.l1 key with
  | none => s
  | some e =>
    if e.dirty = 0 || s.frozen e.ctx then s
    else
      let bs := (natsFrom 0 32).map (fun i => if e.dirty.testBit i then some (e.data.getD i 0) else none)
      let h := key / 2 ^ 110
      let r : Req := { kind := .wb, who := .wback e.ctx e.va, h := h, part := e.part, ctx := e.ctx, epoch := e.epoch, tgt := e.tgt.atomBase,
                       pts := max (max e.wts e.hpts) (s.localGcc h), scope := 1, bytes := bs, psn := e.psn }
      { s.sendReq r with l1 := Map.put s.l1 key { e with dirty := 0, valid := e.dirty, rts := 0 } }

/-- Atoms that the L1 data of one hearth holds (R7, R12): 256 KiB; a fused L1 is that of its four members (R16). -/
def l1Atoms : Nat := 8192

/-- Retired line frames of a structure, of the locations that a test picks (R450). -/
def State.linesOut (s : State) (src : Nat) (p : Nat → Bool) : Nat := (s.boot.retired.filter (fun r => r.src == src && p r.loc)).length

/-- Room for an atom in the L1 slice of its hearth: of a full slice a copy leaves, its dirty bytes written back; which one is free
(notes/assumptions/15). Dirty bytes of a frozen task stay (R420). -/
def State.l1Room (s : State) (key : Nat) : State :=
  if (Map.find? s.l1 key).isSome then s
  else
    let held := s.l1.filter (fun q => q.1 / 2 ^ 110 == key / 2 ^ 110)
    if held.length + 4 * s.linesOut 3 (fun l => l % 256 == key / 2 ^ 110 && l / 256 % 256 == 0) < l1Atoms then s
    else
      let vs := held.filter (fun q => !(q.2.dirty != 0 && s.frozen q.2.ctx))
      match vs[Config.freeNat s.tick 90 % vs.length]? with
      | none => s
      | some q =>
        let s := s.writeBack q.1
        { s with l1 := Map.erase s.l1 q.1 }

/-- Install or change a copy in the L1s. -/
def State.putL1 (s : State) (key : Nat) (e : L1E) : State :=
  let s := s.l1Room key
  { s with l1 := Map.put s.l1 key e }

/-- Write back every dirty atom of a hearth that is not private memory (R67). -/
def State.flushL1 (s : State) (h : Nat) : State :=
  (s.l1.filter (fun (k, e) => k / 2 ^ 110 == h && e.dirty != 0 && !e.priv)).foldl (fun s (k, _) => s.writeBack k) s

/-- The hearths whose L1 slices serve an agent's hearth (R16). -/
def State.l1Hearths (s : State) (h : Nat) : List Nat :=
  if s.fused h then (natsFrom 0 4).map (clusterMember (clusterOf h)) else [h]

/-- Release at D scope: the dirty atoms of the agent's L1 are on their way (R67). -/
def State.releaseFlush (s : State) (h : Nat) : State := (s.l1Hearths h).foldl State.flushL1 s

/-- A write-back. -/
def isWback (w : Who) : Bool := match w with | .wback .. => true | _ => false

/-- No write-back of a hearth is on its way or unacknowledged (R67, R377). -/
def State.flushed (s : State) (h : Nat) : Bool :=
  !s.reqs.any (fun r => r.kind == .wb && r.h == h) && !s.reps.any (fun r => isWback r.who && r.h == h)

/-- The timestamps of the write-backs that the L1 of a hearth has had acknowledged: what a release has placed in T (R62, R67, R377). -/
def State.wbStamp (s : State) (h : Nat) : Nat := ((s.l1Hearths h).map (fun i => (s.hearth i).wbPts)).foldl max 0

/-- A store that a control thread of a context has posted. -/
def State.postedBy (s : State) (k : Nat) (w : Who) : Bool :=
  match w with
  | .post h t _ => ckey h (s.thread (tkey h t)).ctx == k
  | _ => false

/-- No access of a context to host or peer memory is unacknowledged (R79). -/
def State.extQuiet (s : State) (k : Nat) : Bool :=
  !s.exts.any (fun e => e.ctx == k) && !s.reqs.any (fun r => s.postedBy k r.who) && !s.reps.any (fun r => s.postedBy k r.who)

/-- A store that a thread has posted to a target that a test picks is unacknowledged. -/
def State.postsAny (s : State) (h t : Nat) (p : Tgt → Bool) : Bool :=
  let mine (w : Who) : Bool := match w with | .post g u _ => g == h && u == t | _ => false
  s.exts.any (fun e => mine e.who && p e.tgt.atomBase) || s.reqs.any (fun r => mine r.who && p r.tgt.atomBase) || s.reps.any (fun r => mine r.who && p r.tgt)

/-- A thread's posted store to an atom is unacknowledged: its next access to the atom follows it (R79). -/
def State.postedTo (s : State) (h t : Nat) (a : Tgt) : Bool := s.postsAny h t (· == a.atomBase)

/-- A hit in the L1 for `n` bytes at a target: dirty bytes are readable without a lease check, others while pts + G ≤ rts (R376;
notes/assumptions/76). -/
def State.l1Hit (s : State) (a : Port) (t : Tgt) (n : Nat) : Option L1E :=
  match s.l1Find a.h t with
  | some e =>
    let m := dirtyBits (tgtOff t) n
    if m &&& e.dirty = m || (decide (m &&& e.valid = m) && decide (a.pts + s.guardBand a.h ≤ e.rts)) then some e else none
  | none => none

/-- The timestamp that a read of bytes of a copy takes: that of its version, and of the H-scope stores of the bytes (R63, R65, R376;
notes/assumptions/85). -/
def L1E.stamp (e : L1E) (m : Nat) : Nat := if m &&& e.dirty = 0 then e.wts else max e.wts e.hpts

/-- Ask the home for `n` bytes of an atom: RNW where the L1 holds a copy of them whose lease has expired, else RD; a copy whose lease ended
2^22 cy ago or more is dropped (R376, R389). An RNW's atom mask is `a`. -/
def State.ask (s : State) (a : Port) (t : Tgt) (n scope cls : Nat) : State × Port :=
  let rd := mkReq a 0 .rd t.atomBase scope cls
  let m := dirtyBits (tgtOff t) n
  match s.l1Find a.h t with
  | some e =>
    s.send a (if m &&& e.valid = m && decide (s.localGcc a.h < e.rts + 2 ^ 22) then { rd with kind := .rnw, wts := e.wts, a := m } else rd)
  | none => s.send a rd

/-- Load `n` bytes (within one atom) at a target (R376, R350). -/
def State.accLoad (s : State) (a : Port) (t : Tgt) (n va scope cls : Nat) : Acs × State × Port :=
  let (a, go) := s.accTick a t
  if !go then (.wait, s, a)
  else
    match a.x.got with
    | some g =>
      let a := { a with pts := max a.pts g.wts, x := {} }
      if g.ok then (.done (if t.external then g.data.take n else sliceOf g.data (tgtOff t) n) 0, s, a)
      else (.bad g.cause g.sub, s, a)
    | none =>
      if a.x.out then (.wait, s, a)
      else if t.external then
        let (s, a) := s.sendExt a { tgt := t, va := va, kind := 0, len := n }
        (.wait, s, a)
      else
        match s.l1Hit a t n with
        | some e =>
          if e.psn then (.bad 0x0F 0, s, { a with x := {} })
          else (.done (sliceOf e.data (tgtOff t) n) 0, s, { a with pts := max a.pts (e.stamp (dirtyBits (tgtOff t) n)), x := {} })
        | none =>
          let (s, a) := s.ask a t n (t.scopeOf scope) cls
          (.wait, s, a)

/-- Load `n` bytes (within one atom) at their home: an engine's loads go past the L1 (R72, R350, R375). The reply brings the atom, with the
bytes that the hearth's L1 holds before those of memory (R63). `pt` is the timestamp that the access follows. -/
def State.homeLoad (s : State) (a : Port) (t : Tgt) (n va pt cls : Nat) : Acs × State × Port :=
  if t.external then s.accLoad a t n va 2 cls
  else
    let (a, go) := s.ptsTick { a with pts := if a.x.out || a.x.got.isSome then a.pts else max a.pts pt, x := { a.x with tgt := some t } }
    if !go then (.wait, s, a)
    else
      match a.x.got with
      | some g =>
        let a := { a with pts := max a.pts g.wts, x := {} }
        if g.ok then (.done (sliceOf g.data (tgtOff t) n) 0, s, a) else (.bad g.cause g.sub, s, a)
      | none =>
        if a.x.out then (.wait, s, a)
        else
          let (s, a) := s.send a (mkReq a 0 .rd t.atomBase (t.scopeOf 1) cls)
          (.wait, s, a)

/-- The 16-byte unit of a target (R152). -/
def tgtUnit (t : Tgt) : Nat := tgtKey t * 2 + tgtOff t / 16

/-- A store by an agent breaks every other thread's reservation of the unit (R152); a write-back, those of other hearths: its own
hearth's saw the store as it was made. -/
def State.breakResv (s : State) (unit : Nat) (w : Who) : State :=
  let other (k : Nat) : Bool := match w with
    | .wback x _ => x / 4 != k / 8
    | w => w != .thread (k / 8) (k % 8)
  { s with threads := s.threads.map (fun (k, th) =>
      (k, match th.resv with
          | some r => if r.unit = unit && other k then { th with resv := some { r with valid := false } } else th
          | none => th)) }

/-- The copy of an atom leaves the L1, its dirty bytes written back: the next read goes to the home. Bytes that are being written back
stay. -/
def State.l1Yield (s : State) (key : Nat) : State :=
  match Map.find? s.l1 key with
  | none => s
  | some e => if e.dirty != 0 then s.writeBack key else if e.rts = 0 then s else { s with l1 := Map.erase s.l1 key }

/-- The code of an agent in trap records and dumps (R416). -/
def Who.code : Who → Nat
  | .lane .. | .group .. => 1
  | .window .. => 6
  | .cmd q _ => if q < 4096 then 2 + q % 4 else 3
  | .script q => if q < 4096 then 2 + q % 4 else 3
  | .thread .. | .post .. | .wback .. | .line .. | .nobody => 0

/-- Put bytes into an L1 copy as dirty data of a context (R376). -/
def State.l1Dirty (s : State) (a : Port) (t : Tgt) (e : L1E) (bs : List Byte) (va cls : Nat) : State :=
  let e := { e with data := patch e.data (tgtOff t) bs, dirty := e.dirty ||| dirtyBits (tgtOff t) bs.length,
                    hpts := if e.dirty = 0 then a.pts else max e.hpts a.pts,
                    tgt := t.atomBase, part := a.p, ctx := ckey a.h a.c, epoch := s.epochOf a, va := va - tgtOff t,
                    priv := a.priv, cls := cls, agent := a.who.code }
  (s.breakResv (tgtUnit t) a.who).putL1 (s.l1Key a.h t) e

/-- A shadowed tensor's window: a store to it goes to the shadow set and leaves the copies of the active set alone (R74, R383). -/
def Tgt.shadowed : Tgt → Bool
  | .win .. => true
  | _ => false

/-- Whether a store or atomic of a target and scope stays in the L1: H scope on device memory that is no shadowed window
(R71, R74, R383). -/
def l1Only (t : Tgt) (scope : Nat) : Bool :=
  match t with
  | .dev _ => scope == 0
  | _ => false

/-- The atom for an H-scope write of `n` bytes: a hit, or the data just received (write-allocate). -/
def State.l1Own (s : State) (a : Port) (t : Tgt) (n : Nat) : Option L1E × Port :=
  match s.l1Hit a t n with
  | some e => (some e, { a with x := {} })
  | none =>
    match a.x.got with
    | some g =>
      let e : L1E := (s.l1Find a.h t).getD { data := g.data, valid := 0 }
      (if g.ok then some { e with data := patch e.data (tgtOff t) (sliceOf g.data (tgtOff t) n), wts := max e.wts g.wts } else none,
        { a with x := {} })
    | none => (none, a)

/-- What the storing L1 keeps of a store or atomic that its home has acknowledged with `w`: the new data, with rts = wts (R377). The
copy's other bytes may be older than `w`, and no lease covers them any more (notes/assumptions/76). The held bytes of a frozen task
stay (R420). A shadowed window's store leaves nothing (R383), and memory outside the package has no copy (R350). -/
def State.l1Keep (s : State) (h : Nat) (t : Tgt) (bs : List Byte) (w : Nat) : State :=
  if t.shadowed || t.external || decide (192 ≤ h) then s
  else
  match s.l1Find h t with
  | none => s.putL1 (s.l1Key h t) { data := patch (List.replicate 32 0) (tgtOff t) bs, wts := w, rts := w, tgt := t.atomBase,
                                    valid := dirtyBits (tgtOff t) bs.length }
  | some e =>
    let m := dirtyBits (tgtOff t) bs.length
    if m &&& e.dirty != 0 && s.frozen e.ctx then { s with l1 := Map.put s.l1 (s.l1Key h t) { e with valid := lacking e.valid m } }
    else { s with l1 := Map.put s.l1 (s.l1Key h t) { e with
        data := patch e.data (tgtOff t) bs, wts := w, rts := w, dirty := lacking e.dirty m, valid := m
        psn := e.psn && lacking e.dirty m != 0 } }

/-- Byte i of a copy is to be taken before that of a version `w`: it is dirty, is being written back, or belongs to a later version. -/
def L1E.leads (e : L1E) (w i : Nat) : Bool :=
  e.dirty.testBit i || ((decide (e.rts = 0) || decide (w < e.wts)) && e.valid.testBit i)

/-- Dirty bytes that a store on its way to the home replaces are dirty no longer (R63). -/
def State.l1Replace (s : State) (h : Nat) (t : Tgt) (n : Nat) : State :=
  match (if t.shadowed then none else s.l1Find h t) with
  | none => s
  | some e =>
    let m := dirtyBits (tgtOff t) n
    if m &&& e.dirty = 0 || s.frozen e.ctx then s
    else { s with l1 := Map.put s.l1 (s.l1Key h t) { e with dirty := lacking e.dirty m, valid := lacking e.valid m } }

/-- Store bytes (within one atom) at a target (R376, R377, R350). -/
def State.accStore (s : State) (a : Port) (t : Tgt) (bs : List Byte) (va scope cls : Nat) : Acs × State × Port :=
  let (a, go) := s.accTick a t
  if !go then (.wait, s, a)
  else if l1Only t scope then
    if a.x.out then (.wait, s, a)
    else
      match a.x.got with
      | some { ok := false, cause := c, sub := u, .. } => (.bad c u, s, { a with x := {} })
      | _ =>
        match s.l1Own a t bs.length with
        | (some e, a) =>
          let a := { a with pts := max a.pts e.wts }
          (.done [] 0, s.l1Dirty a t e bs va cls, a)
        | (none, a) =>
          let (s, a) := s.ask a t bs.length scope cls
          (.wait, s, a)
  else
    match a.x.got with
    | some g =>
      let a := { a with pts := max a.pts g.wts, x := {} }
      if g.ok then (.done [] 0, s.l1Keep a.h t bs g.wts, a)
      else (.bad g.cause g.sub, s, a)
    | none =>
      if a.x.out then (.wait, s, a)
      else if t.external then
        let (s, a) := s.sendExt a { tgt := t, va := va, kind := 1, len := bs.length, bytes := bs }
        (.wait, s, a)
      else
        let s := s.l1Replace a.h t bs.length
        let (s, a) := s.send a { mkReq a (s.epochOf a) .wr t (t.scopeOf scope) cls with bytes := bs.map some }
        (.wait, s, a)

/-- The new value of an atomic on `w` bytes: old value m, operand a, new value b of a compare-and-swap (R220, R221, A). The
floating sum is given by `addf`. -/
def atNew (addf : Nat → Nat → Nat) (op : AtOp) (w m a b : Nat) : Nat :=
  let n := 8 * w
  let sg (x : Nat) : Int := (BitVec.ofNat n x).toInt
  match op with
  | .swap => a
  | .add => (m + a) % 2 ^ n
  | .xor => m ^^^ a
  | .and => m &&& a
  | .or => m ||| a
  | .min => if sg a < sg m then a else m
  | .max => if sg m < sg a then a else m
  | .minu => if a < m then a else m
  | .maxu => if m < a then a else m
  | .addf => addf m a
  | .cas => if m = a then b else m

/-- An atomic on the unit at a target (R71, R350, R376, R377). Answers the old value. -/
def State.accAtomic (addf : Nat → Nat → Nat) (s : State) (a : Port) (t : Tgt) (op : AtOp) (w x y va scope cls : Nat) :
    Acs × State × Port :=
  let (a, go) := s.accTick a t
  if !go then (.wait, s, a)
  else if l1Only t scope then
    if a.x.out then (.wait, s, a)
    else
      match a.x.got with
      | some { ok := false, cause := c, sub := u, .. } => (.bad c u, s, { a with x := {} })
      | _ =>
        match s.l1Own a t w with
        | (some e, a) =>
          if e.psn then (.bad 0x0F 0, s, a)
          else
          let m := natOfBytes (sliceOf e.data (tgtOff t) w)
          let a := { a with pts := max a.pts (e.stamp (dirtyBits (tgtOff t) w)) }
          (.done [] m, s.l1Dirty a t e (bytesOf (atNew addf op w m x y) w) va cls, a)
        | (none, a) =>
          let (s, a) := s.ask a t w scope cls
          (.wait, s, a)
  else
    match a.x.got with
    | some g =>
      let a := { a with pts := max a.pts g.wts, x := {} }
      if g.ok then (.done [] g.val, s.l1Keep a.h t (bytesOf (atNew addf op w g.val x y) w) g.wts, a)
      else (.bad g.cause g.sub, s, a)
    | none =>
      if a.x.out then (.wait, s, a)
      else if t.external then
        let (s, a) := s.sendExt a { tgt := t, va := va, kind := 2, len := w, op := op, a := x, b := y }
        (.wait, s, a)
      else
        -- dirty bytes of the atom precede the atomic in T (R63)
        let s := s.writeBack (s.l1Key a.h t)
        let (s, a) := s.send a { mkReq a (s.epochOf a) .at t (t.scopeOf scope) cls with op := op, width := w, a := x, b := y }
        (.wait, s, a)

/-- The byte at a target as a fetch of a hearth finds it: bytes of its L1 that are dirty or are being written back, else memory
(notes/assumptions/13). -/
def State.peek (s : State) (h : Nat) (t : Tgt) : Byte :=
  let mem : Byte := match s.place t false with | .at a => s.byte a | _ => 0
  match s.l1Find h t with
  | some e => if e.dirty.testBit (tgtOff t) || (decide (e.rts = 0) && e.valid.testBit (tgtOff t)) then e.data.getD (tgtOff t) 0 else mem
  | none => mem

/-- A number of n bytes as a fetch finds it. -/
def State.peekNum (s : State) (h : Nat) (t : Tgt) (n : Nat) : Nat := natOfBytes ((natsFrom 0 n).map (fun i => s.peek h (t.plus i)))

/-- Memory outside the package: its bytes come with a request of their own (R350, R386, R433). -/
def Tgt.far (t : Tgt) : Bool := t.scopeOf 1 == 2

/-- An atom of host or peer memory that a place has read. -/
def State.lineAt (s : State) (h : Nat) (t : Tgt) : Option Line := s.lines.find? (fun l => l.h == h && l.tgt == t.atomBase)

/-- The read of an atom by a place is on its way. -/
def State.lineOut (s : State) (h : Nat) (t : Tgt) : Bool :=
  let w := Who.line h t.atomBase
  s.exts.any (fun e => e.who == w) || s.reqs.any (fun r => r.who == w) || s.reps.any (fun r => r.who == w)

/-- A place asks for an atom of host or peer memory, at S scope (R59). -/
def State.askLine (s : State) (h p c : Nat) (t : Tgt) : State :=
  if s.lineOut h t then s
  else
    let b := t.atomBase
    let a : Port := { h := h, p := p, c := c, who := .line h b, pts := s.gcc }
    (if t.external then s.sendExt a { tgt := b, kind := 0, len := 32 } else s.send a (mkReq a 0 .rd b 2 0)).1

/-- Atoms that a place has read for a partition are wanted no longer. -/
def State.dropLines (s : State) (h p : Nat) : State :=
  { s with lines := s.lines.filter (fun l => !(l.h == h && (match l.tgt with | .host _ q _ _ => q == p | .peer q _ _ => q == p | _ => false))) }

/-- What a fetch of `n` bytes finds. -/
inductive Fetched where
  | ok (v : Nat)
  /-- the atom at a target is still to come -/
  | absent (t : Tgt)
  | bad (cause sub : Nat)
deriving DecidableEq, Repr

/-- A fetch by a place: package memory as its L1 and the homes hold it, host and peer memory by reads of its atoms. -/
def State.fetched (s : State) (h : Nat) (t : Tgt) (n : Nat) : Fetched :=
  if !t.far then .ok (s.peekNum h t n)
  else
    let get (i : Nat) : Option Byte := (s.lineAt h (t.plus i)).bind (fun l => if l.bad.isSome then none else some (l.data.getD (tgtOff (t.plus i)) 0))
    match (natsFrom 0 n).find? (fun i => (get i).isNone) with
    | none => .ok (natOfBytes ((natsFrom 0 n).map (fun i => (get i).getD 0)))
    | some i => (match (s.lineAt h (t.plus i)).bind (·.bad) with
        | some (c, u) => .bad c u
        | none => .absent (t.plus i))

/-- A script header that R150 refuses: its address, and its four bytes as a number. -/
def badScript (a hd : Nat) : Bool :=
  a % 4 != 0 || hd % 2 ^ 16 == 0 || decide (4096 < hd % 2 ^ 16) || hd / 2 ^ 16 != 0

/-! ## Answers to agents -/

/-- Change the stage of the access of the agent that waits for it. -/
def State.modXact (s : State) (w : Who) (f : Xact → Xact) : State :=
  match w with
  | .thread h t => s.modThread (tkey h t) (fun th => { th with xact := f th.xact })
  | .lane h g op l =>
    s.modGroup (ckey h g) (fun gr => { gr with ops := gr.ops.map (fun o =>
      if o.id = op then { o with acc := o.acc.map (fun a => if a.lane = l then { a with x := f a.x } else a) } else o) })
  | .window h g => s.modGroup (ckey h g) (fun gr => { gr with winX := f gr.winX })
  | .cmd q n => s.modEng q (fun e => { e with cmds := Map.mod {} e.cmds n (fun c => { c with xact := f c.xact }) })
  | _ => s

/-- An agent asks again from the start. -/
def State.setXact (s : State) (w : Who) (x : Xact) : State := s.modXact w (fun _ => x)

/-- Hand an answer to the agent that waits for it. A store that was posted leaves its timestamp to its thread, and a refusal for its next
S-scope release (R79, R436; notes/assumptions/86). -/
def State.deliver (s : State) (w : Who) (g : Got) : State :=
  match w with
  | .post h t va =>
    s.modThread (tkey h t) (fun th => if g.ok then { th with pts := max th.pts g.wts }
      else { th with owed := some (th.owed.getD { cause := g.cause, sub := g.sub, va := va }) })
  | .line h t => { s with lines := s.lines ++ [{ h := h, tgt := t, data := g.data, bad := if g.ok then none else some (g.cause, g.sub) }] }
  | w => s.modXact w (fun x => { x with out := false, got := some g })

/-- Ask for a walk (R354, R356). -/
def State.askWalk (s : State) (h p va : Nat) (acc : Acc) (w : Who) : State :=
  { s with walks := s.walks ++ [{ h := h, part := p, va := va, acc := acc, who := w }] }

end Sys2Proof.Machine
end

