-- ==== Sys2Proof/Machine/Alias.lean ====
section
/-! DEFINITION. Issue order between the queues of a task (spec/03 R68; spec/10 R253): whether an earlier-issued engine command or
block still has an access to make that touches the same bytes under a class that orders the two (notes/assumptions/39). -/

namespace Sys2Proof.Machine

/-- Two classes that order their accesses (R68). -/
def classMeets (a b : Nat) : Bool := a == 0 || b == 0 || a == b

/-- Two byte ranges have a common byte. -/
def meets (a n b m : Nat) : Bool := decide (a < b + m) && decide (b < a + n)

/-- Address of element e of an affine stream with base, counts and strides (R271). -/
def strmAddr (args : List Nat) (e : Nat) : Nat :=
  let g (i : Nat) : Nat := args.getD i 0
  let c0 := g 1 % 2 ^ 32
  let sx (v : Nat) : Int := (BitVec.ofNat 32 v).toInt
  if c0 = 0 then g 0
  else (((g 0 : Int) + sx (g 2 % 2 ^ 32) * (e % c0 : Nat) + sx (g 2 / 2 ^ 32) * (e / c0 : Nat)) % (2 ^ 64 : Int)).toNat

/-- Bytes of an element of a stream's width code (R271). -/
def strmWidth (ctl : Nat) : Nat :=
  let w := ctl / 4 % 4
  if w = 0 then 4 else if w = 3 then 1 else 2

/-- The spaces in which two queues of a task meet (R68): virtual addresses, device physical addresses (the scale arrays of tensors, R362), the
scratchpad, the B store, an accumulator bank (its number is the address), exchange windows. Only the lane queue reaches private memory. -/
inductive Space where
  | dev | pa | pad | bst | acc | win
deriving DecidableEq, Repr

/-- One range of accesses: space, address, length, class, and whether it stores. -/
structure Span where
  sp : Space := .dev
  va : Nat
  n : Nat
  cls : Nat
  st : Bool
deriving DecidableEq, Repr

/-- Virtual addresses that are not known yet may be any byte of device memory. -/
def Span.anywhere (a : Span) : Bool := a.sp == .dev && decide (2 ^ 64 ≤ a.n)

/-- Two ranges have a common byte of one space. -/
def Span.common (a b : Span) : Bool :=
  (a.sp == b.sp && meets a.va a.n b.va b.n) || (a.sp == .pa && b.anywhere) || (b.sp == .pa && a.anywhere)

/-- Two accesses that their classes order, one of the two being a store (R68). -/
def Span.ordered (a b : Span) : Bool := classMeets a.cls b.cls && (a.st || b.st)

/-- Two ranges have a common byte under classes that order them, one of the two being a store. -/
def Span.clash (a b : Span) : Bool := a.ordered b && a.common b

/-- The physical ranges of a range, as far as the translations that the hearth holds tell: bytes reached through two virtual addresses are
the same bytes (R68). -/
def State.physical (s : State) (h p : Nat) (a : Span) : List (Nat × Nat) :=
  match a.sp with
  | .pa => [(a.va, a.n)]
  | .dev => (s.hearth h).tlb.filterMap (fun e =>
      let lo := max a.va e.va
      let hi := min (a.va + a.n) (e.va + 2 ^ e.lg)
      match e.tgt with
      | .dev pa => if e.part = p && decide (lo < hi) then some (pa + (lo - e.va), hi - lo) else none
      | .host _ q io _ => if e.part = p && decide (lo < hi) then some (hostAddr q io + (lo - e.va), hi - lo) else none
      | _ => none)
  | _ => []

/-- Two ranges clash by their addresses, or through two translations of the same bytes. -/
def State.clash (s : State) (h p : Nat) (a b : Span) : Bool :=
  a.clash b || (a.ordered b && (s.physical h p a).any (fun x => (s.physical h p b).any (fun y => meets x.1 x.2 y.1 y.2)))

/-- A bank of accumulators (R253). -/
def bankSpan (b : Nat) (st : Bool) : Span := { sp := .acc, va := b, n := 1, cls := 0, st := st }
/-- The B store (R253). -/
def bstSpan (st : Bool) : Span := { sp := .bst, va := 0, n := 2 ^ 24, cls := 0, st := st }
/-- The scratchpad, as the feeder reads it and MSCAT writes it (R253). -/
def padSpan (st : Bool) : Span := { sp := .pad, va := 0, n := 2 ^ 22, cls := 0, st := st }
/-- The exchange windows of other hearths. -/
def winSpan : Span := { sp := .win, va := 0, n := 1, cls := 0, st := true }

/-- The window of a tensor operand. -/
def State.tenSpan (s : State) (p : Nat) (o : Option TenOp) (st : Bool) : List Span :=
  match o with
  | none => []
  | some o => (match s.tensor p o.tid with
    | some d => { va := d.vwin, n := d.tileCount * 2 ^ d.tpgLg, cls := o.cls, st := st }
        :: (if fmtBpi d.fmt then [{ sp := .pa, va := d.scale, n := d.units 0 * d.e.getD 1 1 * d.e.getD 2 1 * d.e.getD 3 1, cls := o.cls, st := st }] else [])
        ++ (if o.rpt then [{ va := o.raddr, n := 8, cls := o.cls, st := true }] else [])
    | none => [])

/-- The words of a merged stream that the root of a tree has still to store, as far as it has been merged: accesses of the SLRED of every
leaf, with the class of the tree's entry (R269, R405). -/
def State.rootSpans (s : State) (p tree : Nat) : List Span :=
  match Map.find? (s.part p).trees tree with
  | none => []
  | some t =>
    let r := s.reduc (256 * p + tree)
    let n := r.out.segs.foldl (fun a g => a + 2 + (if g.dense then 4096 / (if t.outTy = 1 then 4 else 2) else g.vals.length)) (boolNat r.out.trail.isSome)
    if n = 0 then [] else [{ va := t.dest + 8 * r.stored, n := 8 * (n - r.stored), cls := t.cls, st := true }]

/-- The bytes that a command has still to access. -/
def State.spans (s : State) (p : Nat) (c : Cmd) : List Span :=
  let g (i : Nat) : Nat := c.args.getD i 0
  let cnt (v : Nat) : Nat := v % 2 ^ 40
  let cl (v : Nat) : Nat := v / 2 ^ 40 % 4
  let rows (st : Bool) : List Span :=
    (natsFrom (c.elem / 32) (32 - c.elem / 32)).map (fun r =>
      { va := g 0 + r * (g 1 % 2 ^ 32), n := 128, cls := g 1 / 2 ^ 32 % 4, st := st })
  match c.kind with
  | .accst b _ => bankSpan b false :: rows true
  | .accld b _ => bankSpan b true :: rows false
  | .accclr b => [bankSpan b true]
  | .cpy => [{ va := g 0, n := cnt (g 2), cls := cl (g 2), st := true }, { va := g 1, n := cnt (g 2), cls := cl (g 2), st := false }]
  | .zero => [{ va := g 0, n := cnt (g 1), cls := cl (g 1), st := true }]
  | .bloadb => [{ sp := .bst, va := g 0, n := cnt (g 2), cls := 0, st := true }, { va := g 1, n := cnt (g 2), cls := cl (g 2), st := false }]
  | .xch => [winSpan, { va := g 1, n := cnt (g 2), cls := cl (g 2), st := false }]
  | .slred => { va := g 0, n := cnt (g 1), cls := cl (g 1), st := false } :: s.rootSpans p (g 2)
  | .tcpy => s.tenSpan p c.src false ++ s.tenSpan p c.dst true
  | .tgath w => s.tenSpan p c.src false ++ s.tenSpan p c.dst true
      ++ [{ va := g 0, n := (if w then 8 else 4) * g 1, cls := (c.src.map (·.cls)).getD 0, st := false }]
  | .tscat w => s.tenSpan p c.src false ++ s.tenSpan p c.dst true
      ++ [{ va := g 0, n := (if w then 8 else 4) * g 1, cls := (c.dst.map (·.cls)).getD 0, st := false }]
  | .strm _ => (natsFrom c.elem (c.total - c.elem)).map (fun e => { va := strmAddr c.args e, n := strmWidth (g 3), cls := g 3 % 4, st := false })
  | .ostrm _ => (natsFrom c.elem (c.total - c.elem)).map (fun e => { va := strmAddr c.args e, n := strmWidth (g 3), cls := g 3 % 4, st := true })
  | .strmt _ => s.tenSpan p c.src false
  | .rvtab => [{ va := g 0, n := 1024, cls := 0, st := false }]
  | .reval b =>
    (match c.rxin with
     | some (a, pt, n, bf) => (natsFrom 0 b).map (fun i => { va := a + i * (pt % 2 ^ 32), n := (if bf then 2 else 4) * n, cls := pt / 2 ^ 32 % 4, st := false })
     | none => [])
    ++ (match c.rprog with | some (a, n, cl, _) => [{ va := a, n := 4 * n, cls := cl, st := false }] | none => [])
    ++ (match c.ryout with
        | some (a, pt, m) => (natsFrom 0 b).map (fun i => { va := a + i * (pt % 2 ^ 32), n := 4 * m, cls := pt / 2 ^ 32 % 4, st := true })
        | none => [])
  | .spgemm =>
    -- the arrays are found while it runs: its reads may be anywhere, its stores anywhere until the descriptor is read, then in the
    -- output area: header, offsets and entries (R257)
    let cl := g 2 / 2 ^ 32 % 4
    -- the fibre cache of the scratchpad belongs to it while it runs (R255)
    { sp := .pad, va := c.fibre.1, n := c.fibre.2, cls := cl, st := true } :: (match c.sp.desc with
     | [] => [{ va := 0, n := 2 ^ 64, cls := cl, st := true }]
     | d => let nr := g 1 / 2 ^ 32
            let o := (d.getD 6 0).toNat
            [{ va := 0, n := 2 ^ 64, cls := cl, st := false }, { va := o, n := 24 + 4 * (nr + 1) + 8 * (g 2 % 2 ^ 32), cls := cl, st := true }])

/-- An access of a task at an issue position must wait for a command issued earlier to one of the engines `es`: one that is
still to be decoded, or whose remaining accesses clash with it (R68). -/
def State.cmdWait (s : State) (h c pos : Nat) (es : List Nat) (r : Span) : Bool :=
  let p := (s.ctx (ckey h c)).part
  es.any (fun e =>
    let q := s.eng (qkey h c e)
    q.words.any (fun w => decide (w.ipos < pos))
      || (match q.fetch with | some (_, _, _, ip) => decide (ip < pos) | none => false)
      || q.cmds.any (fun (_, m) => !m.done && !m.dead && decide (m.ipos < pos) && (s.spans p m).any (fun t => s.clash h p t r)))

/-- The same for a range of virtual addresses, and every engine. -/
def State.aliasWait (s : State) (h c pos cls va n : Nat) (store : Bool) : Bool :=
  s.cmdWait h c pos [0, 1, 2, 3] { va := va, n := n, cls := cls, st := store }

/-! ## Blocks -/

/-- A word of a block body: from the block store, else fetched through the page tables. -/
inductive BodyWord where
  | ok (w : Word64)
  | miss (va : Nat)
  /-- it lies in host or peer memory, and the atom at a target is still to come -/
  | absent (t : Tgt)
  | bad (cause sub va : Nat)
deriving DecidableEq, Repr

/-- Word at an address for a hearth's block store. -/
def State.bodyWord (s : State) (h p va : Nat) : BodyWord :=
  match Map.find? (s.hearth h).bstore (p * 2 ^ 52 + va) with
  | some w => if (s.hearth h).badWords.contains (p * 2 ^ 52 + va) then .bad 0x0F 0 va else .ok w
  | none =>
    match s.reach h p va .read with
    | .ok t =>
      (match s.fetched h t 8 with
       | .ok v => .ok (BitVec.ofNat 64 v)
       | .absent t => .absent t
       | .bad c u => .bad c u va)
    | .miss => .miss va
    | .bad c u => .bad c u va

/-- The words of a body from an address, or the first that cannot be had. -/
def State.bodyWords (s : State) (h p : Nat) : Nat → Nat → List Word64 × Option BodyWord
  | _, 0 => ([], none)
  | va, n + 1 =>
    match s.bodyWord h p va with
    | .ok w => let (r, e) := s.bodyWords h p (va + 8) n; (w :: r, e)
    | e => ([], some e)

/-- What a lane word may access, by its opcode: its space and class are known before it issues, its addresses are not (R214,
R217, R220, R249, R252). Words on private memory meet no other queue. -/
def wordSpans (w : Word64) : List Span :=
  let f := laneFields w
  let any (st : Bool) : List Span := [{ va := 0, n := 2 ^ 64, cls := f.m.toNat % 4, st := st }]
  let op := f.op.toNat
  if 0x80 ≤ op ∧ op ≤ 0x85 then any false
  else if 0x86 ≤ op ∧ op ≤ 0x89 then any true
  else if op = 0x8A then [{ sp := .pad, va := 0, n := 2 ^ 22, cls := f.m.toNat % 4, st := false }]
  else if op = 0x8B then [{ sp := .pad, va := 0, n := 2 ^ 22, cls := f.m.toNat % 4, st := true }]
  else if op = 0x8C then [winSpan]
  else if 0xA0 ≤ op ∧ op ≤ 0xAC then any true
  else if op = 0xC0 then [bankSpan (f.d.toNat % 4) true, bstSpan false, padSpan false]
  else if op = 0xC1 then [bankSpan (f.d.toNat % 4) true]
  else if op = 0xC3 then [bankSpan (f.x.toNat % 4) true]
  else if op = 0xC2 then [bankSpan (f.x.toNat % 4) false]
  else if op = 0xC4 then [bankSpan (f.x.toNat % 4) false, padSpan true]
  else []

/-- The frames of a body that is fetched are accessed (R367). -/
def State.bodySeen (s : State) (h p va n : Nat) : State :=
  State.dropLines ((natsFrom 0 n).foldl (fun s i =>
    if (Map.find? (s.hearth h).bstore (p * 2 ^ 52 + va + 8 * i)).isSome then s
    else match s.reach h p (va + 8 * i) .read with | .ok t => s.touchTgt t | _ => s) s) h p

/-- Bytes of the block store: 256 KiB (R12). -/
def bstoreBytes : Nat := 262144

/-- What a block store without room for its `cap` bytes holds no longer: which entry leaves is free (notes/assumptions/15). -/
def Hearth.trimStore (tick cap : Nat) : Nat → Hearth → Hearth
  | 0, hh => hh
  | n + 1, hh =>
    if 8 * hh.bstore.length + 16 * hh.btab.length ≤ cap then hh
    else
      let i := Config.freeNat tick (100 + n) % (hh.bstore.length + hh.btab.length)
      Hearth.trimStore tick cap n (if i < hh.bstore.length then { hh with bstore := dropAt hh.bstore i }
        else { hh with btab := dropAt hh.btab (i - hh.bstore.length) })

/-- A line of structure 3: the L1's in bank 0, else the block store's (R446, R449; notes/assumptions/60). -/
def blockLine (loc : Nat) : Bool := loc / 256 % 256 != 0

/-- Change what the block store of a hearth holds, within its size less the lines out of service; a word that has left it and is fetched again
can be read (R12, R37, R450). -/
def State.fillStore (s : State) (h : Nat) (f : Hearth → Hearth) : State :=
  let out := s.linesOut 3 (fun l => l % 256 == h && blockLine l)
  s.modHearth h (fun hh => Hearth.trimStore s.tick (bstoreBytes - 128 * out) 4100
    (f { hh with badWords := if hh.badWords.isEmpty then [] else hh.badWords.filter (fun k => (Map.find? hh.bstore k).isSome) }))

/-- A word may access bytes of a range. -/
def wordClash (r : Span) (w : Word64) : Bool := (wordSpans w).any (fun t => t.clash r)

/-- A body may access bytes of a range: one that cannot be read yet may. -/
def State.bodyClash (s : State) (h p : Nat) (b : BlkTab) (r : Span) : Bool :=
  match s.bodyWords h p b.body b.len with
  | (ws, none) => ws.any (wordClash r)
  | _ => true

/-- The words of the running block that have still to issue may access bytes of a range: in the last pass those from the
present word on. -/
def State.blkClash (s : State) (h p : Nat) (b : Blk) (r : Span) : Bool :=
  if b.fin then false
  else if b.body.isEmpty then s.bodyClash h p b.tab r
  else (if b.n + b.tab.s ≤ b.k + 2 then b.body.drop b.w else b.body).any (wordClash r)

/-- What an outstanding operation of a group has still to access. -/
def LaneOp.spans (o : LaneOp) : List Span :=
  if o.done then []
  else
    match o.tile with
    | some (.mma ..) => [bankSpan o.bank true, bstSpan false, padSpan false]
    | some (.mscat ..) => [bankSpan o.bank false, padSpan true]
    | some _ => [bankSpan o.bank true]
    | none =>
      let at' (st : Bool) : List Span :=
        (o.acc.filter (fun a => !a.done)).map (fun a => { va := a.va, n := o.width, cls := o.acls, st := st })
      match o.kind with
      | .load _ => at' false
      | .store => at' true
      | .atomic _ => at' true
      | .stx => [winSpan]
      | .priv _ => []

/-- Cycles for which a group must have stood at a word before accesses issued after its blocks pass words that have not
issued (R52, notes/assumptions/39). -/
def standTime : Nat := 2 ^ 16

/-- An earlier-issued stream command is unfinished or still to be decoded. -/
def State.streamBefore (s : State) (h c pos : Nat) : Bool :=
  let q := s.eng (qkey h c 2)
  q.words.any (fun w => decide (w.ipos < pos))
    || (match q.fetch with | some (_, _, _, ip) => decide (ip < pos) | none => false)
    || q.cmds.any (fun (_, m) => !m.done && !m.dead && decide (m.ipos < pos))

/-- The group stands at a word that may need a later access of its task in order to go on: at a full PRQ; at an empty iq or a
full oq that no earlier stream serves; or for a long time (R52). -/
def State.stands (s : State) (h c : Nat) (g : Group) : Bool :=
  match g.wait with
  | some w =>
    (w.kind == .other && (w.b == 0x07
      || ((w.b == 0x05 || w.b == 0x06) && (match g.blk with | some b => !s.streamBefore h c b.pos | none => false))))
    || decide (w.since + standTime ≤ s.gcc)
  | none => false

/-- An access of a task at an issue position must wait for an earlier block: for its operations that are outstanding, and for
its words that have not issued (R68). -/
def State.blockWait (s : State) (h c pos : Nat) (r : Span) : Bool :=
  let x := s.ctx (ckey h c)
  let g := s.group (ckey h c)
  g.ops.any (fun o => decide (o.pos < pos) && o.spans.any (fun t => s.clash h x.part t r))
    || (!s.stands h c g
      && ((match g.blk with
           | some b => decide (b.pos < pos) && b.phase.isNone && s.blkClash h x.part b r
           | none => false)
        || x.bq.any (fun e => bitsOf e.bits.toNat 127 124 == 0 && decide (e.pos < pos) && e.phase.isNone && bitsOf e.bits.toNat 63 32 != 0
          && s.bodyClash h x.part e.tab r)))

/-- An access of an engine command must wait for an earlier-issued command of another engine of its task, or for an earlier
block (R68). A copy record follows no other queue. -/
def State.aliasCmd (s : State) (q : Nat) (c : Cmd) (r : Span) : Bool :=
  decide (q < 4096) && (s.cmdWait (q / 16) (q / 4 % 4) c.ipos ((natsFrom 0 4).filter (fun e => e != q % 4)) r
    || s.blockWait (q / 16) (q / 4 % 4) c.ipos r)

end Sys2Proof.Machine
end

