-- ==== Sys2Proof/Machine/Control.lean ====
section
/-! DEFINITION. What the control instructions share: the running thread, retiring, waiting, memory access from the CC, releases,
pushing to the block queue, named barriers and channels (spec/07 R151-R158; spec/03 R65-R67). -/

namespace Sys2Proof.Machine

/-! ## The running thread -/

/-- Key of the thread that executes. -/
def State.tk (s : State) : Nat := tkey s.focus.h s.focus.t
/-- The thread that executes. -/
def State.th (s : State) : Thread := s.thread s.tk
/-- Its context's key. -/
def State.xk (s : State) : Nat := ckey s.focus.h s.th.ctx
/-- Its context. -/
def State.cx (s : State) : Ctx := s.ctx s.xk
/-- Change the thread that executes. -/
def State.onTh (s : State) (f : Thread → Thread) : State := s.modThread s.tk f
/-- Change its context. -/
def State.onCx (s : State) (f : Ctx → Ctx) : State := s.modCtx s.xk f
/-- A register of the executing thread. -/
def State.xr (s : State) (r : XReg) : Word64 := s.th.xr r
/-- Write a register of the executing thread. -/
def State.setXr (s : State) (r : XReg) (v : Word64) : State := s.onTh (fun th => th.setX r v)

/-- Retire the instruction: the pc moves to `pc'`, the instruction counts, its waits and stages end (R151, R158). -/
def State.retireTo (s : State) (pc' : Word64) : State :=
  s.onTh (fun th => { th with pc := pc', instret := th.instret + 1, wait := none, part := 0, hold := [], suppress := [], stale := false, since := 0, held := false })

/-- The address of the next instruction. -/
def State.nextPc (s : State) : Word64 := s.th.pc + BitVec.ofNat 64 s.focus.len

/-- Retire to the next instruction. -/
def State.retire (s : State) : State := s.retireTo s.nextPc

/-- Wait at the instruction, noting when the wait began (R158, R418). -/
def State.waiting (s : State) (k : WaitK) : State :=
  s.onTh (fun th => match th.wait with
    | some _ => th
    | none => { th with wait := some { kind := k, since := s.gcc } })

/-- Finish an instruction: retire with an optional result, stay at it, or trap with no effect but the record (R158). -/
def finishX (r : XReg) (a : Ans Word64) : Res :=
  match a with
  | .ok v s => .next (s.setXr r v).retire
  | .wait s => .next s
  | .trap i s => .next (s.trapCc s.focus.h s.focus.t i)

/-- Finish an instruction without a result register. -/
def finish (a : Ans Unit) : Res :=
  match a with
  | .ok _ s => .next s.retire
  | .wait s => .next s
  | .trap i s => .next (s.trapCc s.focus.h s.focus.t i)

/-- Finish an instruction that has moved the pc itself. -/
def finishAt (a : Ans Unit) : Res :=
  match a with
  | .ok _ s => .next s
  | .wait s => .next s
  | .trap i s => .next (s.trapCc s.focus.h s.focus.t i)

/-- Run a stage of an instruction once: a stage already made is passed over. -/
def stage (n : Nat) (f : State → Ans Unit) (s : State) : Ans Unit :=
  if n < s.th.part then .ok () s
  else (f s).bind (fun _ s => .ok () (s.onTh (fun th => { th with part := n + 1 })))

/-- Run a loading stage once: its bytes are appended to the thread's hold. -/
def stageB (n : Nat) (f : State → Ans (List Byte)) (s : State) : Ans Unit :=
  if n < s.th.part then .ok () s
  else (f s).bind (fun d s => .ok () (s.onTh (fun th => { th with part := n + 1, hold := th.hold ++ d })))

/-! ## Memory access from the CC (R54, R55, R152, R153) -/

/-- The port of the executing thread. -/
def State.ccPort (s : State) : Port :=
  { h := s.focus.h, p := s.cx.part, c := s.th.ctx, who := .thread s.focus.h s.focus.t, pts := s.th.pts, x := s.th.xact }

/-- Keep a port's timestamp and stage in the thread. -/
def State.setCcPort (s : State) (a : Port) : State := s.onTh (fun th => { th with pts := a.pts, xact := a.x })

/-- A trap with a cause, a subcause and an address in word 8. -/
def trapVa (c u va : Nat) : Trap := { cause := c, sub := u, d8 := va }

/-- The number of the first WATCH comparator that is not suppressed and that an access of a context matches (R333). -/
def State.watchHit (s : State) (p h c va n : Nat) (ld st : Bool) (sup : List Nat) : Option Nat :=
  (natsFrom 0 2).find? (fun j => !sup.contains (24 + j) &&
    let w0 := s.dbg p h (0x80 + 0x10 * j)
    let base := bitsOf w0 51 0
    let len := bitsOf (s.dbg p h (0x88 + 0x10 * j)) 51 0
    bitOf w0 63 && bitOf w0 (59 + c) && ((ld && bitOf w0 58) || (st && bitOf w0 57))
      && decide (va < base + len) && decide (base < va + n))

/-- What an access that is under way was translated to. -/
def Xact.bound (x : Xact) : Option Tgt := if x.out || x.got.isSome then x.tgt else none

/-- Translate an address for the executing thread: a miss asks for a walk and waits, a failed walk traps (R153, R354). An access that
is under way keeps its target. -/
def ccXlate (va : Nat) (acc : Acc) (s : State) : Ans Tgt :=
  let th := s.th
  match th.xf, th.xact.bound with
  | some f, _ => .trap { cause := f.cause, sub := f.sub, d8 := f.va } s
  | none, some t => .ok t s
  | none, none =>
    if th.fault.isSome then .wait s
    else
      match s.reach s.focus.h s.cx.part va acc with
      | .ok t => .ok t s
      | .bad c u => .trap (trapVa c u va) s
      | .miss =>
        if th.walking then .wait s
        else .wait ((s.askWalk s.focus.h s.cx.part va acc (.thread s.focus.h s.focus.t)).onTh (fun th => { th with walking := true }))

/-- Checks of an access before it is made: comparators of R333. One that is under way has passed them. -/
def ccWatch (va n : Nat) (ld st : Bool) (s : State) : Ans Unit :=
  if s.th.xact.out || s.th.xact.got.isSome then .ok () s
  else match s.watchHit s.cx.part s.focus.h s.th.ctx va n ld st s.th.suppress with
  | some j => .trap { cause := 0x17, sub := 3, d8 := j } s
  | none => .ok () s

/-- An access misaligned to its size (R55). -/
def misaligned (va n : Nat) : Bool := va % n != 0
/-- A plain access that crosses a 16-byte unit (R55). -/
def crosses16 (va n : Nat) : Bool := decide (16 < va % 16 + n)

/-- An access of the control thread behind an earlier-issued engine command or block of its task that orders it waits (R68). -/
def ccAlias (va n cls : Nat) (store : Bool) (s : State) : Ans Unit :=
  let r : Span := { va := va, n := n, cls := cls, st := store }
  if (s.th.xact.out || s.th.xact.got.isSome) || !(s.cmdWait s.focus.h s.th.ctx (s.cx.pos + 1) [0, 1, 2, 3] r
    || s.blockWait s.focus.h s.th.ctx (s.cx.pos + 1) r) then .ok () s else .wait s

/-- An access to an atom waits for the thread's earlier posted store to it (R79). -/
def ccFollow (t : Tgt) (s : State) : Ans Unit := if s.postedTo s.focus.h s.focus.t t then .wait s else .ok () s

/-- Load `n` bytes from the CC at a scope and class; `nat` asks for natural alignment. An address with bits [63:52] set is refused for
those, misaligned or not (DESIGN CHOICE, notes/assumptions/87: R153 gives no order). -/
def ccLoad (va n scope cls : Nat) (nat : Bool) (s : State) : Ans (List Byte) :=
  if va < 2 ^ 52 && (if nat then misaligned va n else crosses16 va n) then .trap (trapVa 0x0D 0 va) s
  else
    (ccXlate va .read s).bind fun t s =>
    (ccWatch va n true false s).bind fun _ s =>
    (ccAlias va n cls false s).bind fun _ s =>
    (ccFollow t s).bind fun _ s =>
      match s.accLoad s.ccPort t n va scope cls with
      | (.done d _, s, a) => .ok d (s.setCcPort a)
      | (.wait, s, a) => .wait (s.setCcPort a)
      | (.bad c u, s, a) => .trap (trapVa c u va) (s.setCcPort a)

/-- Host and peer memory, to which a control thread's stores are posted: the instruction retires when the store is on its way (R79,
R436; notes/assumptions/86). -/
def Tgt.posts : Tgt → Bool
  | .host .. => true
  | .peer .. => true
  | _ => false

/-- Post a store of the executing thread. -/
def ccPost (t : Tgt) (bs : List Byte) (va scope cls : Nat) (s : State) : Ans Unit :=
  let (a, go) := s.accTick s.ccPort t
  if !go then .wait (s.setCcPort a)
  else
    let w : Port := { a with who := .post s.focus.h s.focus.t va, x := {} }
    if t.external then
      let (s, w) := s.sendExt w { tgt := t, va := va, kind := 1, len := bs.length, bytes := bs }
      if w.x.out then .ok () (s.setCcPort { a with x := {} }) else .wait (s.setCcPort a)
    else
      let s := s.l1Replace a.h t bs.length
      let (s, _) := s.send w { mkReq w (s.epochOf w) .wr t (t.scopeOf scope) cls with bytes := bs.map some }
      .ok () (s.setCcPort { a with x := {} })

/-- Store bytes from the CC at a scope and class. -/
def ccStore (va : Nat) (bs : List Byte) (scope cls : Nat) (nat : Bool) (s : State) : Ans Unit :=
  let n := bs.length
  if va < 2 ^ 52 && (if nat then misaligned va n else crosses16 va n) then .trap (trapVa 0x0D 0 va) s
  else
    (ccXlate va .write s).bind fun t s =>
    (ccWatch va n false true s).bind fun _ s =>
    (ccAlias va n cls true s).bind fun _ s =>
    (ccFollow t s).bind fun _ s =>
      if t.posts then ccPost t bs va scope cls s
      else
        match s.accStore s.ccPort t bs va scope cls with
        | (.done _ _, s, a) => .ok () (s.setCcPort a)
        | (.wait, s, a) => .wait (s.setCcPort a)
        | (.bad c u, s, a) => .trap (trapVa c u va) (s.setCcPort a)

/-- An atomic from the CC on a unit of `w` bytes (R71, R152). Answers the old value. -/
def ccAtomic (va : Nat) (op : AtOp) (w x y scope cls : Nat) (s : State) : Ans Nat :=
  if va < 2 ^ 52 && misaligned va w then .trap (trapVa 0x0D 0 va) s
  else
    (ccXlate va .atomic s).bind fun t s =>
    (ccWatch va w true true s).bind fun _ s =>
    (ccAlias va w cls true s).bind fun _ s =>
    (ccFollow t s).bind fun _ s =>
      match s.accAtomic (fun _ a => a) s.ccPort t op w x y va scope cls with
      | (.done _ m, s, a) => .ok m (s.setCcPort a)
      | (.wait, s, a) => .wait (s.setCcPort a)
      | (.bad c u, s, a) => .trap (trapVa c u va) (s.setCcPort a)

/-! ## Releases and acquires (R65, R67, R79, R379) -/

/-- The report of the refusal of an earlier store to host or peer memory (R436; notes/assumptions/86). -/
def ccOwed (s : State) : Ans Unit :=
  match s.th.owed with
  | some f => .trap { cause := f.cause, sub := f.sub, d8 := f.va } (s.onTh (fun th => { th with owed := none }))
  | none => .ok () s

/-- Acquire: the thread's timestamp follows those of the agents it synchronises with (R65, R66). -/
def State.acquire (s : State) (pts : Nat) : State := s.onTh (fun th => { th with pts := max th.pts pts })

/-- The release of a control instruction at a scope, as stages n and n + 1: at D and S scope the H-scope stores go to their
homes and are awaited, and the thread's timestamp follows theirs; at S scope host and peer accesses are acknowledged and local GCC reaches pts + 8. -/
def ccRelease (n scope : Nat) (s : State) : Ans Unit :=
  if scope = 0 then .ok () s
  else
    (stage n (fun s => .ok () (s.releaseFlush s.focus.h)) s).bind fun _ s =>
    if n + 1 < s.th.part then .ok () s
    else
      if !(s.l1Hearths s.focus.h).all s.flushed then .wait s
      else
      let s := s.acquire (s.wbStamp s.focus.h)
      let quiet := scope != 2 || (s.extQuiet s.xk && decide (s.th.pts + 8 ≤ s.localGcc s.focus.h))
      if quiet then (if scope = 2 then ccOwed s else .ok () s).bind fun _ s => stage (n + 1) (fun s => .ok () s) s else .wait s

/-- The cycle, and one, in which the instruction at hand was first tried. -/
def State.triedAt (s : State) : Nat := if s.th.since = 0 then s.gcc + 1 else s.th.since

/-- ybbase and yscope as the instruction at hand has them: those of its issue (R154). -/
def State.ybbaseOf (s : State) : Word64 := if s.th.held then s.th.yb else s.cx.ybbase
def State.yscopeNow (s : State) : Word64 := if s.th.held then s.th.ys else s.cx.yscope

/-- The largest timestamp of a task's agents: its threads, its lane group, its engine queues, and its hearth's write-backs. -/
def State.taskPts (s : State) (h c : Nat) : Nat :=
  let a := ((s.liveThreads h c).map (fun t => (s.thread (tkey h t)).pts)).foldl max (s.group (ckey h c)).pts
  ((natsFrom 0 4).map (fun e => (s.eng (qkey h c e)).pts)).foldl max (max a (s.wbStamp h))

/-- What leads to a dispatch waits until the clock has reached its timestamp, so that the new task's, set to the local GCC, follows it
(R65, R375; notes/assumptions/78). -/
def ccSettled (pts : Nat) (s : State) : Ans Unit :=
  if s.localGcc s.focus.h < pts then .wait (s.waiting .other) else .ok () s

/-- Every store that the task has posted has been acknowledged. -/
def State.postQuiet (s : State) (k : Nat) : Bool :=
  !s.exts.any (fun e => s.postedBy k e.who) && !s.reqs.any (fun r => s.postedBy k r.who) && !s.reps.any (fun r => s.postedBy k r.who)

/-! ## Queue state -/

/-- The lane group of the executing thread's context. -/
def State.gr (s : State) : Group := s.group s.xk

/-- The group has taken every entry and its last block has finished (R164). -/
def State.drained (s : State) (k : Nat) : Bool :=
  let g := s.group k
  (s.ctx k).bq.isEmpty && g.blk.isNone && g.pend.isEmpty && g.prets.isEmpty && g.winTo.isNone

/-- An engine queue holds nothing that is to run: no word, no script being fetched, no item (R50 step 2). -/
def EngQ.quiet (e : EngQ) : Bool := e.words.isEmpty && e.fetch.isNone && e.items.isEmpty && e.cmds.all (fun (_, c) => c.done)

/-- Every engine command of a task has completed. -/
def State.enginesQuiet (s : State) (h c : Nat) : Bool := (natsFrom 0 4).all (fun e => (s.eng (qkey h c e)).quiet)

/-- Push an entry to the BQ of the executing context: the caller has seen room (R33). -/
def State.pushBq (s : State) (body : Nat) (e : BqE) : State :=
  s.onCx (fun x => { x with
    bq := x.bq ++ [{ e with bits := BitVec.ofNat 128 (body + x.seq * 2 ^ 108), pos := x.pos + 1 }]
    seq := (x.seq + 1) % 2 ^ 16
    pos := x.pos + 1 })

/-- Bits 101:96 of an entry: the pusher's slot and generation (R32). -/
def State.ownerBits (s : State) : Nat :=
  let sl := s.th.slot
  (Map.get 0 s.cx.gens sl) * 2 ^ 98 + sl * 2 ^ 96

/-! ## Named barriers (R180, R181) -/

/-- Wake the waiters of a barrier with a result. -/
def State.nbWake (s : State) (ws : List Who) (res : Nat) : State :=
  ws.foldl (fun s w => match w with
    | .thread h t => s.modThread (tkey h t) (fun th => { th with wait := some { kind := .nbwait, since := s.gcc, a := 1, b := res } })
    | .group h g => s.modGroup (ckey h g) (fun gr => { gr with wait := some { kind := .nbwait, since := s.gcc, a := 1, b := res } })
    | _ => s) s

/-- One arrival on an armed barrier: the E-th releases the instance (R180). -/
def State.nbArrive (s : State) (k n : Nat) : State :=
  let b := Map.get {} (s.ctx k).nb n
  let set (f : Nb → Nb) (s : State) : State := s.modCtx k (fun x => { x with nb := Map.mod {} x.nb n f })
  if b.st != .armed then s
  else if b.a + 1 = b.e then
    (set (fun b => { b with a := 0, i := (b.i + 1) % 2 ^ 32, waiters := [] }) s).nbWake b.waiters 0
  else set (fun b => { b with a := b.a + 1 }) s

/-! ## Channels (R103-R110) -/

/-- The fixed cost of a channel-table entry (R105). -/
def chanCost (n : Nat) : Nat := if n < 320 then 24 else 64

/-- The entry that a barrier instruction names on a die (R103, R404). -/
def barrierEntry (d v : Nat) : Option Nat :=
  let n := v % 128
  if n < 64 then some (64 * d + n) else if n < 96 then some (320 + (n - 64)) else none

/-- The entry that a broadcast or reduction instruction names on a die (R103, R404). -/
def bcastEntry (d v : Nat) : Option Nat :=
  let n := v % 128
  if n < 16 then some (256 + 16 * d + n) else if n < 48 then some (352 + (n - 16)) else none

/-- Every member has arrived in the current instance. -/
def Chan.complete (c : Chan) : Bool := c.cfg.members.all (fun m => c.here.contains m)

/-- Apply the release of a barrier instance once t_last + C has come (R106): early arrivals count in the next. The release of a PHASE
channel opens a phase, beside one that is still open: each lasts its own LPH (R113; DESIGN CHOICE, notes/assumptions/88); it does not bind a
member whose task has ended since its arrival (R112). That of an EXCH channel is due to swap the halves two cycles later (R108). -/
def Chan.settleBarrier (c : Chan) (n gcc : Nat) : Chan :=
  if c.part.isSome && c.complete && !c.here.isEmpty && decide (c.last + chanCost n ≤ gcc) then
    let rel := c.last + chanCost n
    { c with inst := c.inst + 1, here := c.early, early := [], oldHere := c.oldEarly, oldEarly := [], last := c.lastE, relAt := rel,
             phases := if c.cfg.kind = 3 then c.phases ++ [{ t0 := rel, absent := c.oldHere }] else c.phases,
             swapAt := if c.cfg.kind = 2 then c.swapAt ++ [rel + 2] else c.swapAt }
  else c

/-- A channel has an open phase (R113). -/
def Chan.inPhase (c : Chan) : Bool := !c.phases.isEmpty

/-- Change the phase of a channel that a release opened. -/
def Chan.onPhase (c : Chan) (t0 : Nat) (f : Phase → Phase) : Chan :=
  { c with phases := c.phases.map (fun p => if p.t0 = t0 then f p else p) }

/-- The first trap of a phase sends an abort, which arrives after the channel's cost (R117). -/
def Chan.sendAbort (c : Chan) (n t0 gcc : Nat) : Chan :=
  c.onPhase t0 (fun p => { p with abort := some (p.abort.getD (gcc + chanCost n)) })

/-- The task of a member ends: its standing arrivals stay and bind no later task (R112). -/
def Chan.orphan (c : Chan) (k : Nat) : Chan :=
  { c with oldHere := if c.here.contains k then c.oldHere ++ [k] else c.oldHere
           oldEarly := if c.early.contains k then c.oldEarly ++ [k] else c.oldEarly
           phases := c.phases.map (fun p => { p with absent := p.absent ++ [k] }) }

/-- The contribution fold of R110: none when the members used different instructions. -/
def reduceResult (l : List Contrib) : Option Int :=
  match l with
  | [] => none
  | c :: r =>
    if r.all (fun d => d.op == c.op) then
      (if c.op = 0 then some (sats ((c :: r).foldl (fun a d => a + d.v) 0) 32)
       else if c.op = 1 then some (r.foldl (fun a d => min a d.v) c.v)
       else some (r.foldl (fun a d => max a d.v) c.v))
    else none

/-- Apply the release of a reduction instance once t_last + C has come (R110). -/
def Chan.settleReduce (c : Chan) (n gcc : Nat) : Chan :=
  if c.part.isSome && !c.contrib.isEmpty && c.cfg.members.all (fun m => (Map.find? c.contrib m).isSome)
      && decide (c.last + chanCost n ≤ gcc) then
    { c with inst := c.inst + 1, contrib := c.contribE, contribE := [], last := c.lastE, relAt := c.last + chanCost n,
             results := (c.results ++ [(c.inst, reduceResult (c.contrib.map (·.2)))]).reverse.take 4 |>.reverse }
  else c

/-- Exchange the halves of a hearth's window (R76, R77). -/
def State.swapHalves (s : State) (k : Nat) : State :=
  s.modHearth (k / 4) (fun hh => { hh with xwin := hh.xwin.map (fun w => { w with swapped := !w.swapped }) })

/-- Bring a channel to the present cycle: its release, and for an EXCH channel the oldest swap that is due (R106, R108). -/
def State.settleChan (s : State) (n : Nat) : State :=
  let c := s.chan n
  let c' := if c.cfg.kind = 5 then c.settleReduce n s.gcc else c.settleBarrier n s.gcc
  match c'.swapAt with
  | t :: r =>
    if t ≤ s.gcc then c'.cfg.members.foldl State.swapHalves (s.modChan n (fun _ => { c' with swaps := c'.swaps + 1, swapAt := r }))
    else if c' = c then s else s.modChan n (fun _ => c')
  | [] => if c' = c then s else s.modChan n (fun _ => c')

/-- The channel that an instruction of the executing context names, checked under R103 and R104: configured for its
partition, the context a member, the kind admitted. -/
def ccChan (entry : Option Nat) (kinds : List Nat) (s : State) : Ans Nat :=
  match entry with
  | none => .trap { cause := 0x0C, sub := 4 } s
  | some n =>
    let s := s.settleChan n
    let c := s.chan n
    if c.part = some s.cx.part && c.cfg.members.contains s.xk && kinds.contains c.cfg.kind then .ok n s
    else .trap { cause := 0x0C, sub := 4 } s

/-- Send an arrival of a context on a barrier channel (R106): `none` when the member already holds an early arrival. -/
def Chan.arrive (c : Chan) (k gcc pts : Nat) : Option Chan :=
  if !c.here.contains k then
    some { c with here := c.here ++ [k], last := gcc, arr := Map.put c.arr k c.inst, pts := max c.pts pts }
  else if !c.early.contains k then
    some { c with early := c.early ++ [k], lastE := gcc, arr := Map.put c.arr k (c.inst + 1), pts := max c.pts pts }
  else none

end Sys2Proof.Machine
end

