-- ==== Sys2Proof/Machine/ControlRv.lean ====
section
/-! DEFINITION. The ratified base on the CC (spec/07 R151-R156): register instructions, loads and stores, LR and SC, AMOs,
fences, branches, traps to the driver, and writes of ybbase, yscope and yxwin. -/

namespace Sys2Proof.Machine

/-! ## Register instructions (R151) -/

/-- Sign-extend the low 32 bits. -/
def sext32 (v : Word64) : Word64 := (lo32 v).signExtend 64

/-- Count of leading zeros of `n` bits. -/
def clzNat (x n : Nat) : Nat := if x = 0 then n else n - 1 - Nat.log2 x

/-- Count of trailing zeros, from bit i on with `fuel` bits left. -/
def ctzFrom (x : Nat) : Nat → Nat → Nat
  | i, 0 => i
  | i, f + 1 => if x.testBit i then i else ctzFrom x (i + 1) f

/-- Count of ones among the low bits. -/
def popNat (x : Nat) : Nat → Nat
  | 0 => 0
  | n + 1 => boolNat (x.testBit n) + popNat x n

/-- Register-immediate operations of RV64I. -/
def aluI (op : AluI) (a : Word64) (imm : BitVec 12) : Word64 :=
  let i : Word64 := imm.signExtend 64
  match op with
  | .addi => a + i
  | .slti => if a.slt i then 1 else 0
  | .sltiu => if a.ult i then 1 else 0
  | .xori => a ^^^ i
  | .ori => a ||| i
  | .andi => a &&& i
  | .addiw => sext32 (a + i)

/-- Shift-immediate operations of RV64I, Zba and Zbb. -/
def aluSh (op : AluSh) (a : Word64) (sh : BitVec 6) : Word64 :=
  let n := sh.toNat
  match op with
  | .slli => a <<< n
  | .srli => a >>> n
  | .srai => a.sshiftRight n
  | .rori => a.rotateRight n
  | .slliUw => (lo32 a).zeroExtend 64 <<< n
  | .slliw => (lo32 a <<< n).signExtend 64
  | .srliw => (lo32 a >>> n).signExtend 64
  | .sraiw => ((lo32 a).sshiftRight n).signExtend 64
  | .roriw => ((lo32 a).rotateRight n).signExtend 64

/-- Signed division of the M extension at a width: by zero gives all ones, the overflow case wraps. -/
def divS {w : Nat} (a b : BitVec w) : BitVec w :=
  if b = 0 then BitVec.allOnes w else BitVec.ofInt w (a.toInt.tdiv b.toInt)
/-- Signed remainder of the M extension. -/
def remS {w : Nat} (a b : BitVec w) : BitVec w :=
  if b = 0 then a else BitVec.ofInt w (a.toInt.tmod b.toInt)
/-- Unsigned division of the M extension. -/
def divU {w : Nat} (a b : BitVec w) : BitVec w :=
  if b = 0 then BitVec.allOnes w else BitVec.ofNat w (a.toNat / b.toNat)
/-- Unsigned remainder of the M extension. -/
def remU {w : Nat} (a b : BitVec w) : BitVec w :=
  if b = 0 then a else BitVec.ofNat w (a.toNat % b.toNat)

/-- Register-register operations of RV64I, M, Zba and Zbb. -/
def aluR (op : AluR) (a b : Word64) : Word64 :=
  let n6 := b.toNat % 64
  let n5 := b.toNat % 32
  let a32 := lo32 a
  let b32 := lo32 b
  let uw : Word64 := a32.zeroExtend 64
  match op with
  | .add => a + b
  | .sub => a - b
  | .sll => a <<< n6
  | .slt => if a.slt b then 1 else 0
  | .sltu => if a.ult b then 1 else 0
  | .xor => a ^^^ b
  | .srl => a >>> n6
  | .sra => a.sshiftRight n6
  | .or => a ||| b
  | .and => a &&& b
  | .addw => (a32 + b32).signExtend 64
  | .subw => (a32 - b32).signExtend 64
  | .sllw => (a32 <<< n5).signExtend 64
  | .srlw => (a32 >>> n5).signExtend 64
  | .sraw => (a32.sshiftRight n5).signExtend 64
  | .mul => a * b
  | .mulh => BitVec.ofInt 64 ((a.toInt * b.toInt) / 2 ^ 64)
  | .mulhsu => BitVec.ofInt 64 ((a.toInt * (b.toNat : Int)) / 2 ^ 64)
  | .mulhu => BitVec.ofNat 64 (a.toNat * b.toNat / 2 ^ 64)
  | .div => divS a b
  | .divu => divU a b
  | .rem => remS a b
  | .remu => remU a b
  | .mulw => (a32 * b32).signExtend 64
  | .divw => (divS a32 b32).signExtend 64
  | .divuw => (divU a32 b32).signExtend 64
  | .remw => (remS a32 b32).signExtend 64
  | .remuw => (remU a32 b32).signExtend 64
  | .addUw => uw + b
  | .sh1add => (a <<< 1) + b
  | .sh2add => (a <<< 2) + b
  | .sh3add => (a <<< 3) + b
  | .sh1addUw => (uw <<< 1) + b
  | .sh2addUw => (uw <<< 2) + b
  | .sh3addUw => (uw <<< 3) + b
  | .andn => a &&& ~~~b
  | .orn => a ||| ~~~b
  | .xnor => ~~~(a ^^^ b)
  | .max => if a.slt b then b else a
  | .maxu => if a.ult b then b else a
  | .min => if b.slt a then b else a
  | .minu => if b.ult a then b else a
  | .rol => a.rotateLeft n6
  | .ror => a.rotateRight n6
  | .rolw => (a32.rotateLeft n5).signExtend 64
  | .rorw => (a32.rotateRight n5).signExtend 64

/-- One-source operations of Zbb. -/
def aluU (op : AluU) (a : Word64) : Word64 :=
  match op with
  | .clz => BitVec.ofNat 64 (clzNat a.toNat 64)
  | .ctz => BitVec.ofNat 64 (ctzFrom a.toNat 0 64)
  | .cpop => BitVec.ofNat 64 (popNat a.toNat 64)
  | .clzw => BitVec.ofNat 64 (clzNat (lo32 a).toNat 32)
  | .ctzw => BitVec.ofNat 64 (ctzFrom (lo32 a).toNat 0 32)
  | .cpopw => BitVec.ofNat 64 (popNat (lo32 a).toNat 32)
  | .sextb => (a.truncate 8).signExtend 64
  | .sexth => (a.truncate 16).signExtend 64
  | .zexth => (a.truncate 16).zeroExtend 64
  | .orcb => BitVec.ofNat 64 (natOfBytes ((bytesOf a.toNat 8).map (fun b => if b = 0 then 0 else 0xFF)))
  | .rev8 => BitVec.ofNat 64 (natOfBytes (bytesOf a.toNat 8).reverse)

/-- The value that a CSR reads (R151, R154). -/
def State.csrValue (s : State) (c : Csr) : Word64 :=
  let h := s.focus.h
  let th := s.th
  let x := s.cx
  match c with
  | .ybbase => x.ybbase
  | .yscope => x.yscope
  | .yxwin => x.yxwin
  | .yfuse => if s.fused h then 1 else 0
  | .ygcc => BitVec.ofNat 64 (s.localGcc h)
  | .time => BitVec.ofNat 64 (s.localGcc h)
  | .yhearth => BitVec.ofNat 64 ((h / 48) * 2 ^ 10 + th.ctx * 2 ^ 8 + h)
  | .ygrp => BitVec.ofNat 64 (th.slot * 4 + th.ctx)
  | .ypart => BitVec.ofNat 64 x.part
  | .ytask => BitVec.ofNat 64 (x.task.aff * 2 ^ 16 + x.task.kind * 2 ^ 8 + x.task.prio)
  | .cycle => BitVec.ofNat 64 (s.cycle h)
  | .instret => BitVec.ofNat 64 th.instret

/-- RV_INTEGER_INSTRUCTION (R151): a register instruction, JAL, or a CSR read retires. -/
def execRvIntegerInstruction (op : RvInt) (s : State) : Res :=
  match op with
  | .lui r u => .next (s.setXr r ((u ++ 0#12 : BitVec 32).signExtend 64)).retire
  | .auipc r u => .next (s.setXr r (s.th.pc + (u ++ 0#12 : BitVec 32).signExtend 64)).retire
  | .jal r o => .next ((s.setXr r s.nextPc).retireTo (s.th.pc + ((o ++ 0#1 : BitVec 21).signExtend 64)))
  | .opI o r r1 u => .next (s.setXr r (aluI o (s.xr r1) u)).retire
  | .opSh o r r1 sh => .next (s.setXr r (aluSh o (s.xr r1) sh)).retire
  | .opR o r r1 r2 => .next (s.setXr r (aluR o (s.xr r1) (s.xr r2))).retire
  | .opU o r r1 => .next (s.setXr r (aluU o (s.xr r1))).retire
  | .csrRead r c => .next (s.setXr r (s.csrValue c)).retire

/-! ## Branches (R338, R342) -/

/-- Whether a branch is taken. -/
def brTaken (c : BrCond) (a b : Word64) : Bool :=
  match c with
  | .eq => a == b
  | .ne => a != b
  | .lt => a.slt b
  | .ge => !a.slt b
  | .ltu => a.ult b
  | .geu => !a.ult b

/-- RV_BRANCH: a taken branch folds its target into the path signature; either way one BR bit is pending (R338, R342). -/
def execRvBranch (c : BrCond) (rs1 rs2 : XReg) (off : BitVec 12) (s : State) : Res :=
  let taken := brTaken c (s.xr rs1) (s.xr rs2)
  let pc := s.th.pc
  let target := pc + (off ++ 0#1 : BitVec 13).signExtend 64
  let s := s.brBit s.focus.h s.th.ctx s.focus.t taken
  if taken then .next ((s.foldThread s.cx.part s.tk pc.toNat target.toNat).retireTo target)
  else .next s.retire

/-- JALR: rd ← the next pc, pc ← (rs1 + imm) with bit 0 clear; the target is traced and folded (R338, R342). -/
def execJalr (rd rs1 : XReg) (imm : BitVec 12) (s : State) : Res :=
  let pc := s.th.pc
  let target := (s.xr rs1 + imm.signExtend 64) &&& ~~~1#64
  let link := s.nextPc
  let s := s.emit s.focus.h s.th.ctx s.focus.t 3 0 [target &&& 0xFFFFFFFFFFFFF#64]
  let s := s.foldThread s.cx.part s.tk pc.toNat target.toNat
  .next ((s.setXr rd link).retireTo target)

/-! ## Memory (R152) -/

/-- Bytes of a width. -/
def memWBytes : MemW → Nat
  | .b => 1 | .h => 2 | .w => 4 | .d => 8

/-- Extend loaded bytes to 64 bits. -/
def loadExt (d : List Byte) (n : Nat) (uns : Bool) : Word64 :=
  let v := natOfBytes d
  if uns then BitVec.ofNat 64 v else BitVec.ofInt 64 (BitVec.ofNat (8 * n) v).toInt

/-- The scope and class of yscope (R152, R154). -/
def State.yscopeOf (s : State) : Nat × Nat := (s.yscopeNow.toNat % 4, s.yscopeNow.toNat / 4 % 4)

/-- CC_LOAD_STORE: a plain load or store at the scope and class of yscope (R152). -/
def execCcLoadStore (op : RvMem) (s : State) : Res :=
  let (sc, cl) := s.yscopeOf
  match op with
  | .load wd uns rd rs1 imm =>
    let va := (s.xr rs1 + imm.signExtend 64).toNat
    finishX rd ((ccLoad va (memWBytes wd) sc cl false s).bind fun d s => .ok (loadExt d (memWBytes wd) uns) s)
  | .store wd rs1 rs2 imm =>
    let va := (s.xr rs1 + imm.signExtend 64).toNat
    finish (ccStore va (bytesOf (s.xr rs2).toNat (memWBytes wd)) sc cl false s)

/-- The release side of an atomic at yscope.SCOPE, or at S scope where its page is host or peer memory (R59, R152). -/
def ccRl (rl : Bool) (va : Nat) (acc : Acc) (sc : Nat) (s : State) : Ans Unit :=
  if rl then (ccXlate va acc s).bind fun t s => ccRelease 0 (t.scopeOf sc) s else .ok () s

/-- Sign-extend a unit's value to 64 bits. -/
def amoExt (m w : Nat) : Word64 := BitVec.ofInt 64 (BitVec.ofNat (8 * w) m).toInt

/-- The store of an SC whose reservation holds: in the L1 at H scope, at the home otherwise (performed there only while the
reservation still holds), as one CAS against the LR's value on a PCIe page (R152). Answers 0 for success. -/
def scStore (r : Resv) (va w v sc cl : Nat) (s : State) : Ans Nat :=
  (ccXlate va .write s).bind fun t s =>
  (ccWatch va w false true s).bind fun _ s =>
  (ccAlias va w cl true s).bind fun _ s =>
  (ccFollow t s).bind fun _ s =>
    let a := s.ccPort
    if l1Only t sc then
      match s.accStore a t (bytesOf v w) va sc cl with
      | (.done _ _, s, a) => .ok 0 (s.setCcPort a)
      | (.wait, s, a) => .wait (s.setCcPort a)
      | (.bad c u, s, a) => .trap (trapVa c u va) (s.setCcPort a)
    else if t.external then
      match s.accAtomic (fun _ a => a) a t .cas w r.val v va sc cl with
      | (.done _ m, s, a) => .ok (if m = r.val then 0 else 1) (s.setCcPort a)
      | (.wait, s, a) => .wait (s.setCcPort a)
      | (.bad c u, s, a) => .trap (trapVa c u va) (s.setCcPort a)
    else
      let (a, go) := s.accTick a t
      if !go then .wait (s.setCcPort a)
      else
        match a.x.got with
        | some g =>
          let s := s.setCcPort { a with pts := max a.pts g.wts, x := {} }
          if g.ok then .ok g.val s else .trap (trapVa g.cause g.sub va) s
        | none =>
          if a.x.out then .wait (s.setCcPort a)
          else
            let s := s.writeBack (s.l1Key a.h t)
            let (s, a) := s.send a { mkReq a (s.epochOf a) .at t (t.scopeOf sc) cl with
              op := .cas, width := w, a := r.val, b := v, sc := true }
            .wait (s.setCcPort a)

/-- LR makes its reservation as its read sets out, so that every store behind the read breaks it; at D and S scope the read goes to the
home, where the order of T is the order of performance (R152, R378, R380). -/
def ccReserve (t : Tgt) (scope : Nat) (s : State) : State :=
  if s.th.xact.out || s.th.xact.got.isSome then s
  else
    let s := s.onTh (fun th => { th with resv := some { tgt := t, unit := tgtUnit t, scope := scope } })
    if l1Only t scope || t.external then s else s.l1Yield (s.l1Key s.focus.h t)

/-- LR_SC: LR loads and reserves the 16-byte unit; SC stores and answers 0 while the reservation holds, else answers 1 and
stores nothing (R152). -/
def execLrSc (op : RvLrsc) (s : State) : Res :=
  let (sc, cl) := s.yscopeOf
  match op with
  | .lr d _ rl rd rs1 =>
    let w := if d then 8 else 4
    let va := (s.xr rs1).toNat
    finishX rd ((ccRl rl va .read sc s).bind fun _ s =>
      if va < 2 ^ 52 && misaligned va w then .trap (trapVa 0x0D 0 va) s
      else
      (ccXlate va .read s).bind fun t s =>
      (ccLoad va w sc cl true (ccReserve t (t.scopeOf sc) s)).bind fun b s =>
        let v := natOfBytes b
        .ok (amoExt v w) (s.onTh (fun th => { th with resv := th.resv.map (fun r => { r with val := v }) })))
  | .sc d _ rl rd rs1 rs2 =>
    let w := if d then 8 else 4
    let va := (s.xr rs1).toNat
    if va < 2 ^ 52 && misaligned va w then finishX rd (.trap (trapVa 0x0D 0 va) s)
    else
      finishX rd ((ccRl rl va .write sc s).bind fun _ s =>
        match s.th.resv with
        | some r =>
          (ccXlate va .write s).bind fun t s =>
            -- the home, or the host, judges a store that is on its way; the L1 judges its own when it makes it
            if (r.valid || s.th.xact.out || (!l1Only t sc && s.th.xact.got.isSome)) && r.unit == tgtUnit t then
              (scStore r va w ((s.xr rs2).toNat % 2 ^ (8 * w)) sc cl s).bind fun v s =>
                .ok (BitVec.ofNat 64 v) (s.onTh (fun th => { th with resv := none }))
            else .ok 1 (s.onTh (fun th => { th with resv := none, xact := {} }))
        | none => .ok 1 s)

/-- The operation of an AMO on memory. -/
def amoAt : AmoOp → AtOp
  | .swap => .swap | .add => .add | .xor => .xor | .and => .and | .or => .or
  | .min => .min | .max => .max | .minu => .minu | .maxu => .maxu | .cas => .cas

/-- Bytes of an AMO's width. -/
def amoWBytes : AmoW → Nat
  | .w => 4 | .d => 8 | .q => 16

/-- The next register of a pair; the pair of x0 reads 0 (Zacas). -/
def pairHi (r : XReg) : XReg := if r = 0#5 then 0#5 else r + 1#5

/-- A register operand of an AMO: a pair for the 16-byte form (Zacas). -/
def State.amoReg (s : State) (r : XReg) (w : AmoW) : Nat :=
  match w with
  | .w => (s.xr r).toNat % 2 ^ 32
  | .d => (s.xr r).toNat
  | .q => (s.xr r).toNat + (s.xr (pairHi r)).toNat * 2 ^ 64

/-- AMO: one atomic access at yscope; rd ← the old value, sign-extended from 4 bytes, or a pair for AMOCAS.Q (R151, R152). -/
def execAmo (op : AmoOp) (width : AmoW) (aq rl : Bool) (rd rs1 rs2 : XReg) (s : State) : Res :=
  let (sc, cl) := s.yscopeOf
  let va := (s.xr rs1).toNat
  let n := amoWBytes width
  let src := s.amoReg rs2 width
  let (x, y) := if op == .cas then (s.amoReg rd width, src) else (src, 0)
  let _ := aq
  finish ((ccRl rl va .atomic sc s).bind fun _ s =>
    (ccAtomic va (amoAt op) n x y sc cl s).bind fun m s =>
      match width with
      | .q => .ok () (if rd = 0#5 then s else (s.setXr rd (BitVec.ofNat 64 m)).setXr (pairHi rd) (BitVec.ofNat 64 (m / 2 ^ 64)))
      | _ => .ok () (s.setXr rd (amoExt m n)))

/-- RV_FENCE in every form acts as FENCES.D (R152, R184). -/
def execRvFence (s : State) : Res := finish (ccRelease 0 1 s)

/-- FENCE.I: the thread's fetches follow its own stores: it waits for those that it has posted; every other has been performed (R79, R152). -/
def execFenceI (s : State) : Res :=
  if s.postsAny s.focus.h s.focus.t (fun _ => true) then .next (s.waiting .other) else .next s.retire

/-! ## Traps of the base (R153) -/

/-- EBREAK: breakpoint, subcause 0. -/
def execEbreak (s : State) : Res :=
  -- the length of the instruction is kept for the resumption behind it (R419)
  .next ((s.trapCc s.focus.h s.focus.t { cause := 0x17 }).onTh (fun th => { th with suppress := [s.focus.len] }))

/-- ECALL: CC exception with RISC-V cause 8. -/
def execEcall (s : State) : Res := .next (s.trapCc s.focus.h s.focus.t { cause := 0x10, d8 := 8 })

/-- CC_ILLEGAL_INSTRUCTION: the encoding trap in a custom opcode, else CC exception with RISC-V cause 2 (R145, R153). -/
def execCcIllegalInstruction (custom : Bool) (s : State) : Res :=
  .next (s.trapCc s.focus.h s.focus.t (if custom then { cause := 0x01 } else { cause := 0x10, d8 := 2 }))

/-! ## Writes of the context's CSRs (R155, R156) -/

/-- The value that a CSR instruction writes. -/
def State.csrNew (s : State) (op : CsrOp) (src : CsrSrc) (old : Word64) : Word64 :=
  let v : Word64 := match src with
    | .reg r => s.xr r
    | .imm u => u.zeroExtend 64
  match op with
  | .rw => v
  | .rs => old ||| v
  | .rc => old &&& ~~~v

/-- The trap of a refused CSR write: protection, subcause 4 (R155, R156). -/
def csrRefused : Trap := { cause := 0x0C, sub := 4 }

/-- Wait until the BQ is empty and the last block has finished (R164). -/
def ccDrain (s : State) : Ans Unit := if s.drained s.xk then .ok () s else .wait (s.waiting .other)

/-- YBBASE_WRITE: a reserved bit traps at once; otherwise waits as BQDRAIN, then takes effect (R155). -/
def execYbbaseWrite (op : CsrOp) (rd : XReg) (src : CsrSrc) (s : State) : Res :=
  let old := s.cx.ybbase
  let v := s.csrNew op src old
  if bitsOf v.toNat 63 52 != 0 || bitsOf v.toNat 3 0 != 0 then finishX rd (.trap csrRefused s)
  else finishX rd ((ccDrain s).bind fun _ s => .ok old (s.onCx (fun x => { x with ybbase := v })))

/-- YSCOPE_WRITE: a reserved bit or SCOPE 11 traps; otherwise takes effect without waiting (R155). -/
def execYscopeWrite (op : CsrOp) (rd : XReg) (src : CsrSrc) (s : State) : Res :=
  let old := s.cx.yscope
  let v := s.csrNew op src old
  if bitsOf v.toNat 63 4 != 0 || v.toNat % 4 == 3 then finishX rd (.trap csrRefused s)
  else finishX rd (.ok old (s.onCx (fun x => { x with yscope := v })))

/-- Bytes of a window size code: 2^(SIZE-1) × 64 KiB (R154). -/
def xwinBytes (size : Nat) : Nat := if size = 0 then 0 else 2 ^ (size - 1) * 65536

/-- The setting that a yxwin value names is refused (R156 step 2). -/
def State.xwinBad (s : State) (h c v : Nat) : Bool :=
  let size := v % 8
  let base := bitsOf v 13 8
  let lo := base * 65536
  let (fb, fs) := (s.eng (qkey h c 0)).fibre
  bitsOf v 63 14 != 0 || bitsOf v 7 3 != 0 || decide (5 < size)
    || (size != 0 && (base % 2 ^ (size - 1) != 0
        || decide (0x400000 < lo + xwinBytes size)
        || (match (s.hearth h).xwin with | some w => w.ctx != c | none => false)
        || (fs != 0 && decide (fb < lo + xwinBytes size) && decide (lo < fb + fs))))

/-- A setting takes effect at a hearth, and is on its way to the others, 64 cy away (R156 step 3). -/
def State.setXwin (s : State) (h : Nat) (w : Option Xwin) : State :=
  s.modHearth h (fun hh => { hh with xwin := w, xnew := hh.xnew ++ [(s.gcc + 64, w)] })

/-- YXWIN_WRITE: waits for the blocks and the engine commands, checks, sets the window, and returns when the setting has
reached every hearth of the partition (R156). -/
def execYxwinWrite (op : CsrOp) (rd : XReg) (src : CsrSrc) (s : State) : Res :=
  let h := s.focus.h
  let c := s.th.ctx
  let v := s.csrNew op src s.cx.yxwin
  if s.th.part = 0 then
    if !(s.drained s.xk && s.enginesQuiet h c) then .next (s.waiting .other)
    else if s.xwinBad h c v.toNat then finishX rd (.trap csrRefused s)
    else
      let size := v.toNat % 8
      let w : Option Xwin := if size = 0 then none else some { ctx := c, base := bitsOf v.toNat 13 8 * 65536, size := xwinBytes size }
      let keep := match (s.hearth h).xwin with | some o => o.ctx != c | none => false
      let s := if size = 0 && keep then s else s.setXwin h w
      .next (s.onTh (fun th => { th with part := 1 }))
  else if (s.hearth h).xnew.isEmpty then
    finishX rd (.ok s.cx.yxwin (s.onCx (fun x => { x with yxwin := v })))
  else .next (s.waiting .other)

end Sys2Proof.Machine
end

