-- ==== Sys2Proof/Machine/ControlExt.lean ====
section
/-! DEFINITION. The control extension (spec/07 R158-R186; spec/02 R32-R51): block queue, predicate return, splits, engine
queues and counters, tasks, named barriers, the Causeway, scoped memory. -/

namespace Sys2Proof.Machine

/-! ## Block queue (R160-R164) -/

/-- The fields of a block-table entry, `none` where the entry breaks its layout (R36). -/
def blkTabOf (e base : Nat) : Option (BlkTab × Nat) :=
  let wd := bitsOf e 63 59
  let need := bitsOf e 52 49
  let len := bitsOf e 44 32
  let body := bitsOf e 31 0
  let bad := bitsOf e 127 64 != 0 || bitsOf e 58 53 != 0 || wd == 16 || wd == 17 || wd == 15
    || need == 0 || need == 15 || len == 0 || decide (4096 < len) || body % 8 != 0
  if bad then none
  else some ({ need := need, inter := bitOf e 48, s := bitsOf e 47 45 + 1, len := len, body := (base + body) % 2 ^ 64 }, wd)

/-- The table entry of a block through the block store (R160): H scope, class 0. A read that has begun is finished, whatever
another thread has fetched since; it is not kept when an IINVAL has come meanwhile (R185). -/
def ccTable (va : Nat) (s : State) : Ans Nat :=
  let key := s.cx.part * 2 ^ 52 + va
  match (if s.th.xact.bound.isNone then Map.find? (s.hearth s.focus.h).btab key else none) with
  | some e => .ok e.toNat s
  | none =>
    (ccLoad va 16 0 0 true s).bind fun d s =>
      let v := natOfBytes d
      .ok v (if s.th.stale then s else s.fillStore s.focus.h (fun hh => { hh with btab := Map.put hh.btab key (BitVec.ofNat 128 v) }))

/-- The trace packets of a BEMIT (R338): MASK when the entry mask differs from the split's, then BLK. -/
def State.emitBlk (s : State) (rl : Bool) (idx n : Nat) (mask : Word) : State :=
  let h := s.focus.h
  let c := s.th.ctx
  let t := s.focus.t
  if (s.ctx (ckey h c)).trace.on then
    let s := if mask = s.th.mask then s else s.emit h c t 5 (mask ^^^ s.th.mask).toNat []
    -- a SYNC that goes before the packet comes before its delta is taken
    let s := ((s.lossResync h c).flushBr h c t).periodic h c
    let d := (idx + 2 ^ 13 - (s.ctx (ckey h c)).trace.prevBlk) % 2 ^ 13
    let s := s.emit h c t 4 (boolNat rl * 2 ^ 45 + d * 2 ^ 32 + n) []
    s.modCtx (ckey h c) (fun x => { x with trace := { x.trace with prevBlk := idx } })
  else s

/-- Form and push a block entry (R34, R160). -/
def ccBemit (rl : Bool) (rs1 rs2 : XReg) (idx : BitVec 12) (s : State) : Ans Unit :=
  let base := s.ybbaseOf.toNat
  (ccTable (base + 16 * idx.toNat) s).bind fun e s =>
    match blkTabOf e base with
    | none => .trap { cause := 0x01 } s
    | some (tab, wd) =>
      if 256 ≤ s.cx.bq.length then .wait (s.waiting .other)
      else
        let n := (lo32 (s.xr rs1)).toNat
        let mask := lo32 (s.xr rs2) &&& s.th.mask
        let body := boolNat rl * 2 ^ 107 + wd * 2 ^ 102 + s.ownerBits + idx.toNat * 2 ^ 84 + n * 2 ^ 32 + mask.toNat
        let s := s.pushBq body { tab := tab, pts := if rl then s.th.pts else 0, phase := s.gr.phaseNext }
        let s := s.modGroup s.xk (fun g => { g with phaseNext := none })
        let s := s.emitBlk rl idx.toNat n mask
        .ok () (s.onCx (fun x => { x with lastBemit := s.nextPc.toNat }))

/-- BEMIT (R34, R160). -/
def execBemit (rs1 rs2 : XReg) (blk : BitVec 12) (s : State) : Res := finish (ccBemit false rs1 rs2 blk s)

/-- BEMIT.RL: the release bit is set (R34, R65). -/
def execBemitRl (rs1 rs2 : XReg) (blk : BitVec 12) (s : State) : Res := finish (ccBemit true rs1 rs2 blk s)

/-- KSET: a kind-1 entry with all 64 bits of rs1 (R161, R32). -/
def execKset (n : BitVec 4) (rs1 : XReg) (s : State) : Res :=
  if 256 ≤ s.cx.bq.length then .next (s.waiting .other)
  else
    let v := (s.xr rs1).toNat
    .next (s.pushBq (1 * 2 ^ 124 + s.ownerBits + n.toNat * 2 ^ 80 + (v / 2 ^ 32) * 2 ^ 32 + v % 2 ^ 32) {}).retire

/-- BWIN: a kind-2 entry; a delta outside -14 … +14 is an encoding trap (R161). -/
def execBwin (rs1 : XReg) (s : State) : Res :=
  let d := (s.xr rs1).toInt
  if d < -14 || 14 < d then finish (.trap { cause := 0x01 } s)
  else if 256 ≤ s.cx.bq.length then .next (s.waiting .other)
  else .next (s.pushBq (2 * 2 ^ 124 + (BitVec.ofInt 5 d).toNat * 2 ^ 102 + s.ownerBits) {}).retire

/-- The sequence number of an entry (R32). -/
def BqE.seq (e : BqE) : Nat := bitsOf e.bits.toNat 123 108

/-- Whether a cancel from s removes an entry, n the next number (R163). -/
def cancelled (n sq : Nat) (e : BqE) : Bool :=
  decide ((e.seq + 2 ^ 16 - sq) % 2 ^ 16 < (n + 2 ^ 16 - sq) % 2 ^ 16)

/-- BCANCEL: removes the entries pushed at or after rs1[15:0]; rd counts them (R40, R163). -/
def execBcancel (rd rs1 : XReg) (s : State) : Res :=
  let n := s.cx.seq
  let sq := (s.xr rs1).toNat % 2 ^ 16
  if (n + 2 ^ 16 - sq) % 2 ^ 16 > 2 ^ 15 then finishX rd (.ok 0 s)
  else
    let keep := s.cx.bq.filter (fun e => !cancelled n sq e)
    let k := s.cx.bq.length - keep.length
    finishX rd (.ok (BitVec.ofNat 64 k) (s.onCx (fun x => { x with bq := keep })))

/-- BSEQ: the number that the next pushed entry will take (R162). -/
def execBseq (rd : XReg) (s : State) : Res := finishX rd (.ok (BitVec.ofNat 64 s.cx.seq) s)

/-- BQDRAIN (R164). -/
def execBqdrain (s : State) : Res := finish (ccDrain s)

/-! ## Predicate return (R165, R166) -/

/-- The executing split owns an entry (R39). -/
def State.owns (s : State) (e : PrqE) : Bool := e.slot == s.th.slot && e.gen == Map.get 0 s.cx.gens s.th.slot

/-- Take the head of the PRQ when the split owns it. -/
def State.popPrq (s : State) : Option (Word64 × State) :=
  match s.cx.prq with
  | e :: r => if s.owns e then some (e.w, s.onCx (fun x => { x with prq := r, lastPop := s.nextPc.toNat })) else none
  | [] => none

/-- PPOP: waits for an entry that the split owns (R165). -/
def execPpop (rd : XReg) (s : State) : Res :=
  match s.popPrq with
  | some (w, s) => finishX rd (.ok w s)
  | none => .next (s.waiting .ppop)

/-- PPOP.AQ: PPOP that acquires from the PRET (R165, R65). -/
def execPpopAq (rd : XReg) (s : State) : Res :=
  match s.popPrq with
  | some (w, s) => finishX rd (.ok w (s.acquire s.gr.pts))
  | none => .next (s.waiting .ppop)

/-- PTRY: PPOP that answers 0 at once (R165). -/
def execPtry (rd : XReg) (s : State) : Res :=
  match s.popPrq with
  | some (w, s) => finishX rd (.ok w s)
  | none => finishX rd (.ok 0 s)

/-- PFLUSH: removes the entries that the split owns; rd counts them (R166). -/
def execPflush (rd : XReg) (s : State) : Res :=
  let keep := s.cx.prq.filter (fun e => !s.owns e)
  finishX rd (.ok (BitVec.ofNat 64 (s.cx.prq.length - keep.length)) (s.onCx (fun x => { x with prq := keep })))

/-! ## Splits (R44-R47, R167, R168) -/

/-- The lowest free pool thread of a hearth (R44). -/
def State.freePool (s : State) (h : Nat) : Option Nat := (natsFrom 4 4).find? (fun t => (s.thread (tkey h t)).st == .free)

/-- The lowest free slot of a context (R44). -/
def State.freeSlot (s : State) (h c : Nat) : Nat :=
  ((natsFrom 0 4).find? (fun sl => (s.liveThreads h c).all (fun t => (s.thread (tkey h t)).slot != sl))).getD 0

/-- A pool thread was taken in this cycle by a context of a higher number: a claim of context c comes in the next (R44). -/
def State.poolTaken (s : State) (h c : Nat) : Bool := (s.hearth h).poolAt.1 == s.gcc + 1 && decide (c < (s.hearth h).poolAt.2)

/-- The use of the split stack by the executing thread: one push or pop at a time (R46, R159). -/
def withStack (f : State → Ans Unit) (s : State) : Ans Unit :=
  let t := s.focus.t
  if s.cx.stackBy.isSome && s.cx.stackBy != some t then .wait s
  else
    match f (s.onCx (fun x => { x with stackBy := some t })) with
    | .ok a s => .ok a (s.onCx (fun x => { x with stackBy := none }))
    | .wait s => .wait s
    | .trap i s => .trap i (s.onCx (fun x => { x with stackBy := none }))

/-- Address of split-stack entry i (R46). -/
def stackAddr (frame i : Nat) : Nat := (frame + 2 ^ 64 - 16 * (i + 1)) % 2 ^ 64

/-- SPLIT (R45, R167). An entry of the stack is one access of 16 bytes at H scope; its class is 0, which no rule names (DESIGN CHOICE,
notes/assumptions/89). A new split counts the instructions that its thread retires from here on (DESIGN CHOICE, notes/assumptions/90). -/
def execSplit (rs1 : XReg) (off : BitVec 12) (s : State) : Res :=
  let h := s.focus.h
  let c := s.th.ctx
  let t := s.focus.t
  let m := s.th.mask
  let p := lo32 (s.xr rs1)
  let tk := m &&& p
  let f := m &&& ~~~p
  let pc := s.th.pc
  let target := pc + (off ++ 0#1 : BitVec 13).signExtend 64
  let pushes := s.cx.stackBy == some t
  let ev (o extra : Nat) (s : State) : State := s.emit h c t 6 (o * 2 ^ 44 + extra + tk.toNat) []
  if tk = 0 then finish (.ok () (ev 0 0 s))
  else if f = 0 then
    let s := (ev 1 0 s).foldThread s.cx.part s.tk pc.toNat target.toNat
    .next (s.retireTo target)
  -- a push that has begun goes on
  else if !pushes && decide ((s.liveThreads h c).length < 4) && s.poolTaken h c then .next s
  else
    match (if !pushes && decide ((s.liveThreads h c).length < 4) then s.freePool h else none) with
    | some n =>
      let s := s.modHearth h (fun hh => { hh with poolAt := (s.gcc + 1, c) })
      let sl := s.freeSlot h c
      let s := ev 2 (sl * 2 ^ 34) s
      let sig := if bitOf (s.pdbg s.cx.part 0) 0 then foldSig s.th.sig pc.toNat target.toNat else s.th.sig
      let child : Thread := { pc := target, x := s.th.x, mask := tk, slot := sl, ctx := c, st := .running, sig := sig, pts := s.th.pts }
      let s := s.modThread (tkey h n) (fun _ => child)
      let s := s.onCx (fun x => { x with gens := Map.mod 0 x.gens sl (fun g => (g + 1) % 16) })
      .next (s.onTh (fun th => { th with mask := f })).retire
    | none =>
      let d := s.cx.depth
      if 16 ≤ d then finish (.trap { cause := 0x11 } s)
      else
        let a := stackAddr s.cx.task.frame d
        let pc4 := (pc + 4).toNat
        finishAt (withStack (fun s => (ccStore a (bytesOf pc4 8 ++ bytesOf f.toNat 8) 0 0 true s).bind fun _ s =>
          let s := ev 3 ((d + 1) * 2 ^ 36) s
          let s := s.onCx (fun x => { x with depth := d + 1, stackSigs := s.th.sig :: x.stackSigs })
          let s := s.foldThread s.cx.part s.tk pc.toNat target.toNat
          .ok () ((s.onTh (fun th => { th with mask := tk })).retireTo target)) s)

/-- The generation of a slot is still recorded in an unfinished block entry: one in the queue, the one that runs, or one whose PRQ
pushes have not been made (R39, R164). -/
def State.genInUse (s : State) (k sl g : Nat) : Bool :=
  (s.ctx k).bq.any (fun e => bitsOf e.bits.toNat 127 124 == 0 && bitsOf e.bits.toNat 97 96 == sl && bitsOf e.bits.toNat 101 98 == g)
    || (match (s.group k).blk with | some b => b.slot == sl && b.gen == g | none => false)
    || (s.group k).prets.any (fun p => p.e.slot == sl && p.e.gen == g)

/-- The open merge with the lowest pc. -/
def lowestMerge (m0 : Merge) (r : List Merge) : Merge := r.foldl (fun a b => if b.pc < a.pc then b else a) m0

/-- The thread on which a closing merge goes on (R47 step 4): the context thread if it is parked there or arrived there last, else the
thread of the last arrival, wherever it stands parked now; where that thread has returned to the pool, the last one parked there, or the
context thread (DESIGN CHOICE, notes/assumptions/91). -/
def State.mergeThread (s : State) (h c : Nat) (m : Merge) : Nat :=
  if m.parked.contains c || m.lastArr == c then c
  else if (s.thread (tkey h m.lastArr)).st == .parked && (s.thread (tkey h m.lastArr)).ctx == c then m.lastArr
  else m.parked.getLast?.getD c

/-- Close the open merge with the lowest pc: one split continues at pc + 4, the pool threads parked there return to the pool
(R47 step 4). -/
def State.closeMerge (s : State) (h c : Nat) : Option (State × Nat) :=
  match (s.ctx (ckey h c)).merges with
  | [] => none
  | m0 :: r =>
    let m := lowestMerge m0 r
    let go := s.mergeThread h c m
    let owed := (m.parked.filterMap (fun t => (s.thread (tkey h t)).owed)).head?
    -- the continuing split is ordered after every access of those that arrived (R60)
    let s := s.modThread (tkey h go) (fun th => { th with
      pc := BitVec.ofNat 64 (m.pc + 4), mask := m.mask, sig := m.sig, st := .running, pts := max th.pts m.pts, since := 0, held := false
      owed := if th.owed.isSome then th.owed else owed })
    let s := (m.parked.filter (· != go)).foldl (fun s t => s.modThread (tkey h t) (fun th => { th with st := .free, resv := none, owed := none })) s
    some (s.modCtx (ckey h c) (fun x => { x with merges :=
      (x.merges.filter (fun b => b.pc != m.pc)).map (fun b => { b with parked := b.parked.filter (· != go) }) }), go)

/-- No split of a task runs (R47 step 4). -/
def State.noneRunning (s : State) (h c : Nat) : Bool :=
  (s.liveThreads h c).all (fun t => (s.thread (tkey h t)).st != .running)

/-- MERGE (R47, R168, R39). The thread's posted stores are acknowledged first, since it may return to the pool
(notes/assumptions/86). -/
def execMerge (s : State) : Res :=
  let h := s.focus.h
  let c := s.th.ctx
  let t := s.focus.t
  let q := s.th.pc.toNat
  let sl := s.th.slot
  let g' := (Map.get 0 s.cx.gens sl + 1) % 16
  if s.cx.prq.any s.owns then finish (.trap { cause := 0x11 } s)
  else if s.cx.merges.all (fun m => m.pc != q) && decide (4 ≤ s.cx.merges.length) then finish (.trap { cause := 0x11 } s)
  else if s.genInUse s.xk sl g' then .next (s.waiting .other)
  else if !s.postQuiet s.xk then .next (s.waiting .other)
  else
    let mk := s.th.mask &&& ~~~s.gr.exited
    let sig := s.th.sig
    let pts := s.th.pts
    let arrive (park : List Nat) (s : State) : State := s.onCx (fun x => { x with
      gens := Map.put x.gens sl g'
      merges := if x.merges.any (fun m => m.pc == q) then
          x.merges.map (fun m => if m.pc = q then
            { m with mask := m.mask ||| mk, sig := (BitVec.ofNat 64 m.sig ^^^ BitVec.ofNat 64 sig).toNat, parked := m.parked ++ park,
                     lastArr := t, pts := max m.pts pts } else m)
        else x.merges ++ [{ pc := q, mask := mk, sig := sig, parked := park, lastArr := t, pts := pts }] })
    let d := s.cx.depth
    if 0 < d then
      let a := stackAddr s.cx.task.frame (d - 1)
      finishAt (withStack (fun s => (ccLoad a 16 0 0 true s).bind fun bs s =>
        let pc' := natOfBytes (bs.take 8)
        let mask' := BitVec.ofNat 32 (natOfBytes (bs.drop 8))
        let s := arrive [] s
        let s := s.emit h c t 7 mask'.toNat []
        let sg := s.cx.stackSigs.headD 0
        let s := s.onCx (fun x => { x with depth := d - 1, stackSigs := x.stackSigs.tail })
        .ok () ((s.onTh (fun th => { th with mask := mask', sig := sg })).retireTo (BitVec.ofNat 64 pc'))) s)
    else
      let s := arrive [t] s
      let s := (s.onTh (fun th => { th with st := .parked, instret := th.instret + 1, wait := none, part := 0, hold := [], held := false }))
      if s.noneRunning h c then
        let s := if s.cx.trace.on then s.flushBr h c t else s
        let mine : Bool := match s.cx.merges with | m :: r => (lowestMerge m r).pc == q | [] => false
        -- an arrival that lets another merge close is traced as an arrival (R338)
        let s := if mine then s else s.emit h c t 7 (1 * 2 ^ 44) []
        match s.closeMerge h c with
        | some (s, go) => .next (s.emit h c go 7 (2 * 2 ^ 44 + (s.thread (tkey h go)).mask.toNat) [])
        | none => .next s
      else .next (s.emit h c t 7 (1 * 2 ^ 44) [])

/-! ## Engine queues and counters (R169-R175) -/

/-- Append words to an engine queue of the executing task as one unit (R169, R170). -/
def ccSendWords (e : Nat) (ws : List (BitVec 16)) (s : State) : Ans Unit :=
  let k := qkey s.focus.h s.th.ctx e
  let q := s.eng k
  if q.fetch.isSome || decide (128 < q.words.length + ws.length) then .wait (s.waiting .other)
  else
    let pc := s.th.pc.toNat
    let ip := s.cx.pos + 1
    let s := s.onCx (fun x => { x with pos := ip })
    .ok () (s.modEng k (fun q => { q with
      words := q.words ++ ws.map (fun w => { w := w, pc := pc, ipos := ip }), pts := max q.pts s.th.pts }))

/-- ESEND: words 0 … count - 1 of rs1 (R142, R170). -/
def execEsend (rs1 : XReg) (count eng : BitVec 2) (s : State) : Res :=
  let v := s.xr rs1
  finish (ccSendWords eng.toNat ((natsFrom 0 (count.toNat + 1)).map (fun i => v.extractLsb' (16 * i) 16)) s)

/-- EFENCE: one EFENCE word, 0x0C00 (R172). -/
def execEfence (eng : BitVec 2) (s : State) : Res := finish (ccSendWords eng.toNat [0x0C00] s)

/-- ERUN: reads and checks the script header, then hands the script to the fetcher (R171, R150). An address that is
misaligned is refused for that before it is translated (DESIGN CHOICE, notes/assumptions/105). -/
def execErun (rs1 : XReg) (eng : BitVec 2) (s : State) : Res :=
  let a := (s.xr rs1).toNat
  let e := eng.toNat
  let k := qkey s.focus.h s.th.ctx e
  let q := s.eng k
  let bad : Trap := { cause := 0x09, agent := 2 + e, d8 := (q.taken + q.words.length) % 2 ^ 32 }
  if q.fetch.isSome then .next (s.waiting .other)
  else if a < 2 ^ 52 && a % 4 != 0 then finish (.trap bad s)
  else finish ((ccLoad a 4 1 0 true s).bind fun d s =>
    let hd := natOfBytes d
    if badScript a hd then .trap bad s
    else
      let ip := s.cx.pos + 1
      let s := s.onCx (fun x => { x with pos := ip })
      .ok () (s.modEng k (fun q => { q with fetch := some (a + 4, hd % 2 ^ 16, s.th.pc.toNat, ip), pts := max q.pts s.th.pts })))

/-- The engines' timestamps of a task: what a consumer of completions acquires (R65). -/
def State.engPts (s : State) (h c : Nat) : Nat := ((natsFrom 0 4).map (fun e => (s.eng (qkey h c e)).pts)).foldl max 0

/-- CMPRD: rd ← the counter, sign-extended (R174). -/
def execCmprd (rd : XReg) (n : BitVec 3) (s : State) : Res :=
  finishX rd (.ok (BitVec.ofInt 64 (Map.get 0 s.cx.cmp n.toNat)) (s.acquire (s.engPts s.focus.h s.th.ctx)))

/-- Subtract from a counter: `none` where the result leaves the signed 32-bit range (R173). -/
def cmpSub (v : Int) (n : Nat) : Option Int := if v - n < -(2 ^ 31) then none else some (v - n)

/-- A counter has been moved by a POST or a CMPDISC in the present cycle, or a waiter of it has been served: of one cycle, the POSTs and
CMPDISCs come first (R174). -/
def State.cmpMovedNow (s : State) (k n : Nat) : Bool := Map.get 0 (s.ctx k).cmpMoved n == s.gcc + 1
def State.cmpServedNow (s : State) (k n : Nat) : Bool := Map.get 0 (s.ctx k).cmpServed n == s.gcc + 1

/-- CMPWAIT: waits, behind earlier waiters, until the counter is at least n, then subtracts n (R174); n = 0 returns at once and acquires
nothing (DESIGN CHOICE, notes/assumptions/106). In a cycle that has moved the
counter it is not tested any more: it is in the next. -/
def execCmpwait (rs1 : XReg) (n : BitVec 3) (s : State) : Res :=
  let v := (lo32 (s.xr rs1)).toNat
  let me := (n.toNat, s.focus.t)
  if 2 ^ 31 ≤ v then finish (.trap { cause := 0x0C, sub := 4 } s)
  else if v = 0 then finish (.ok () s)
  else
    let s := if s.cx.cmpQ.contains me then s else s.onCx (fun x => { x with cmpQ := x.cmpQ ++ [me] })
    let first := (s.cx.cmpQ.find? (fun w => w.1 == n.toNat)) = some me
    let cur := Map.get 0 s.cx.cmp n.toNat
    if first && decide ((v : Int) ≤ cur) && !s.cmpMovedNow s.xk n.toNat then
      let s := s.onCx (fun x => { x with
        cmp := Map.put x.cmp n.toNat (cur - v), cmpQ := x.cmpQ.filter (· != me), cmpServed := Map.put x.cmpServed n.toNat (s.gcc + 1) })
      finish (.ok () (s.acquire (s.engPts s.focus.h s.th.ctx)))
    else .next (s.waiting .cmpwait)

/-- CMPDISC: subtracts n at once (R174, R173); in a cycle that has served a waiter of the counter it comes in the next. -/
def execCmpdisc (rs1 : XReg) (n : BitVec 3) (s : State) : Res :=
  let v := (lo32 (s.xr rs1)).toNat
  if 2 ^ 31 ≤ v then finish (.trap { cause := 0x0C, sub := 4 } s)
  else if s.cmpServedNow s.xk n.toNat then .next s
  else
    match cmpSub (Map.get 0 s.cx.cmp n.toNat) v with
    | none => finish (.trap { cause := 0x0C, sub := 4 } s)
    | some w => finish (.ok () (s.onCx (fun x => { x with cmp := Map.put x.cmp n.toNat w, cmpMoved := Map.put x.cmpMoved n.toNat (s.gcc + 1) })))

/-- The probes that a PUBLISH of hearth h0 sends (R381, R383). -/
def State.trecProbes (s : State) (h0 p tid tp : Nat) : List Probe := (natsFrom 0 192).map (fun h =>
  { kind := .trec, h := h, key := tid, part := p, tp := tp, due := s.gcc + transit (.hearth h0) (.hearth h), lim := s.gcc + 100 })

/-- PUBLISH: after the release of R74, the exchange is due at t_p = t_w + 128 or one cycle after an earlier one; returns at
t_p with t_p (R175). Once the exchange has been asked for, a descriptor that is rewritten changes nothing any more (R158). -/
def execPublish (rd rs1 : XReg) (s : State) : Res :=
  let p := s.cx.part
  let tid := (s.xr rs1).toNat % 2 ^ 16
  let shadowed : Bool := match s.tensor p tid with | some d => d.shadow | none => false
  if decide (s.th.part < 3) && !shadowed then finishX rd (.trap { cause := 0x0C, sub := 4 } s)
  else
      finishX rd ((ccRelease 0 1 s).bind fun _ s =>
        (stage 2 (fun s =>
          let sh := Map.get {} (s.part p).shadow tid
          let tp := max (s.gcc + 128) (match sh.pend.getLast? with | some e => e + 1 | none => 0)
          let s := s.modPart p (fun q => { q with shadow := Map.put q.shadow tid { sh with pend := sh.pend ++ [tp], pubs := sh.pubs ++ [(tp, s.th.pts)] } })
          let s := { s with probes := s.probes ++ s.trecProbes s.focus.h p tid tp }
          .ok () (s.onTh (fun th => { th with hold := bytesOf tp 8 }))) s).bind fun _ s =>
        let tp := natOfBytes s.th.hold
        if s.gcc < tp then .wait (s.waiting .other) else .ok (BitVec.ofNat 64 tp) s)

/-! ## Tasks (R176-R179, R50, R51) -/

/-- A misaligned record address (R176). -/
def misRecord (a : Nat) : Bool := a % 64 != 0

/-- Ask for the push, or the walk, of a record whose bytes 16-31 are given (R176, R25). -/
def State.spawn (s : State) (p a : Nat) (d : List Byte) (who : Who) : State :=
  let kind := (d.getD 4 0).toNat
  let prio := (d.getD 5 0).toNat
  if kind % 4 = 2 then s.modPart p (fun q => { q with fans := q.fans ++ [{ addr := a, who := who }] })
  else s.modPart p (fun q => { q with pushes := q.pushes ++ [{ addr := a, level := prio, who := who }] })

/-- A push, walk or decrement asked for by a thread is still on its way. -/
def State.asked (s : State) (p : Nat) (w : Who) : Bool :=
  (s.part p).pushes.any (fun e => e.who == w) || (s.part p).fans.any (fun e => e.who == w) || (s.part p).decs.any (fun e => e.who == w)

/-- TSPAWN: pushes the record, or walks a fan-out record, and completes when that has been done (R176). Of an address that is misaligned
and has bits [63:52] set the model reports the latter (DESIGN CHOICE, notes/assumptions/87); the same at TJOIN. -/
def execTspawn (rs1 : XReg) (s : State) : Res :=
  let a := (s.xr rs1).toNat
  let me : Who := .thread s.focus.h s.focus.t
  let p := s.cx.part
  if a < 2 ^ 52 && misRecord a then finish (.trap (trapVa 0x0D 0 a) s)
  else finish ((ccRelease 0 1 s).bind fun _ s =>
    (stageB 2 (ccLoad (a + 16) 16 1 0 true) s).bind fun _ s =>
    (stage 3 (fun s => (ccSettled s.th.pts s).bind fun _ s => .ok () (s.spawn p a s.th.hold me)) s).bind fun _ s =>
    if s.asked p me then .wait (s.waiting .other) else .ok () s)

/-- TJOIN: one decrement of the record's join counter; at 0 it traps here (R177, R24). -/
def execTjoin (rs1 : XReg) (s : State) : Res :=
  let a := (s.xr rs1).toNat
  let me : Who := .thread s.focus.h s.focus.t
  let p := s.cx.part
  if a < 2 ^ 52 && misRecord a then finish (.trap (trapVa 0x0D 0 a) s)
  else finish ((ccRelease 0 1 s).bind fun _ s =>
    (stage 2 (fun s => (ccSettled s.th.pts s).bind fun _ s => (ccXlate a .atomic s).bind fun _ s =>
      .ok () (s.modPart p (fun q => { q with decs := q.decs ++ [{ succ := a, who := me, join := true }] }))) s).bind fun _ s =>
    if s.asked p me then .wait (s.waiting .other)
    else match s.th.xf with
      | some f => .trap { cause := f.cause, sub := f.sub, d8 := f.va } s
      | none => .ok () s)

/-- The preconditions of TDONE and TYIELD: one live split, no open merge, an empty split stack (R50). -/
def State.endable (s : State) (h c : Nat) : Bool :=
  let x := s.ctx (ckey h c)
  (s.liveThreads h c).length == 1 && x.merges.isEmpty && x.depth == 0

/-- The mask of non-zero completion counters (R178). -/
def cmpMask (m : Map Int) : Nat := (natsFrom 0 8).foldl (fun a n => if Map.get 0 m n = 0 then a else a + 2 ^ n) 0

/-- Reset the discarded engine state of a task (R240). -/
def clearEng (e : EngQ) : EngQ :=
  { e with stack := [], rm := 0, ftz := false, vmode := false, vmodeAt := 0, vmodeWas := false, fibre := (0, 0), src := none, dst := none, box := none,
           rxin := none, rprog := none, ryout := none, rdlim := 16, cmds := [], items := [] }

/-- Drop the L1 copies of a context's private memory (R58). -/
def dropPriv (k : Nat) (m : Map L1E) : Map L1E := m.filter (fun (_, e) => !(e.priv && e.ctx == k))

/-- Step 3 of R50: PRQ entries, receive buffers and private memory go, with the engine state of step 2 (R112, R240). -/
def State.discard (s : State) (h c : Nat) : State :=
  let k := ckey h c
  let s := (natsFrom 0 4).foldl (fun s e => s.modEng (qkey h c e) clearEng) s
  let s := { s with l1 := dropPriv k s.l1 }
  s.modCtx k (fun x => { x with prq := [], rx := [] })

/-- Step 5 of R50: the exchange window and the image slot go, standing arrivals bind no later task, and the context falls idle (R112, R156,
R415). -/
def State.endTask (s : State) (h c : Nat) : State :=
  let k := ckey h c
  let x := s.ctx k
  let s : State := { s with chans := s.chans.map (fun e => (e.1, e.2.orphan k)) }
  let s : State := match (s.hearth h).xwin with
    | some w => if w.ctx = c then s.setXwin h none else s
    | none => s
  -- a pre-emption that was on its way has no target any more (R411)
  let s := s.modPart x.part (fun q => { q with preempt := if q.preempt = some k then none else q.preempt })
  let s : State := match x.slot with
    | some n => s.modPart x.part (fun q => { q with slots := Map.erase q.slots n })
    | none => s
  let s : State := (s.liveThreads h c).foldl (fun s t => s.modThread (tkey h t) (fun th => { th with st := .free, resv := none, wait := none })) s
  s.modCtx k (fun x => { x with
    st := .idle, rx := [], slot := none, signal := none, cmpQ := [], yxwin := 0,
    trace := { x.trace with on := false } })

/-- Ask for the decrements of a completed record's successors, SUCC0 first (R24, R22): one that is misaligned is not
decremented and is reported. `who` waits for them. -/
def State.completeRecord (s : State) (p : Nat) (r : Record) (who : Who) : State :=
  [r.succ0, r.succ1].foldl (fun s a =>
    if a = 0 then s
    else if misRecord a then s.trapNoCtx p { cause := 0x0D, agent := 7, d8 := a } 0 r.addr
    else s.modPart p (fun q => { q with decs := q.decs ++ [{ succ := a, who := who }] })) s

/-- The wait of R50 steps 1 and 2: blocks finished, engine commands complete, lane operations and marked arrivals performed. -/
def State.taskQuiet (s : State) (h c : Nat) : Bool :=
  s.drained (ckey h c) && s.enginesQuiet h c && (s.group (ckey h c)).ops.isEmpty && (s.group (ckey h c)).nbArr.isEmpty

/-- Write the task's signature to the partition's ring, or count it lost (R342). -/
def State.signature (s : State) (h c t : Nat) : State :=
  let x := s.ctx (ckey h c)
  let p := x.part
  if bitOf (s.pdbg p 0) 0 then
    let size := 2 ^ (s.pdbg p 0x10)
    if size ≤ (s.part p).sigHead - s.pdbg p 0x20 then s.modPart p (fun q => { q with sigLost := q.sigLost + 1 })
    else
      let a := bitsOf (s.pdbg p 0x8) 51 5 * 32 + 32 * ((s.part p).sigHead % size)
      let s := s.hwWords a ([x.task.addr, x.task.code, s.gcc, (s.thread (tkey h t)).sig].map (BitVec.ofNat 64))
      s.modPart p (fun q => { q with sigHead := q.sigHead + 1 })
  else s

/-- What TDONE and TYIELD share up to step 3: preconditions, waits, counters, and the release of the task's stores (R178, R179). -/
def ccEnd (s : State) : Ans Unit :=
  let h := s.focus.h
  let c := s.th.ctx
  if !s.endable h c then .trap { cause := 0x11 } s
  else if !s.taskQuiet h c then .wait (s.waiting .other)
  else if cmpMask s.cx.cmp != 0 then .trap { cause := 0x0C, sub := 4, d9 := cmpMask s.cx.cmp } s
  else if !s.postQuiet s.xk then .wait (s.waiting .other)
  else (ccOwed s).bind fun _ s => (ccRelease 0 1 s).bind fun _ s => ccSettled (s.taskPts h c) s

/-- What an ending instruction has asked for, a push or decrements, is still to be performed. -/
def ccAsked (s : State) : Ans Unit :=
  if s.asked s.cx.part (.thread s.focus.h s.focus.t) then .wait (s.waiting .other) else .ok () s

/-- TDONE: ends the task: its successors are decremented, and then the context falls idle (R50, R178). -/
def execTdone (s : State) : Res :=
  finishAt ((stage 2 (fun s => (ccEnd s).bind fun _ s =>
      .ok () ((s.discard s.focus.h s.th.ctx).completeRecord s.cx.part s.cx.task (.thread s.focus.h s.focus.t))) s).bind fun _ s =>
    (ccAsked s).bind fun _ s =>
      let h := s.focus.h
      let c := s.th.ctx
      let s := (s.emitEnd h c 0).signature h c s.focus.t
      .ok () (s.retire.endTask h c))

/-- TYIELD: ends the task: the record named is pushed, and then the context falls idle (R51, R179). -/
def execTyield (rs1 : XReg) (s : State) : Res :=
  let a := (s.xr rs1).toNat
  if misRecord a then finish (.trap (trapVa 0x0D 0 a) s)
  else finishAt ((stage 3 (fun s => (if s.th.part < 3 then ccEnd s else .ok () s).bind fun _ s =>
      (stageB 2 (ccLoad (a + 16) 16 1 0 true) s).bind fun _ s =>
        .ok () ((s.discard s.focus.h s.th.ctx).spawn s.cx.part a s.th.hold (.thread s.focus.h s.focus.t))) s).bind fun _ s =>
    (ccAsked s).bind fun _ s =>
      let h := s.focus.h
      let c := s.th.ctx
      .ok () (((s.emitEnd h c 1).retire).endTask h c))

/-- TSELF: rd ← the running record's address (R179). -/
def execTself (rd : XReg) (s : State) : Res := finishX rd (.ok (BitVec.ofNat 64 s.cx.task.addr) s)

/-! ## Named barriers (R180, R181) -/

/-- A named-barrier misuse: protection, subcause 4. -/
def nbMisuse : Trap := { cause := 0x0C, sub := 4 }

/-- The barrier of a number. -/
def State.nbOf (s : State) (n : BitVec 4) : Nb := Map.get {} s.cx.nb n.toNat

/-- NBINIT: arms the barrier with an expected count (R181). -/
def execNbinit (n : BitVec 4) (rs1 : XReg) (s : State) : Res :=
  let e := (lo32 (s.xr rs1)).toNat
  let b := s.nbOf n
  if b.inv then .next s
  else if e = 0 || 65535 < e then finish (.trap nbMisuse s)
  else if !b.waiters.isEmpty || decide (0 < b.p) || b.st == .draining then finish (.trap { cause := 0x0A } s)
  else finish (.ok () (s.onCx (fun x => { x with nb := Map.put x.nb n.toNat { b with st := .armed, e := e, a := 0, i := 0, p := 0 } })))

/-- NBARRIVE: one arrival, the release side of R65; on an invalid or draining barrier 0x0C (R181). Behind an NBINVAL of the same cycle it
comes in the next, unless it releases the instance (R159, R181). -/
def execNbarrive (n : BitVec 4) (s : State) : Res :=
  if (s.nbOf n).st != .armed then finish (.trap nbMisuse s)
  else finish ((ccRelease 0 1 s).bind fun _ s =>
    if (s.nbOf n).inv && (s.nbOf n).a + 1 != (s.nbOf n).e then .wait s else .ok () (s.nbArrive s.xk n.toNat))

/-- NBWAIT: waits for the release of the instance current at issue (R181). -/
def execNbwait (rd : XReg) (n : BitVec 4) (s : State) : Res :=
  let me : Who := .thread s.focus.h s.focus.t
  match s.th.wait with
  | some { kind := .nbwait, a := 1, b := r, .. } =>
    finishX rd (.ok (BitVec.ofNat 64 r) (s.acquire (s.taskPts s.focus.h s.th.ctx)))
  | some _ => .next s
  | none =>
    if (s.nbOf n).inv then .next s
    else if (s.nbOf n).st != .armed then finishX rd (.ok 2 s)
    else .next ((s.onCx (fun x => { x with nb := Map.mod {} x.nb n.toNat (fun b => { b with waiters := b.waiters ++ [me] }) })).waiting .nbwait)

/-- NBINVAL: waiters return with 1; the barrier drains while P > 0, else it is invalid (R181). It takes effect as the cycle ends
(`State.nbInvalidate`), behind every release of the cycle, and completes then; on an invalid barrier it has no effect. -/
def execNbinval (n : BitVec 4) (s : State) : Res :=
  let b := s.nbOf n
  if s.th.part = 1 then (if b.inv then .next s else finish (.ok () s))
  else if b.st == .invalid then finish (.ok () s)
  else .next ((s.onCx (fun x => { x with nb := Map.put x.nb n.toNat { b with inv := true } })).onTh (fun th => { th with part := 1 }))

/-- The NBINVALs of a cycle take effect as it ends (R181). -/
def State.nbInvalidate (s : State) (k : Nat) : State :=
  ((s.ctx k).nb.filter (fun (_, b) => b.inv)).foldl (fun s (n, b) =>
    let b' : Nb := { b with st := if b.st == .invalid then .invalid else if 0 < b.p then .draining else .invalid
                            waiters := [], inval := b.inval + 1, inv := false }
    (s.modCtx k (fun x => { x with nb := Map.put x.nb n b' })).nbWake b.waiters 1) s

/-- The code of a barrier's state (R181). -/
def nbCode : NbSt → Nat
  | .invalid => 0 | .armed => 1 | .draining => 2

/-- NBSTAT: state, I[15:0], E and A (R181). -/
def execNbstat (rd : XReg) (n : BitVec 4) (s : State) : Res :=
  let b := s.nbOf n
  if b.inv then .next s
  else finishX rd (.ok (BitVec.ofNat 64 (nbCode b.st * 2 ^ 62 + (b.i % 2 ^ 16) * 2 ^ 32 + (b.e % 2 ^ 16) * 2 ^ 16 + b.a % 2 ^ 16)) s)

/-! ## The Causeway (R103-R110, R182) -/

/-- The die of the executing hearth. -/
def State.dieNo (s : State) : Nat := s.focus.h / 48

/-- CWARRIVE: one arrival; a third is held until the current instance releases (R106). An arrival on a PHASE channel makes
the member's next block its phase block (R114). -/
def execCwarrive (rs1 : XReg) (s : State) : Res :=
  finish ((ccChan (barrierEntry s.dieNo (s.xr rs1).toNat) [1, 3] s).bind fun n s =>
    (ccRelease 0 1 s).bind fun _ s =>
      match (s.chan n).arrive s.xk s.gcc (s.taskPts s.focus.h s.th.ctx) with
      | none => .wait (s.waiting .causeway)
      | some c =>
        let s := s.modChan n (fun _ => c)
        .ok () (if c.cfg.kind = 3 then s.modGroup s.xk (fun g => { g with phaseNext := some n }) else s))

/-- CWWAIT: returns at the release of the instance that holds the context's latest arrival (R107), also of one that another split makes while
it waits (DESIGN CHOICE, notes/assumptions/107). -/
def execCwwait (rs1 : XReg) (s : State) : Res :=
  finish ((ccChan (barrierEntry s.dieNo (s.xr rs1).toNat) [1, 3] s).bind fun n s =>
    let c := s.chan n
    match Map.find? c.arr s.xk with
    | none => .ok () s
    | some i => if i < c.inst then .ok () (s.acquire c.pts) else .wait (s.waiting .causeway))

/-- A value on its way to a receiver: one reserved entry (R109). -/
def State.bcastSend (s : State) (n : Nat) (v : Word64) : State :=
  let c := s.chan n
  (c.cfg.members.filter (· != c.cfg.sender)).foldl (fun s k =>
    s.modCtx k (fun x => { x with rx := x.rx ++ [{ ch := n, due := s.gcc + chanCost n, v := v }] }))
    (s.modChan n (fun c => { c with held := none }))

/-- Every receiver of a broadcast channel has a free entry (R109). -/
def State.bcastRoom (s : State) (n : Nat) : Bool :=
  let c := s.chan n
  (c.cfg.members.filter (· != c.cfg.sender)).all (fun k => decide (((s.ctx k).rx.filter (fun e => e.ch == n)).length < 4))

/-- CWBCAST: sends rs2 once every receiver has a free entry; held at the sender until then (R109). -/
def execCwbcast (rs1 rs2 : XReg) (s : State) : Res :=
  finish ((ccChan (bcastEntry s.dieNo (s.xr rs1).toNat) [4] s).bind fun n s =>
    let c := s.chan n
    if c.cfg.sender != s.xk then .trap { cause := 0x0C, sub := 4 } s
    else if s.th.part = 1 then (if c.held.isSome then .wait (s.waiting .causeway) else .ok () s)
    else if c.held.isSome then .wait (s.waiting .causeway)
    else if s.bcastRoom n then .ok () (s.bcastSend n (s.xr rs2))
    else .wait ((s.modChan n (fun c => { c with held := some (s.xr rs2) })).onTh (fun th => { th with part := 1 })))

/-- Values of a channel that have arrived fill their entries (R109). -/
def Ctx.settleRx (x : Ctx) (n gcc : Nat) : Ctx :=
  { x with rx := x.rx.map (fun e => if e.ch = n && decide (e.due ≤ gcc) then { e with full := true } else e) }

/-- Remove the first full entry of a channel. -/
def takeRx (n : Nat) : List RxE → Option (Word64 × List RxE)
  | [] => none
  | e :: r => if e.ch = n then (if e.full then some (e.v, r) else none)
      else match takeRx n r with | some (v, r') => some (v, e :: r') | none => none

/-- CWRECV: the oldest value of the member's buffer, waiting while it is empty (R109). -/
def execCwrecv (rd rs1 : XReg) (s : State) : Res :=
  finishX rd ((ccChan (bcastEntry s.dieNo (s.xr rs1).toNat) [4] s).bind fun n s =>
    if (s.chan n).cfg.sender = s.xk then .trap { cause := 0x0C, sub := 4 } s
    else
      let s := s.onCx (fun x => x.settleRx n s.gcc)
      match takeRx n s.cx.rx with
      | some (v, r) => .ok v (s.onCx (fun x => { x with rx := r }))
      | none => .wait (s.waiting .causeway))

/-- A reduction: one contribution to the current instance, or an early one, then the result at the release (R110). -/
def ccReduce (op : Nat) (rs1 rs2 : XReg) (s : State) : Ans Word64 :=
  (ccChan (bcastEntry s.dieNo (s.xr rs1).toNat) [5] s).bind fun n s =>
    let c := s.chan n
    let v : Contrib := { op := op, v := (lo32 (s.xr rs2)).toInt }
    let joined (i : Nat) (s : State) : State := s.onTh (fun th => { th with part := 1, wait := some { kind := .causeway, since := s.gcc, a := i } })
    if s.th.part = 1 then
      let i := match s.th.wait with | some w => w.a | none => 0
      match c.results.find? (fun r => r.1 == i) with
      | some (_, some r) => .ok (BitVec.ofInt 64 r) s
      | some (_, none) => .trap { cause := 0x0C, sub := 4 } s
      | none => .wait s
    else if (Map.find? c.contrib s.xk).isNone then
      .wait (joined c.inst (s.modChan n (fun c => { c with contrib := Map.put c.contrib s.xk v, last := s.gcc })))
    else if (Map.find? c.contribE s.xk).isNone then
      .wait (joined (c.inst + 1) (s.modChan n (fun c => { c with contribE := Map.put c.contribE s.xk v, lastE := s.gcc })))
    else .wait (s.waiting .causeway)

/-- CWRSUM: the exact signed sum, saturated once to 32 bits (R110). -/
def execCwrsum (rd rs1 rs2 : XReg) (s : State) : Res := finishX rd (ccReduce 0 rs1 rs2 s)
/-- CWRMIN: the smallest contribution, signed (R110). -/
def execCwrmin (rd rs1 rs2 : XReg) (s : State) : Res := finishX rd (ccReduce 1 rs1 rs2 s)
/-- CWRMAX: the largest contribution, signed (R110). -/
def execCwrmax (rd rs1 rs2 : XReg) (s : State) : Res := finishX rd (ccReduce 2 rs1 rs2 s)

/-- The exchange writes of a task have been acknowledged: STX operations, and the XCH commands that were launched before a cycle
(R76, R264). -/
def State.exchangeQuiet (s : State) (h c before : Nat) : Bool :=
  (s.group (ckey h c)).ops.all (fun o => o.kind != .stx)
    && (s.eng (qkey h c 1)).cmds.all (fun (_, m) => m.kind != .xch || m.done || m.dead || !m.started || decide (before < m.startAt))

/-- SSTEP: arrives once the blocks pushed before it have finished and their exchange writes are acknowledged, and what they stored has
been released; returns when the halves swap for its own arrival's instance, two cycles after the release (R67, R76, R108). -/
def execSstep (rs1 : XReg) (s : State) : Res :=
  let h := s.focus.h
  let c := s.th.ctx
  finish ((ccChan (barrierEntry s.dieNo (s.xr rs1).toNat) [2] s).bind fun n s =>
    let holds := match (s.hearth h).xwin with | some w => w.ctx == c | none => false
    -- an arrival that has been sent stands
    if decide (s.th.part < 4) && !holds then .trap { cause := 0x0C, sub := 4 } s
    else
      (stage 0 (fun s => if s.drained s.xk && s.exchangeQuiet h c s.triedAt then .ok () s else .wait (s.waiting .causeway)) s).bind fun _ s =>
      (ccRelease 1 1 s).bind fun _ s =>
      (stage 3 (fun s =>
        match (s.chan n).arrive s.xk s.gcc (s.taskPts h c) with
          | none => .wait (s.waiting .causeway)
          | some ch => .ok () ((s.modChan n (fun _ => ch)).onTh (fun th => { th with hold := bytesOf (Map.get 0 ch.arr s.xk) 8 }))) s).bind fun _ s =>
      let ch := s.chan n
      if natOfBytes s.th.hold < ch.swaps then .ok () (s.acquire ch.pts) else .wait (s.waiting .causeway))

/-! ## Scoped memory, fences, marks (R183-R186) -/

/-- Bytes of a width code (R144). -/
def widthOf (w : BitVec 3) : Nat := 2 ^ w.toNat

/-- LDAQ: zero-extending load and acquire at its scope; scope 11 and widths 100-111 are encoding traps (R183, R144). -/
def execLdaq (rd rs1 : XReg) (width : BitVec 3) (cls scope : BitVec 2) (s : State) : Res :=
  if scope = 3#2 || 4 ≤ width.toNat then finishX rd (.trap { cause := 0x01 } s)
  else
    finishX rd ((ccLoad (s.xr rs1).toNat (widthOf width) scope.toNat cls.toNat true s).bind fun d s =>
      .ok (BitVec.ofNat 64 (natOfBytes d)) s)

/-- STRL: release at its scope, or at S scope for host and peer memory, then the store (R183, R59, R67). -/
def execStrl (rs1 rs2 : XReg) (width : BitVec 3) (cls scope : BitVec 2) (s : State) : Res :=
  if scope = 3#2 || 4 ≤ width.toNat then finish (.trap { cause := 0x01 } s)
  else
    let va := (s.xr rs1).toNat
    if va < 2 ^ 52 && misaligned va (widthOf width) then finish (.trap (trapVa 0x0D 0 va) s)
    else finish ((if s.th.part < 2 then ccXlate va .write s else .ok (.dev 0) s).bind fun t s =>
      (ccRelease 0 (t.scopeOf scope.toNat) s).bind fun _ s =>
      ccStore va (bytesOf (s.xr rs2).toNat (widthOf width)) scope.toNat cls.toNat true s)

/-- FENCES: release and acquire at its scope (R184). -/
def execFences (scope : BitVec 2) (s : State) : Res :=
  if scope = 3#2 then finish (.trap { cause := 0x01 } s) else finish (ccRelease 0 scope.toNat s)

/-- A block store drops its bodies and table entries; a table read that is under way is not kept (R185). -/
def State.blockInval (s : State) (h : Nat) : State :=
  (natsFrom 0 8).foldl (fun s t => if (s.thread (tkey h t)).xact.bound.isSome then s.modThread (tkey h t) (fun th => { th with stale := true }) else s)
    (s.modHearth h (fun hh => { hh with bstore := [], btab := [] }))

/-- IINVAL: FENCES at its scope, then the block stores that the scope names drop bodies and table entries (R185). -/
def execIinval (scope : BitVec 2) (s : State) : Res :=
  if scope = 3#2 then finish (.trap { cause := 0x01 } s)
  else
    finish ((ccRelease 0 scope.toNat s).bind fun _ s =>
      if scope = 0#2 then .ok () (s.blockInval s.focus.h)
      else
        let hs := (s.part s.cx.part).hset
        .ok () ((natsFrom 0 192).foldl (fun s h => if hs.testBit h then s.blockInval h else s) s))

/-- TMARK: a MARK packet when traced (R186, R337). -/
def execTmark (imm : BitVec 12) (s : State) : Res :=
  .next (s.emit s.focus.h s.th.ctx s.focus.t 8 imm.toNat []).retire

end Sys2Proof.Machine
end

