-- ==== Sys2Proof/Machine/Flags.lean ====
section
/-! DEFINITION. Numbers and flags: the three floating formats, exact terms, the one rounding helper and its flags, conversions,
elementary functions, bit-plane integers (spec/04 R80-R95; spec/08 R197-R207). -/

namespace Sys2Proof.Machine

/-! ## Formats (R80, R81) -/

/-- A floating format: exponent bits and fraction bits. -/
structure Fmt where
  eb : Nat
  fb : Nat
deriving DecidableEq, Repr

def f32 : Fmt := ⟨8, 23⟩
def f16 : Fmt := ⟨5, 10⟩
def bf16 : Fmt := ⟨8, 7⟩

/-- Exponent bias (R80). -/
def Fmt.bias (f : Fmt) : Nat := 2 ^ (f.eb - 1) - 1
/-- Exponent of the smallest normal number. -/
def Fmt.emin (f : Fmt) : Int := 1 - (f.bias : Int)
/-- Bits of the significand. -/
def Fmt.prec (f : Fmt) : Nat := f.fb + 1
/-- The canonical NaN (R81). -/
def Fmt.canon (f : Fmt) : Nat := (2 ^ f.eb - 1) * 2 ^ f.fb + 2 ^ (f.fb - 1)
/-- An infinity. -/
def Fmt.infBits (f : Fmt) (neg : Bool) : Nat := boolNat neg * 2 ^ (f.eb + f.fb) + (2 ^ f.eb - 1) * 2 ^ f.fb
/-- The largest finite number. -/
def Fmt.maxBits (f : Fmt) (neg : Bool) : Nat := boolNat neg * 2 ^ (f.eb + f.fb) + (2 ^ f.eb - 1) * 2 ^ f.fb - 1
/-- A zero of a sign. -/
def Fmt.zeroBits (f : Fmt) (neg : Bool) : Nat := boolNat neg * 2 ^ (f.eb + f.fb)

/-- A term of an exact expression (R84, R85): a NaN, the product of a zero and an infinity, an infinity, or ± m · 2^e. -/
inductive Term where
  | nan
  | invalid
  | inf (neg : Bool)
  | fin (neg : Bool) (m : Nat) (e : Int)
deriving DecidableEq, Repr

/-- The value of a pattern; with `z` a subnormal reads as the zero of its sign (R88). -/
def Fmt.unpack (f : Fmt) (z : Bool) (x : Nat) : Term :=
  let neg := x.testBit (f.eb + f.fb)
  let ex := (x >>> f.fb) % 2 ^ f.eb
  let fr := x % 2 ^ f.fb
  if ex = 2 ^ f.eb - 1 then (if fr = 0 then .inf neg else .nan)
  else if ex = 0 then (if z then .fin neg 0 0 else .fin neg fr (f.emin - f.fb))
  else .fin neg (2 ^ f.fb + fr) ((ex : Int) - f.bias - f.fb)

/-- The negative of a term. -/
def Term.neg : Term → Term
  | .nan => .nan
  | .invalid => .invalid
  | .inf s => .inf (!s)
  | .fin s m e => .fin (!s) m e

/-- The exact product of two factors (R85). -/
def Term.mul (a b : Term) : Term :=
  match a, b with
  | .nan, _ => .nan
  | _, .nan => .nan
  | .invalid, _ => .invalid
  | _, .invalid => .invalid
  | .inf s, .inf t => .inf (s != t)
  | .inf s, .fin t m _ => if m = 0 then .invalid else .inf (s != t)
  | .fin s m _, .inf t => if m = 0 then .invalid else .inf (s != t)
  | .fin s m e, .fin t n g => .fin (s != t) (m * n) (e + g)

/-! ## The flags (R86) -/

/-- Flag bits of %fflags. -/
def flNV : Nat := 16
def flDZ : Nat := 8
def flOF : Nat := 4
def flUF : Nat := 2
def flNX : Nat := 1

/-! ## Rounding (R82-R85) -/

/-- Whether a truncated magnitude is moved up: low bit, remainder and half of the dropped part. -/
def roundUp (rm : Rm) (neg odd : Bool) (rem half : Nat) : Bool :=
  match rm with
  | .rne => decide (half < rem) || (rem == half && odd)
  | .rtz => false
  | .rdn => neg && decide (0 < rem)
  | .rup => !neg && decide (0 < rem)
  | .rod => decide (0 < rem) && !odd

/-- The magnitude m · 2^e in units of 2^q, rounded under `rm`, and whether it is inexact. -/
def roundAt (rm : Rm) (neg : Bool) (m : Nat) (e q : Int) : Nat × Bool :=
  if q ≤ e then (m * 2 ^ (e - q).toNat, false)
  else
    let sh := (q - e).toNat
    let lo := m / 2 ^ sh
    let rem := m % 2 ^ sh
    (if roundUp rm neg (lo % 2 == 1) rem (2 ^ (sh - 1)) then lo + 1 else lo, rem != 0)

/-- Bits of a natural number. -/
def bitLen (m : Nat) : Nat := if m = 0 then 0 else Nat.log2 m + 1

/-- The pattern of ± m · 2^q, which the format holds exactly. -/
def Fmt.pack (f : Fmt) (neg : Bool) (m : Nat) (q : Int) : Nat :=
  let l := bitLen m
  let s := boolNat neg * 2 ^ (f.eb + f.fb)
  if m = 0 then s
  else
    let ex : Int := l + q - 1
    if f.emin ≤ ex then
      let mant := if l ≤ f.prec then m * 2 ^ (f.prec - l) else m / 2 ^ (l - f.prec)
      s + (ex + f.bias).toNat * 2 ^ f.fb + (mant - 2 ^ f.fb)
    else s + m * 2 ^ (q - (f.emin - f.fb)).toNat

/-- The overflow result (R83). -/
def Fmt.overflow (f : Fmt) (rm : Rm) (neg : Bool) : Nat :=
  match rm with
  | .rne => f.infBits neg
  | .rtz => f.maxBits neg
  | .rdn => if neg then f.infBits neg else f.maxBits neg
  | .rup => if neg then f.maxBits neg else f.infBits neg
  | .rod => f.maxBits neg

/-- rnd of a finite number (R83): the pattern and the flags. A zero keeps the sign given. -/
def rndFin (f : Fmt) (rm : Rm) (z : Bool) (neg : Bool) (m : Nat) (e : Int) : Nat × Nat :=
  if m = 0 then (f.zeroBits neg, 0)
  else
    let q : Int := e + bitLen m - f.prec
    let (r, nx) := roundAt rm neg m e q
    let top : Int := bitLen r + q
    if (f.bias : Int) + 1 < top then (f.overflow rm neg, flOF ||| flNX)
    else if top ≤ f.emin then
      if z then (f.zeroBits neg, flUF ||| flNX)
      else
        let qs : Int := f.emin - f.fb
        let (t, tx) := roundAt rm neg m e qs
        (f.pack neg t qs, if tx then flUF ||| flNX else if nx then flNX else 0)
    else (f.pack neg r q, if nx then flNX else 0)

/-- Every term is the zero of a sign. -/
def allZeros (neg : Bool) (l : List Term) : Bool :=
  l.all (fun t => match t with | .fin s m _ => s == neg && m == 0 | _ => false)

/-- The least exponent of the finite terms. -/
def minExp (l : List Term) : Int :=
  l.foldl (fun a t => match t with | .fin _ _ e => min a e | _ => a) (match l with | .fin _ _ e :: _ => e | _ => 0)

/-- The sum of the finite terms in units of 2^e0. -/
def sumAt (e0 : Int) (l : List Term) : Int :=
  l.foldl (fun a t => match t with
    | .fin s m e => (if s then a - (m * 2 ^ (e - e0).toNat : Nat) else a + (m * 2 ^ (e - e0).toNat : Nat))
    | _ => a) 0

/-- rnd of the exact sum of the terms, special values decided first (R83, R84, R85): the pattern and the flags. -/
def rndSum (f : Fmt) (rm : Rm) (z : Bool) (l : List Term) : Nat × Nat :=
  let has (t : Term) : Bool := l.any (· == t)
  if has .nan then (f.canon, 0)
  else if has .invalid then (f.canon, flNV)
  else if has (.inf true) && has (.inf false) then (f.canon, flNV)
  else if has (.inf true) then (f.infBits true, 0)
  else if has (.inf false) then (f.infBits false, 0)
  else
    let e0 := minExp l
    let y := sumAt e0 l
    if y = 0 then
      (f.zeroBits (if rm = .rdn then !allZeros false l else allZeros true l), 0)
    else rndFin f rm z (decide (y < 0)) y.natAbs e0

/-- The sum of AADDF: rnd(m + c, FP32, RNE, 0) (R220). -/
def addF32 (m c : Nat) : Nat := (rndSum f32 .rne false [f32.unpack false m, f32.unpack false c]).1

/-! ## Conversions (R89) -/

/-- narrow of a term (R89). -/
def narrow (f : Fmt) (rm : Rm) (z : Bool) (t : Term) : Nat × Nat := rndSum f rm z [t]

/-- cvtf: rnd of an integer (R89). -/
def cvtf (f : Fmt) (rm : Rm) (z : Bool) (n : Int) : Nat × Nat := rndFin f rm z (decide (n < 0)) n.natAbs 0

/-- The bounds of an integer of width w. -/
def intLo (w : Nat) (sgn : Bool) : Int := if sgn then -(2 ^ (w - 1) : Int) else 0
def intHi (w : Nat) (sgn : Bool) : Int := if sgn then (2 ^ (w - 1) : Int) - 1 else (2 ^ w : Int) - 1

/-- cvti: the integer and the flags (R89). -/
def cvti (w : Nat) (sgn : Bool) (rm : Rm) (t : Term) : Int × Nat :=
  match t with
  | .nan => (0, flNV)
  | .invalid => (0, flNV)
  | .inf s => (if s then intLo w sgn else intHi w sgn, flNV)
  | .fin s m e =>
    let (r, nx) := roundAt rm s m e 0
    let n : Int := if s then -(r : Int) else r
    if n < intLo w sgn then (intLo w sgn, flNV)
    else if intHi w sgn < n then (intHi w sgn, flNV)
    else (n, if nx then flNX else 0)

/-! ## Elementary functions (R201-R203) -/

/-- ⌊√n⌋, one bit a step from bit i down. -/
def isqrtFrom (n : Nat) : Nat → Nat → Nat
  | 0, r => r
  | i + 1, r => if (r + 2 ^ i) * (r + 2 ^ i) ≤ n then isqrtFrom n i (r + 2 ^ i) else isqrtFrom n i r

/-- ⌊√n⌋. -/
def isqrt (n : Nat) : Nat := isqrtFrom n (bitLen n / 2 + 1) 0

/-- rnd of a number that lies at m · 2^e when `exact`, else strictly between m · 2^e and (m + 1) · 2^e. -/
def rndSticky (f : Fmt) (rm : Rm) (z neg : Bool) (m : Nat) (e : Int) (exact : Bool) : Nat × Nat :=
  rndFin f rm z neg (2 * m + boolNat (!exact)) (e - 1)

/-- An even exponent for a root: the number as m · 2^e with e even. -/
def evenExp (m : Nat) (e : Int) : Nat × Int := if e % 2 = 0 then (m, e) else (2 * m, e - 1)

/-- FSQRT (R202, R203). -/
def fpSqrt (rm : Rm) (z : Bool) (t : Term) : Nat × Nat :=
  match t with
  | .nan => (f32.canon, 0)
  | .invalid => (f32.canon, 0)
  | .inf s => if s then (f32.canon, flNV) else (f32.infBits false, 0)
  | .fin s m e =>
    if m = 0 then (f32.zeroBits s, 0)
    else if s then (f32.canon, flNV)
    else
      let (m, e) := evenExp m e
      let n := m * 2 ^ 80
      let r := isqrt n
      rndSticky f32 rm z false r (e / 2 - 40) (r * r == n)

/-- FRCP (R202, R203). -/
def fpRcp (z : Bool) (t : Term) : Nat × Nat :=
  match t with
  | .nan => (f32.canon, 0)
  | .invalid => (f32.canon, 0)
  | .inf s => (f32.zeroBits s, 0)
  | .fin s m e =>
    if m = 0 then (f32.infBits s, flDZ)
    else rndSticky f32 .rne z s (2 ^ 80 / m) (-e - 80) (2 ^ 80 % m == 0)

/-- FRSQ (R202, R203). -/
def fpRsq (z : Bool) (t : Term) : Nat × Nat :=
  match t with
  | .nan => (f32.canon, 0)
  | .invalid => (f32.canon, 0)
  | .inf s => if s then (f32.canon, flNV) else (f32.zeroBits false, 0)
  | .fin s m e =>
    if m = 0 then (f32.infBits s, flDZ)
    else if s then (f32.canon, flNV)
    else
      let (m, e) := evenExp m e
      let r := isqrt (2 ^ 160 / m)
      rndSticky f32 .rne z false r (-(e / 2) - 80) (r * r * m == 2 ^ 160)

/-- Fraction bits of the fixed-point numbers of the transcendental functions (DEDUCED to suffice, notes/assumptions/8). -/
def fxBits : Nat := 320

/-- Σ x^k / k!, `i` terms from the k-th on, `t` the present term: the exponential in fixed point. -/
def expSum (x : Nat) : Nat → Nat → Nat → Nat
  | 0, _, _ => 0
  | i + 1, k, t => t + expSum x i (k + 1) (t * x / 2 ^ fxBits / (k + 1))

/-- Σ t · z^2k / (2k + 1): the inverse hyperbolic tangent in fixed point, z² given. -/
def atanhSum (z2 : Nat) : Nat → Nat → Nat → Nat
  | 0, _, _ => 0
  | i + 1, k, t => t / (2 * k + 1) + atanhSum z2 i (k + 1) (t * z2 / 2 ^ fxBits)

/-- ln of a fixed-point number in [1, 2): 2 · atanh((x - 1)/(x + 1)). -/
def lnFix (x : Nat) : Nat :=
  let z := (x - 2 ^ fxBits) * 2 ^ fxBits / (x + 2 ^ fxBits)
  2 * atanhSum (z * z / 2 ^ fxBits) 110 0 z

/-- ln 2 in fixed point: 2 · atanh(1/3). -/
def ln2Fix : Nat := 2 * atanhSum (2 ^ fxBits / 9) 110 0 (2 ^ fxBits / 3)

/-- Σ ± t / (n^2k (2k + 1)): the arc tangent of 1/n in fixed point. -/
def atanInv (n : Nat) : Nat → Nat → Nat → Int
  | 0, _, _ => 0
  | i + 1, k, t => (if k % 2 = 0 then (1 : Int) else -1) * ((t / (2 * k + 1) : Nat) : Int) + atanInv n i (k + 1) (t / (n * n))

/-- π in fixed point: 16 atan(1/5) - 4 atan(1/239). -/
def piFix : Nat := (16 * atanInv 5 80 0 (2 ^ fxBits / 5) - 4 * atanInv 239 30 0 (2 ^ fxBits / 239)).toNat

/-- Σ ± x^(2k+1) / (2k+1)!: the sine in fixed point, x² given. -/
def sinSum (x2 : Nat) : Nat → Nat → Nat → Int
  | 0, _, _ => 0
  | i + 1, k, t => (if k % 2 = 0 then (1 : Int) else -1) * (t : Int)
      + sinSum x2 i (k + 1) (t * x2 / 2 ^ fxBits / ((2 * k + 2) * (2 * k + 3)))

/-- sin(π t) for a fixed-point t in [0, 1/2]. -/
def sinPiFix (t : Nat) : Nat :=
  let x := t * piFix / 2 ^ fxBits
  (sinSum (x * x / 2 ^ fxBits) 45 0 x).toNat

/-- The low fixed-point bits that hold the error of the series. -/
def fxDrop : Nat := 24

/-- rnd of an irrational number known in fixed point. -/
def rndFix (z neg : Bool) (v : Nat) (e : Int) : Nat × Nat := rndSticky f32 .rne z neg (v / 2 ^ fxDrop) (e + fxDrop - fxBits) false

/-- FEXP2 (R202, R203). -/
def fpExp2 (z : Bool) (t : Term) : Nat × Nat :=
  match t with
  | .nan => (f32.canon, 0)
  | .invalid => (f32.canon, 0)
  | .inf s => if s then (f32.zeroBits false, 0) else (f32.infBits false, 0)
  | .fin s m e =>
    -- beyond these bounds the result overflows or underflows whatever the fraction
    if 0 < m && decide (8 < bitLen m + e) then rndFin f32 .rne z false 1 (if s then -1000 else 1000)
    else
      let a : Nat := if -(fxBits : Int) ≤ e then m * 2 ^ (e + fxBits).toNat else 0
      let i : Int := if s then -((a : Int) / 2 ^ fxBits) - (if a % 2 ^ fxBits = 0 then 0 else 1) else (a : Int) / 2 ^ fxBits
      let fr : Nat := if s then (2 ^ fxBits - a % 2 ^ fxBits) % 2 ^ fxBits else a % 2 ^ fxBits
      if fr = 0 then rndFin f32 .rne z false 1 i
      else rndFix z false (expSum (fr * ln2Fix / 2 ^ fxBits) 80 0 (2 ^ fxBits)) i

/-- FLOG2 (R202, R203). -/
def fpLog2 (z : Bool) (t : Term) : Nat × Nat :=
  match t with
  | .nan => (f32.canon, 0)
  | .invalid => (f32.canon, 0)
  | .inf s => if s then (f32.canon, flNV) else (f32.infBits false, 0)
  | .fin s m e =>
    if m = 0 then (f32.infBits true, flDZ)
    else if s then (f32.canon, flNV)
    else
      let l := bitLen m
      let i : Int := e + l - 1
      let x := m * 2 ^ (fxBits + 1 - l)
      if x = 2 ^ fxBits then cvtf f32 .rne z i
      else
        let y : Int := i * 2 ^ fxBits + (lnFix x * 2 ^ fxBits / ln2Fix : Nat)
        rndFix z (decide (y < 0)) y.natAbs 0

/-- sin(π a) for a fixed-point |a| modulo 2: sign, magnitude, and whether it is exact. -/
def sinPiMod (a : Nat) : Bool × Nat × Bool :=
  let one := 2 ^ fxBits
  let a := a % (2 * one)
  let (neg, a) := if one ≤ a then (true, a - one) else (false, a)
  let a := if one < 2 * a then one - a else a
  if a = 0 then (neg, 0, true)
  else if 2 * a = one then (neg, one, true)
  else (neg, sinPiFix a, false)

/-- |a| in fixed point modulo 2; an FP32 number is exact there. -/
def fixMod2 (m : Nat) (e : Int) : Nat :=
  if -(fxBits : Int) ≤ e then (if 2 ≤ e then 0 else m * 2 ^ (e + fxBits).toNat % (2 * 2 ^ fxBits)) else 0

/-- FSINPI (R202, R203): an integer gives a zero of its sign. -/
def fpSinPi (z : Bool) (t : Term) : Nat × Nat :=
  match t with
  | .nan => (f32.canon, 0)
  | .invalid => (f32.canon, 0)
  | .inf _ => (f32.canon, flNV)
  | .fin s m e =>
    let (n, v, exact) := sinPiMod (fixMod2 m e)
    if v = 0 then (f32.zeroBits s, 0)
    else if exact then rndFin f32 .rne z (s != n) 1 0
    else rndFix z (s != n) v 0

/-- FCOSPI (R202, R203): n + ½ gives +0. -/
def fpCosPi (z : Bool) (t : Term) : Nat × Nat :=
  match t with
  | .nan => (f32.canon, 0)
  | .invalid => (f32.canon, 0)
  | .inf _ => (f32.canon, flNV)
  | .fin _ m e =>
    let (n, v, exact) := sinPiMod (fixMod2 m e + 2 ^ (fxBits - 1))
    if v = 0 then (f32.zeroBits false, 0)
    else if exact then rndFin f32 .rne z n 1 0
    else rndFix z n v 0

/-- FRND (R201). -/
def fpRnd (rm : Rm) (t : Term) : Nat :=
  match t with
  | .nan => f32.canon
  | .invalid => f32.canon
  | .inf s => f32.infBits s
  | .fin s m e => if m = 0 then f32.zeroBits s else f32.pack s (roundAt rm s m e 0).1 0

/-! ## Comparison and class (R197, R199, R200) -/

/-- a < b for ordered terms; zeros are equal. -/
def Term.lt (a b : Term) : Bool :=
  match a, b with
  | .inf s, .inf t => s && !t
  | .inf s, .fin .. => s
  | .fin .., .inf t => !t
  | .fin s m e, .fin t n g =>
    let e0 := min e g
    let x : Int := (m * 2 ^ (e - e0).toNat : Nat)
    let y : Int := (n * 2 ^ (g - e0).toNat : Nat)
    decide ((if s then -x else x) < (if t then -y else y))
  | _, _ => false

/-- A NaN. -/
def Term.isNan : Term → Bool
  | .nan => true
  | .invalid => true
  | _ => false

/-- FCMP (R197). -/
def fpCmp (c : FloatCond) (a b : Term) : Bool :=
  let un := a.isNan || b.isNan
  let eq := !un && !a.lt b && !b.lt a
  match c with
  | .eq => eq
  | .lt => !un && a.lt b
  | .le => eq || (!un && a.lt b)
  | .un => un
  | .ne => !eq

/-- The pattern of an FP32 operand as a comparison passes it on: a flushed subnormal is the zero of its sign (R199). -/
def flushBits (z : Bool) (x : Nat) : Nat :=
  if z && bitsOf x 30 23 == 0 then f32.zeroBits (x.testBit 31) else x

/-- FMIN and FMAX (R199). -/
def fpMinMax (mx z : Bool) (x y : Nat) : Nat :=
  let a := f32.unpack z x
  let b := f32.unpack z y
  let x := flushBits z x
  let y := flushBits z y
  if a.isNan && b.isNan then f32.canon
  else if a.isNan then y
  else if b.isNan then x
  else if a.lt b then (if mx then y else x)
  else if b.lt a then (if mx then x else y)
  else if mx then (if x.testBit 31 then y else x)
  else (if x.testBit 31 then x else y)

/-- FCLASS of a raw pattern (R200). -/
def fpClass (x : Nat) : Nat :=
  let neg := x.testBit 31
  let ex := bitsOf x 30 23
  let fr := bitsOf x 22 0
  let k :=
    if ex = 255 then
      (if fr = 0 then (if neg then 0 else 7) else if fr.testBit 22 then 9 else 8)
    else if ex = 0 then
      (if fr = 0 then (if neg then 3 else 4) else (if neg then 2 else 5))
    else (if neg then 1 else 6)
  2 ^ k

/-! ## Quantising and planes (R90-R92, R207) -/

/-- FCVTQ: the integer and the flags (R207). -/
def fcvtq (p : Nat) (uns : Bool) (rm : Rm) (t : Term) (e8 : Nat) : Int × Nat :=
  let lo := intLo p (!uns)
  let hi := intHi p (!uns)
  match t with
  | .nan => (0, flNV)
  | .invalid => (0, flNV)
  | .inf s => (if s then lo else hi, flNX)
  | .fin s m e =>
    let (r, nx) := roundAt rm s m (e + 127 - e8) 0
    let n : Int := if s then -(r : Int) else r
    if n < lo then (lo, flNX) else if hi < n then (hi, flNX) else (n, if nx then flNX else 0)

/-- The integer of a P-bit pattern (R90). -/
def bpiInt (x p : Nat) (uns : Bool) : Int :=
  let v := x % 2 ^ p
  if !uns && v.testBit (p - 1) then (v : Int) - 2 ^ p else v

/-- bpi_read: the first k planes, truncated or centred (R92). -/
def bpiRead (x : Int) (p k : Nat) (centred : Bool) : Int :=
  let v := x / 2 ^ (p - k) * 2 ^ (p - k)
  if centred && decide (k < p) then v + 2 ^ (p - k - 1) else v

/-- A number that lies outside FP32 counts as an infinity of its sign, with OF (R94). -/
def rangeTerm (neg : Bool) (m : Nat) (e : Int) : Term × Nat :=
  let l : Int := bitLen m + e
  -- the magnitude exceeds (2^24 - 1) · 2^104
  let big := m != 0 && (decide (128 < l) || (l == 128 && decide ((2 ^ 24 - 1) * 2 ^ (bitLen m - 24) < m * 2 ^ (24 - bitLen m))))
  if big then (.inf neg, flOF) else (.fin neg m e, 0)

end Sys2Proof.Machine
end

