-- ==== Sys2Proof/Machine/Operands.lean ====
section
/-! DEFINITION. How a lane word executes: the running group and block, the register window, source and destination operands,
hazards, the issue of a word and the writing of its result (spec/06 R130-R138; spec/08 R187-R191; spec/14 R297-R307). -/

namespace Sys2Proof.Machine

/-! ## The group that executes -/

/-- Key of the lane group that executes. -/
def State.lk (s : State) : Nat := ckey s.focus.h s.focus.t
/-- The lane group that executes. -/
def State.lg (s : State) : Group := s.group s.lk
/-- Its running block. -/
def State.lb (s : State) : Blk := s.lg.blk.getD {}
/-- Change the lane group that executes. -/
def State.onLg (s : State) (f : Group → Group) : State := s.modGroup s.lk f
/-- Change its running block. -/
def State.onLb (s : State) (f : Blk → Blk) : State := s.onLg (fun g => { g with blk := g.blk.map f })
/-- The task context of the group that executes. -/
def State.lc (s : State) : Ctx := s.ctx s.lk
/-- Its local cycle. -/
def State.lcyc (s : State) : Nat := s.cycle s.focus.h

/-- Lanes of a mask, in ascending order. -/
def lanesOf (m : Word) : List Nat := (natsFrom 0 32).filter (fun l => m.getLsbD l)

/-- The physical register of a code under window and rotation (R307). -/
def physReg (wa k i : Nat) : Nat :=
  let wb := wa % 64
  if i < 112 then (8 * wb + i) % 512 else (8 * wb + 112 + (i - 112 + 16 - k % 16) % 16) % 512

/-- The physical register of a code in the running block. -/
def State.phys (s : State) (i : Nat) : Nat := physReg s.lg.wa s.lb.k i

/-- A lane of a physical register. -/
def Group.vAt (g : Group) (ph l : Nat) : Word := Map.get 0 g.v (32 * ph + l)
/-- Write a lane of a physical register. -/
def Group.setV (g : Group) (ph l : Nat) (x : Word) : Group := { g with v := Map.set 0 g.v (32 * ph + l) x, wrV := g.wrV ||| 2 ^ (ph / 8) }
/-- Predicate p1-p7 of a lane. -/
def Group.pAt (g : Group) (i l : Nat) : Bool := (Map.get 0 g.p i).getLsbD l
/-- Write a predicate bit of a lane (R189). -/
def Group.setP (g : Group) (i l : Nat) (b : Bool) : Group :=
  let m := Map.get 0 g.p i
  { g with p := Map.set 0 g.p i (if b then m ||| (1#32 <<< l) else m &&& ~~~(1#32 <<< l)) }

/-! ## Performance counters (R345) -/

/-- The event that counter n of a group counts: byte 16g + n of PERFSEL, as it stood before the present cycle. -/
def State.perfSel (s : State) (h g n : Nat) : Nat :=
  let p := (s.ctx (ckey h g)).part
  let i := 16 * g + n
  let o := 0x200 + i / 8 * 8
  let hh := s.hearth h
  let was : Option Word64 := if hh.selAt = s.gcc + 1 then Map.find? hh.selWas (p * 64 + i / 8) else none
  bitsOf (was.map BitVec.toNat |>.getD (s.dbg p h o)) (8 * (i % 8) + 7) (8 * (i % 8))

/-- Count an event in the group's counters. -/
def State.perf (s : State) (h g ev amount : Nat) : State :=
  -- event 0x00 counts nothing
  let ns := (natsFrom 0 16).filter (fun n => s.perfSel h g n == ev)
  if ev = 0 || ns.isEmpty then s
  else
    let count (m : Map Word64) : Map Word64 := ns.foldl (fun m n => Map.put m n (Map.get 0 m n + BitVec.ofNat 64 amount)) m
    let now (gr : Group) : Map Nat := if gr.perfAt = s.gcc + 1 then gr.perfNow else []
    s.modGroup (ckey h g) (fun gr => { gr with
      perf := count gr.perf, perfAt := s.gcc + 1, perfNow := ns.foldl (fun m n => Map.put m n (Map.get 0 m n + amount)) (now gr) })

/-- Counter n of a group, counting events up to the cycle before the present one (R345). -/
def State.perfRead (s : State) (h g n : Nat) : Word64 :=
  let gr := s.group (ckey h g)
  Map.get 0 gr.perf n - (if gr.perfAt = s.gcc + 1 then BitVec.ofNat 64 (Map.get 0 gr.perfNow n) else 0)

/-! ## Fixed-latency results (R298, R300) -/

/-- Insert a result behind those that are due no later. -/
def insPend (p : Pend) : List Pend → List Pend
  | [] => [p]
  | q :: r => if p.due < q.due then p :: q :: r else q :: insPend p r

/-- Write one result. -/
def Group.applyPend (g : Group) (p : Pend) : Group :=
  let g := match p.dst with
    | .v ph => p.vals.foldl (fun (g : Group) (q : Nat × Word) => g.setV ph q.1 q.2) g
    | .p i => p.vals.foldl (fun (g : Group) (q : Nat × Word) => g.setP i q.1 (q.2.getLsbD 0)) g
    | .fflags => (match p.vals with | (_, x) :: _ => { g with fflags := x.toNat % 32 } | [] => g)
    | .nothing => g
  { g with fflags := g.fflags ||| p.flags }

/-- Write every result that is due by a local cycle, in the order of the cycles, then of issue. -/
def Group.settle (g : Group) (c : Nat) : Group :=
  let due := (g.pend.filter (fun p => decide (p.due ≤ c))).foldl (fun l p => insPend p l) []
  due.foldl Group.applyPend { g with pend := g.pend.filter (fun p => decide (c < p.due)) }

/-! ## Scratchpad banks (R15, R343) -/

/-- Scratchpad accesses of a requester to bytes at given backing addresses: one for each 16-byte unit, ready for the unit's bank (R15; which
bytes one access serves, notes/assumptions/93). -/
def Hearth.bankAsk (hh : Hearth) (q : Nat) (as : List Nat) : Hearth :=
  { hh with banks := ((as.map (· / 16)).eraseDups).foldl (fun m u => Map.put m (64 * q + u % 64) (Map.get 0 m (64 * q + u % 64) + 1)) hh.banks }

/-- Counter i of the matrix gains 1, up to its limit (R343). -/
def confInc (m : Map Nat) (i : Nat) : Map Nat := Map.put m i (min (2 ^ 32 - 1) (Map.get 0 m i + 1))

/-- One cycle of a bank: it serves one of the requesters that hold an access ready, which is free, and each other one counts a lost cycle
(R15, R343, R345). -/
def State.bankTick (s : State) (h b : Nat) : State :=
  let hh := s.hearth h
  let qs := (natsFrom 0 16).filter (fun q => Map.get 0 hh.banks (64 * q + b) != 0)
  match qs[Config.freeNat s.tick (128 + 64 * h + b) % qs.length]? with
  | none => s
  | some v =>
    let lost := qs.filter (fun q => q != v)
    let s := s.modHearth h (fun hh => { hh with
      banks := Map.set 0 hh.banks (64 * v + b) (Map.get 0 hh.banks (64 * v + b) - 1)
      conf := lost.foldl (fun m q => confInc m (64 * q + b)) hh.conf })
    (lost.filter (fun q => decide (q < 4))).foldl (fun s g => s.perf h g 0x11 1) s

/-- The banks of a hearth in one cycle; and a snapshot that is in T by now counts (R344). -/
def State.banksTick (s : State) (h : Nat) : State :=
  let hh := s.hearth h
  let s := ((hh.banks.map (·.1 % 64)).eraseDups).foldl (fun s b => s.bankTick h b) s
  match hh.bankDue with
  | some t => if t ≤ s.gcc then s.modHearth h (fun hh => { hh with bankDue := none, bankHead := hh.bankHead + 1 }) else s
  | none => s

/-- A loop exit latches the bank-conflict matrix when it is armed for the group and block (R344): one entry of the snapshot
ring, or a missed one. -/
def State.loopExit (s : State) (h g : Nat) (b : Blk) : State :=
  let p := (s.ctx (ckey h g)).part
  let ctl := s.dbg p h 0x240
  let armed := bitOf ctl 0 && bitOf ctl (2 + g) && (!bitOf ctl 18 || bitsOf ctl 17 6 == b.idx)
  if !armed then s
  else
    let hh := s.hearth h
    let n := bitsOf (s.dbg p h 0x250) 16 0
    if hh.bankDue.isSome || decide (n ≤ hh.bankHead - s.dbg p h 0x260) then
      s.modHearth h (fun hh => { hh with bankMiss := hh.bankMiss + 1, bankSkip := hh.bankSkip + 1 })
    else
      let a := bitsOf (s.dbg p h 0x248) 51 6 * 64 + 4160 * (hh.bankHead % n)
      let head := bytesOf s.gcc 8 ++ bytesOf b.seq 2 ++ bytesOf b.idx 2 ++ bytesOf g 1 ++ bytesOf h 1 ++ bytesOf 0 2
        ++ bytesOf hh.bankSkip 4 ++ bytesOf 0 44
      let s := s.hwBytes a head
      let s := (natsFrom 0 1024).foldl (fun s i => s.hwNum (a + 64 + 4 * i) 4 (Map.get 0 hh.conf i)) s
      -- the entry is in T after a free time
      s.modHearth h (fun hh => { hh with
        bankDue := some (s.gcc + 1 + Config.freeNat s.tick 91), bankSkip := 0, conf := if bitOf ctl 1 then [] else hh.conf })

/-- Bring a group to the present cycle: due results are written, and a block whose last word has issued and whose results, PRQ pushes among
them, are written has finished (R164, R344). -/
def State.settleGroup (s : State) (h g : Nat) : State :=
  let k := ckey h g
  let gr := (s.group k).settle (s.cycle h)
  let s := if (s.group k).pend.isEmpty then s else s.modGroup k (fun _ => gr)
  match gr.blk with
  | some b => if b.fin && gr.pend.isEmpty && gr.prets.isEmpty then (s.modGroup k (fun gr => { gr with blk := none })).loopExit h g b else s
  | none => s

/-- A group's block finishes in the present cycle, once the group is brought to it (R344). -/
def State.exitDue (s : State) (k : Nat) : Bool :=
  let gr := s.group k
  match gr.blk with
  | some b => b.fin && (gr.settle (s.cycle (k / 4))).pend.isEmpty && gr.prets.isEmpty
  | none => false

/-! ## Operands (R132-R135, R188) -/

/-- What a word sees of its pass: active and executing lanes, and the flush of subnormals (R41, R187, R88). -/
structure Lw where
  act : Word := 0
  ex : Word := 0
  z : Bool := false
deriving DecidableEq, Repr

/-- A source as read: a value for each lane. -/
abbrev Vals := Nat → Word64

/-- Elements of an iq that a word has popped so far. -/
abbrev Pops := Map Nat

/-- Read a source in all lanes; `wide` asks for 64 bits. `none` when an iq is empty (R132, R133, R188). -/
def readSrc (s : State) (w : Lw) (pc : Pops) (x : Src) (wide : Bool) : Option (Vals × Pops) :=
  let g := s.lg
  let b := s.lb
  let all (v : Word64) : Option (Vals × Pops) := some (fun _ => v, pc)
  let elem (e : List Word) : Vals := fun l => (e.getD l 0).zeroExtend 64
  match x with
  | .v i =>
    let lo := s.phys i.toNat
    let hi := s.phys (i.toNat + 1)
    some (fun l => if wide then join64 (g.vAt lo l) (g.vAt hi l) else (g.vAt lo l).zeroExtend 64, pc)
  | .p i => some (fun l => if (if i = 0#3 then w.act.getLsbD l else g.pAt i.toNat l) then 1 else 0, pc)
  | .iqPop q =>
    let n := Map.get 0 pc q.toNat
    match (Map.get [] g.iq q.toNat)[n]? with
    | some e => some (elem e, Map.put pc q.toNat (n + 1))
    | none => none
  | .iqPeek q =>
    match (Map.get [] g.iq q.toNat)[Map.get 0 pc q.toNat]? with
    | some e => some (elem e, pc)
    | none => none
  | .k i => all (if wide then Map.get 0 g.k i.toNat else (lo32 (Map.get 0 g.k i.toNat)).zeroExtend 64)
  | .lane => some (fun l => BitVec.ofNat 64 l, pc)
  | .grp => all (BitVec.ofNat 64 s.focus.t)
  | .hearth => all (BitVec.ofNat 64 s.focus.h)
  | .pass => all (BitVec.ofNat 64 (b.k % 2 ^ 32))
  | .trip => all (BitVec.ofNat 64 b.n)
  | .gcclo => all (BitVec.ofNat 64 (s.localGcc s.focus.h % 2 ^ 32))
  | .seq => all (BitVec.ofNat 64 b.seq)
  | .fflags => all (BitVec.ofNat 64 g.fflags)
  | .imm i =>
    let v : Word64 := (i - 32#6).signExtend 64
    all (if wide then v else (lo32 v).zeroExtend 64)

/-- Read the sources in order A, B, C (R133). -/
def readSrcs (s : State) (w : Lw) : Pops → List (Src × Bool) → Option (List Vals × Pops)
  | pc, [] => some ([], pc)
  | pc, (x, wide) :: r =>
    match readSrc s w pc x wide with
    | none => none
    | some (v, pc) => match readSrcs s w pc r with
      | none => none
      | some (vs, pc) => some (v :: vs, pc)

/-- Remove the popped elements. -/
def Group.popIqs (g : Group) (pc : Pops) : Group :=
  { g with iq := pc.foldl (fun m (q, n) => Map.put m q ((Map.get [] m q).drop n)) g.iq }

/-- Register codes that a source reads. -/
def srcCodes (x : Src) (wide : Bool) : List Nat :=
  match x with
  | .v i => if wide then [i.toNat, i.toNat + 1] else [i.toNat]
  | _ => []

/-- Predicates p1-p7 that a source reads. -/
def srcPreds : Src → List Nat
  | .p i => if i = 0#3 then [] else [i.toNat]
  | _ => []

/-- Register codes that a destination of `n` registers writes. -/
def dstCodes (d : Dst) (n : Nat) : List Nat :=
  match d with
  | .v i => natsFrom i.toNat n
  | _ => []

/-- The predicate that a destination writes. -/
def dstPreds : Dst → List Nat
  | .p i => [i.toNat]
  | _ => []

/-- What a word reads and writes of registers and predicates, for the checks of R37 and R301. -/
structure Regs where
  rv : List Nat := []
  rp : List Nat := []
  wv : List Nat := []
  wp : List Nat := []
  /-- a source is %fflags -/
  rf : Bool := false
  /-- bank that the word reads (R301 subcause 3) -/
  bank : Option Nat := none
  /-- code of the destination of such a word, as written in the word (R304) -/
  code : Nat := 0
  /-- fixed latency; 0 for a word whose result is counted -/
  lat : Nat := 0
deriving DecidableEq, Repr

/-- A register outside the block's NEED (R37). -/
def Regs.outside (r : Regs) (need : Nat) : Bool :=
  (r.rv ++ r.wv).any (fun i => decide (8 * need ≤ i) && decide (i < 112))

/-! ## Hazards (R300, R301, R304) -/

/-- The fields of a schedule fault. -/
def schedTrap (sub code ph kind word pass sq short no : Nat) : Trap :=
  { cause := 0x02, sub := sub
    d8 := code + ph * 2 ^ 8 + word * 2 ^ 17 + pass * 2 ^ 29
    d9 := sq + (short % 2 ^ 16) * 2 ^ 16 + (no % 2 ^ 32) * 2 ^ 32
    d10 := kind }

/-- The pending result of a register or predicate that is written last. -/
def Group.pendOf (g : Group) (d : PendDst) : Option Pend :=
  g.pend.foldl (fun a p => if p.dst = d then (match a with | some q => if q.due ≤ p.due then some p else a | none => some p) else a) none

/-- The outstanding class-L operation whose destination holds a physical register. -/
def Group.loadOf (g : Group) (ph : Nat) : Option LaneOp := g.ops.find? (fun o => o.cls == .l && !o.done && o.dst.contains ph)

/-- A read of a pending register or predicate (subcause 1). -/
def readHazard (s : State) (r : Regs) : Option Trap :=
  let g := s.lg
  let c := s.lcyc
  let v := r.rv.findSome? (fun i =>
    let ph := s.phys i
    match g.pendOf (.v ph), g.loadOf ph with
    | some p, _ => some (schedTrap 1 i ph 0 p.word p.pass p.seq (p.due - c) 0)
    | none, some o => some (schedTrap 1 i ph 0 o.word o.pass o.seq 0 o.no)
    | none, none => none)
  match v with
  | some t => some t
  | none => r.rp.findSome? (fun i => (g.pendOf (.p i)).map (fun p => schedTrap 1 (0x80 + i) i 1 p.word p.pass p.seq (p.due - c) 0))

/-- MRD or MVER of a bank with an outstanding class-T operation (subcause 3). -/
def bankHazard (s : State) (r : Regs) : Option Trap :=
  match r.bank with
  | none => none
  | some b => (s.lg.ops.reverse.find? (fun o => o.cls == .t && !o.done && o.bank == b)).map
      (fun o => schedTrap 3 r.code b 2 o.word o.pass o.seq 0 o.no)

/-- A write that would be overtaken (subcause 2) or that meets an outstanding load (subcause 4). A class-L word, whose cycle of writing is not
known, is not checked against a pending result (DESIGN CHOICE, notes/assumptions/112). -/
def writeHazard (s : State) (r : Regs) : Option Trap :=
  let g := s.lg
  let c := s.lcyc
  let late (d : PendDst) : Option Pend :=
    if r.lat = 0 then none else match g.pendOf d with | some p => if c + r.lat < p.due then some p else none | none => none
  let v := r.wv.findSome? (fun i =>
    let ph := s.phys i
    match late (.v ph), g.loadOf ph with
    | some p, _ => some (schedTrap 2 i ph 0 p.word p.pass p.seq (p.due - (c + r.lat)) 0)
    | none, some o => some (schedTrap 4 i ph 0 o.word o.pass o.seq 0 o.no)
    | none, none => none)
  match v with
  | some t => some t
  | none => r.wp.findSome? (fun i => (late (.p i)).map (fun p => schedTrap 2 (0x80 + i) i 1 p.word p.pass p.seq (p.due - (c + r.lat)) 0))

/-- The violation of a word, if it has one (R301). -/
def violation (s : State) (r : Regs) : Option Trap :=
  match readHazard s r, bankHazard s r, writeHazard s r with
  | some t, _, _ => some t
  | none, some t, _ => some t
  | none, none, t => t

/-- A register, or %fflags, whose load came back uncorrectable (R213). -/
def poisonHit (s : State) (r : Regs) : Option Poison :=
  s.lg.poisoned.find? (fun q => (r.rf && q.phys == 512) || r.rv.any (fun i => s.phys i == q.phys))

/-! ## Issue (R41, R187, R297, R303) -/

/-- The guard permits the word in this pass: a stage guard that is true, or none (R41). -/
def stageOn (b : Blk) : Guard → Bool
  | .st i => decide (i.toNat < b.tab.s) && decide (i.toNat ≤ b.k) && decide (b.k - i.toNat < b.n)
  | _ => true

/-- The active lanes: the entry mask without the exited lanes (R41). -/
def State.active (s : State) : Word := s.lb.mask &&& ~~~s.lg.exited

/-- The executing lanes of a word (R187). -/
def State.executing (s : State) : Guard → Word
  | .p i => if i = 0#3 then s.active else s.active &&& Map.get 0 s.lg.p i.toNat
  | _ => s.active

/-- The predicate that a guard reads. -/
def guardPreds : Guard → List Nat
  | .p i => if i = 0#3 then [] else [i.toNat]
  | _ => []

/-- The word has issued: the next word of the pass, or the end of the pass (R41, R297). -/
def State.wordDone (s : State) : State :=
  let c := s.lcyc
  let b := s.lb
  let last := decide (b.tab.len ≤ b.w + 1)
  let b' : Blk := if last then { b with w := 0, k := b.k + 1, inPass := false, fin := decide (b.n + b.tab.s ≤ b.k + 2) }
    else { b with w := b.w + 1 }
  (s.onLg (fun g => { g with
    blk := some b', nextIssue := c + 1, suppress := [], unfinished := none, wait := none, nopage := [] })).settleGroup s.focus.h s.focus.t

/-- The word stalls in this local cycle, for a reason that is a performance event, counted in cy (R1, R303, R345). -/
def State.stall (s : State) (ev : Nat) : State :=
  (s.perf s.focus.h s.focus.t ev (s.localSpan s.focus.h)).onLg (fun g => { g with
    nextIssue := s.lcyc + 1, wait := some (g.wait.getD { kind := .other, since := s.gcc, b := ev }) })

/-- The BPLW comparator that matches the word at which the group stands (R333). -/
def State.bplwHit (s : State) : Option Nat :=
  let p := s.lc.part
  let h := s.focus.h
  let b := s.lb
  (natsFrom 0 2).find? (fun j => !s.lg.suppress.contains (16 + j) &&
    let w0 := s.dbg p h (0x60 + 0x10 * j)
    bitOf w0 63 && bitOf w0 (59 + s.focus.t) && bitsOf w0 23 12 == b.idx && bitsOf w0 11 0 == b.w
      && (!bitOf w0 58 || bitsOf (s.dbg p h (0x68 + 0x10 * j)) 32 0 == b.k))

/-- A trap of the word at which the group stands, with the word's executing lanes where the trap names no mask (R416). In a
phase block a stall is such a trap (R114, R117). -/
def laneTrap (ex : Word) (i : Trap) (s : State) : State :=
  s.trapLane s.focus.h s.focus.t { i with mask := if i.mask = 0 then ex.toNat else i.mask }

/-- ph of the group's phase block (R113): cycles since the opening of its phase. -/
def State.ph (s : State) : Nat :=
  match s.lb.phase with
  | some _ => s.gcc - s.lb.t0
  | none => 0

/-- A transfer-phase trap: the first of a phase sends an abort, due C cycles later (R117). -/
def phaseTrap (ex : Word) (sub : Nat) (s : State) : State :=
  let ph := s.ph
  let s := match s.lb.phase with
    | some n => s.modChan n (fun c => c.sendAbort n s.lb.t0 s.gcc)
    | none => s
  laneTrap ex { cause := 0x07, sub := sub, d8 := ph } s

/-- Finish the attempt of a word: it has issued, stalls, or traps. -/
def laneFinish (ex : Word) (a : Ans Unit) : Res :=
  match a with
  | .ok _ s =>
    let s := s.perf s.focus.h s.focus.t 2 1
    let s := if ex = 0 then s else s.perf s.focus.h s.focus.t 3 1
    let s := s.perf s.focus.h s.focus.t 4 (lanesOf ex).length
    .next s.wordDone
  | .wait s => .next (if s.lb.phase.isSome then phaseTrap ex 9 s else s)
  | .trap i s => .next (if i.cause = 0x07 && i.sub != 11 then phaseTrap ex i.sub s else laneTrap ex i s)

/-- A stall of the word. -/
def laneStall (ev : Nat) (s : State) : Ans Unit := .wait (s.stall ev)

/-- The trap for a register whose load came back uncorrectable: it names the load's place (R213). -/
def poisonTrap (q : Poison) : Trap := { cause := q.f.cause, sub := q.f.sub, d8 := q.f.va, pos := some (q.pass * 2 ^ 28 + q.word * 2 ^ 16 + q.seq) }

/-- The issue of a word that a BPLW comparator matches: the trap comes when the word would issue, before any lane executes it; a word that only
stalls stalls (R333). -/
def bplwStop (hit : Option Nat) (s : State) (a : Ans Unit) : Ans Unit :=
  match hit with
  | none => a
  | some j =>
    let t : Ans Unit := .trap { cause := 0x17, sub := 2, d8 := j } s
    match a with
    | .wait u => if u.lg.fault.isNone then a else t
    | _ => t

/-- A word whose guard is on: stalls, then a breakpoint, then violations, then the word itself (R301-R303, R213, R333). -/
def laneIssueOn (hit : Option Nat) (b : Blk) (w : Lw) (srcs : List (Src × Bool)) (r : Regs)
    (pre : Lw → State → Option Nat) (body : Lw → List Vals → State → Ans Unit) (s : State) : Res :=
  let replay := s.lg.unfinished.isSome
  match readSrcs s w [] srcs, (if replay then none else pre w s) with
  | none, _ => laneFinish w.ex (laneStall 0x05 s)
  | _, some ev => laneFinish w.ex (laneStall ev s)
  | some (vs, pc), none =>
    -- a word that is replayed in its unfinished lanes has passed its checks (R212)
    match (if replay then none else violation s r), (if replay then none else poisonHit s r) with
    | some t, _ => laneFinish w.ex (if b.tab.inter then laneStall 0x0A s else bplwStop hit s (.trap t s))
    | none, some q => laneFinish w.ex (bplwStop hit s (.trap (poisonTrap q) s))
    | none, none =>
      laneFinish w.ex (bplwStop hit s ((body w vs s).bind fun _ s => .ok () (if pc.isEmpty then s else s.onLg (fun g => g.popIqs pc))))

/-- The phase of a phase block ends or is aborted in the present cycle: its words issue no more, and the phase's own step traps it (R117). -/
def State.phaseOver (s : State) (b : Blk) : Bool :=
  match b.phase with
  | none => false
  | some n => decide (b.t0 + (s.chan n).cfg.lph ≤ s.gcc)
      || (s.chan n).phases.any (fun p => p.t0 == b.t0 && (match p.abort with | some t => decide (t ≤ s.gcc) | none => false))

/-- ISSUE A LANE WORD: the checks that every word meets, in order; then its sources are read and `body` runs on them; the
elements popped leave their queues when it issues. `inPhase` says that a phase block may hold the word, which must stand at its own phase
cycle (R114, R117); `always` that it issues whatever its guard (R233); `pre` gives a stall of its own (R303). -/
def laneIssue (g : Guard) (inPhase always : Bool) (srcs : List (Src × Bool)) (r : Regs)
    (pre : Lw → State → Option Nat) (body : Lw → List Vals → State → Ans Unit) (s : State) : Res :=
  let s := s.settleGroup s.focus.h s.focus.t
  match s.lg.blk with
  | none => .next s
  | some b =>
    if !b.inPass || decide (s.lcyc < s.lg.nextIssue) || s.lg.fault.isSome || s.phaseOver b then .next s
    else
      let on := stageOn b g
      let w : Lw := { act := s.active, ex := if on then s.executing g else 0, z := !b.tab.inter }
      let r : Regs := { r with
        rv := r.rv ++ (srcs.map (fun x => srcCodes x.1 x.2)).flatten
        rp := r.rp ++ guardPreds g ++ (srcs.map (fun x => srcPreds x.1)).flatten
        rf := r.rf || srcs.any (fun x => x.1 == .fflags) }
      if b.k = 0 && r.outside b.tab.need then laneFinish w.ex (.trap { cause := 0x01 } s)
      else if b.phase.isSome && !inPhase then laneFinish w.ex (.trap { cause := 0x07, sub := 7 } s)
      else if b.phase.isSome && s.ph != 8 + b.k * b.tab.len + b.w then laneFinish w.ex (.trap { cause := 0x07, sub := 9 } s)
      else if !on && !always then laneFinish 0 (.ok () s)
      else
        laneIssueOn (if on && s.lg.unfinished.isNone then s.bplwHit else none) b w srcs r pre body s

/-! ## Results (R86, R133, R187-R190) -/

/-- Stall while the oq of a destination is full (R270). -/
def oqFull (d : Dst) (_ : Lw) (s : State) : Option Nat :=
  match d with
  | .oq q => if 16 ≤ (Map.get [] s.lg.oq q.toNat).length then some 0x06 else none
  | _ => none

/-- A pending entry of the word at which the group stands. -/
def State.pendNow (s : State) (lat flags : Nat) (d : PendDst) (vals : List (Nat × Word)) : Pend :=
  let b := s.lb
  { dst := d, vals := vals, due := s.lcyc + lat, word := b.w, pass := b.k, seq := b.seq, flags := flags }

/-- Write the result of a fixed-latency word: a register or pair, a predicate, an oq entry, %fflags, or nothing, with the
flags of its executing lanes. -/
def writeResult (d : Dst) (wide : Bool) (lat : Nat) (w : Lw) (v : Vals) (flags : Nat) (s : State) : State :=
  let ls := lanesOf w.ex
  let lo := ls.map (fun l => (l, lo32 (v l)))
  let add (ps : List Pend) (s : State) : State := s.onLg (fun g => { g with pend := g.pend ++ ps })
  match d with
  | .v i =>
    let p0 := s.pendNow lat flags (.v (s.phys i.toNat)) lo
    if wide then add [p0, s.pendNow lat 0 (.v (s.phys (i.toNat + 1))) (ls.map (fun l => (l, hi32 (v l))))] s
    else add [p0] s
  | .p i => add [s.pendNow lat flags (.p i.toNat) lo] s
  | .oq q =>
    let e := (natsFrom 0 32).map (fun l => if w.ex.getLsbD l then lo32 (v l) else 0)
    let s := s.onLg (fun g => { g with oq := Map.put g.oq q.toNat (Map.get [] g.oq q.toNat ++ [e]) })
    if flags = 0 then s else add [s.pendNow lat flags .nothing []] s
  | .fflags => add [s.pendNow lat flags .fflags (lo.take 1)] s
  | .discard => if flags = 0 then s else add [s.pendNow lat flags .nothing []] s

/-- A fixed-latency word: `f` gives the values of its executing lanes and their flags. -/
def laneFixed (g : Guard) (inPhase : Bool) (d : Dst) (wide : Bool) (srcs : List (Src × Bool)) (r : Regs) (lat : Nat)
    (f : Lw → List Vals → State → Vals × Nat) (s : State) : Res :=
  let r : Regs := { r with wv := r.wv ++ dstCodes d (if wide then 2 else 1), wp := r.wp ++ dstPreds d, lat := lat }
  laneIssue g inPhase false srcs r (oqFull d) (fun w vs s =>
    let (v, fl) := f w vs s
    .ok () (writeResult d wide lat w v fl s)) s

/-- A word that computes each lane on its own, without flags. -/
def laneMap (g : Guard) (d : Dst) (wide : Bool) (srcs : List (Src × Bool)) (lat : Nat) (f : List Word64 → Word64) (s : State) : Res :=
  laneFixed g true d wide srcs {} lat (fun _ vs _ => (fun l => f (vs.map (fun v => v l)), 0)) s

/-- The union of the flags of the executing lanes (R86). -/
def lanesFlags (w : Lw) (f : Nat → Nat) : Nat := (lanesOf w.ex).foldl (fun a l => a ||| f l) 0

/-- A word that computes each lane on its own, with flags. `f` takes the flush setting and the patterns of the sources. -/
def laneFloat (g : Guard) (d : Dst) (wide : Bool) (srcs : List (Src × Bool)) (lat : Nat) (f : Bool → List Nat → Nat × Nat) (s : State) : Res :=
  laneFixed g true d wide srcs {} lat (fun w vs _ =>
    let at' (l : Nat) : Nat × Nat := f w.z (vs.map (fun v => (v l).toNat))
    (fun l => BitVec.ofNat 64 (at' l).1, lanesFlags w (fun l => (at' l).2))) s

end Sys2Proof.Machine
end

