-- ==== Sys2Proof/Machine/LaneInt.lean ====
section
/-! DEFINITION. The integer, logic, 64-bit and integer comparison words of the lanes (spec/08 R192-R196). -/

namespace Sys2Proof.Machine

/-- A word of one 32-bit source. -/
def alu1 (g : Guard) (d : Dst) (a : Src) (lat : Nat) (f : Word → Word) (s : State) : Res :=
  laneMap g d false [(a, false)] lat (fun l => (f (lo32 (l.getD 0 0))).zeroExtend 64) s

/-- A word of two 32-bit sources. -/
def alu2 (g : Guard) (d : Dst) (a b : Src) (lat : Nat) (f : Word → Word → Word) (s : State) : Res :=
  laneMap g d false [(a, false), (b, false)] lat (fun l => (f (lo32 (l.getD 0 0)) (lo32 (l.getD 1 0))).zeroExtend 64) s

/-- A word of three 32-bit sources. -/
def alu3 (g : Guard) (d : Dst) (a b c : Src) (lat : Nat) (f : Word → Word → Word → Word) (s : State) : Res :=
  laneMap g d false [(a, false), (b, false), (c, false)] lat
    (fun l => (f (lo32 (l.getD 0 0)) (lo32 (l.getD 1 0)) (lo32 (l.getD 2 0))).zeroExtend 64) s

/-- A function of the first two sources as read. -/
def pair2 (f : Word64 → Word64 → Word64) (l : List Word64) : Word64 := f (l.getD 0 0) (l.getD 1 0)

/-- 1 where a condition holds, else 0 (R189). -/
def flagWord (b : Bool) : Word64 := if b then 1 else 0

/-- The bits of LTAB, bit i from the three inputs' bits i (R192). -/
def ltabBits (table : BitVec 8) (a b c : Word) : Word :=
  let m (i : Nat) : Word := if table.getLsbD i then BitVec.allOnes 32 else 0
  let pick (x : Word) (v : Bool) : Word := if v then x else ~~~x
  (natsFrom 0 8).foldl (fun acc i =>
    acc ||| (m i &&& pick a (i % 2 == 1) &&& pick b (i / 2 % 2 == 1) &&& pick c (i / 4 == 1))) 0

/-- W bits of a from bit L on, zero- or sign-extended (R193). -/
def bitField (a : Word) (L W : Nat) (sx : Bool) : Word :=
  let v := bitsOf a.toNat (L + W - 1) L
  if sx && v.testBit (W - 1) then BitVec.ofInt 32 ((v : Int) - 2 ^ W) else BitVec.ofNat 32 v

/-- b with bits [L+W-1:L] replaced by the low W bits of a (R193). -/
def insertField (a b : Word) (L W : Nat) : Word :=
  let m : Word := BitVec.ofNat 32 ((2 ^ W - 1) * 2 ^ L)
  (b &&& ~~~m) ||| ((a <<< L) &&& m)

/-- The condition of ICMP at a width (R196). -/
def intCond {w : Nat} (c : IntCond) (a b : BitVec w) : Bool :=
  match c with
  | .eq => a == b
  | .ne => a != b
  | .lt => a.slt b
  | .ge => !a.slt b
  | .ltu => a.ult b
  | .geu => !a.ult b

/-- NOP (R194). A guard predicate that is pending is a violation at NOP as at any word (R300, R301; DEDUCED, notes/assumptions/102). -/
def execNop (g : Guard) (s : State) : Res :=
  laneIssue g true false [] {} (fun _ _ => none) (fun _ _ s => .ok () s) s

/-- MOV: d ← a (R192). -/
def execMov (g : Guard) (d : Dst) (a : Src) (s : State) : Res :=
  alu1 g d a 2 (fun x => x) s

/-- MOVI: d ← imm32 (R192). -/
def execMovi (g : Guard) (d : Dst) (imm : BitVec 32) (s : State) : Res :=
  laneMap g d false [] 2 (fun _ => imm.zeroExtend 64) s

/-- IADD: (a + b) mod 2^32 (R192). -/
def execIadd (g : Guard) (d : Dst) (a b : Src) (s : State) : Res :=
  alu2 g d a b 2 (fun x y => x + y) s

/-- ISUB: (a - b) mod 2^32 (R192). -/
def execIsub (g : Guard) (d : Dst) (a b : Src) (s : State) : Res :=
  alu2 g d a b 2 (fun x y => x - y) s

/-- IADDI: (a + sext(imm24)) mod 2^32 (R192). -/
def execIaddi (g : Guard) (d : Dst) (a : Src) (imm : BitVec 24) (s : State) : Res :=
  alu1 g d a 2 (fun x => x + imm.signExtend 32) s

/-- IMUL: bits [31:0] of the product (R192). -/
def execImul (g : Guard) (d : Dst) (a b : Src) (s : State) : Res :=
  alu2 g d a b 4 (fun x y => x * y) s

/-- IMULH: bits [63:32] of the signed product (R192). -/
def execImulh (g : Guard) (d : Dst) (a b : Src) (s : State) : Res :=
  alu2 g d a b 4 (fun x y => BitVec.ofInt 32 (x.toInt * y.toInt / 2 ^ 32)) s

/-- IMULHU: bits [63:32] of the unsigned product (R192). -/
def execImulhu (g : Guard) (d : Dst) (a b : Src) (s : State) : Res :=
  alu2 g d a b 4 (fun x y => BitVec.ofNat 32 (x.toNat * y.toNat / 2 ^ 32)) s

/-- IMAD: (a × b + c) mod 2^32 (R192). -/
def execImad (g : Guard) (d : Dst) (a b c : Src) (s : State) : Res :=
  alu3 g d a b c 4 (fun x y z => x * y + z) s

/-- IMIN: the signed smaller (R192). -/
def execImin (g : Guard) (d : Dst) (a b : Src) (s : State) : Res :=
  alu2 g d a b 2 (fun x y => if y.slt x then y else x) s

/-- IMAX: the signed larger (R192). -/
def execImax (g : Guard) (d : Dst) (a b : Src) (s : State) : Res :=
  alu2 g d a b 2 (fun x y => if x.slt y then y else x) s

/-- UMIN: the unsigned smaller (R192). -/
def execUmin (g : Guard) (d : Dst) (a b : Src) (s : State) : Res :=
  alu2 g d a b 2 (fun x y => if y.ult x then y else x) s

/-- UMAX: the unsigned larger (R192). -/
def execUmax (g : Guard) (d : Dst) (a b : Src) (s : State) : Res :=
  alu2 g d a b 2 (fun x y => if x.ult y then y else x) s

/-- IABS: 0x8000_0000 gives itself (R192). -/
def execIabs (g : Guard) (d : Dst) (a : Src) (s : State) : Res :=
  alu1 g d a 2 (fun x => if x.slt 0 then -x else x) s

/-- IADDS: the sum saturated, signed or unsigned (R192, R89). -/
def execIadds (g : Guard) (d : Dst) (a b : Src) (u : Bool) (s : State) : Res :=
  alu2 g d a b 2 (fun x y => if u then BitVec.ofInt 32 (satz ((x.toNat : Int) + y.toNat) 32) else BitVec.ofInt 32 (sats (x.toInt + y.toInt) 32)) s

/-- AND (R192). -/
def execAnd (g : Guard) (d : Dst) (a b : Src) (s : State) : Res :=
  alu2 g d a b 2 (fun x y => x &&& y) s

/-- OR (R192). -/
def execOr (g : Guard) (d : Dst) (a b : Src) (s : State) : Res :=
  alu2 g d a b 2 (fun x y => x ||| y) s

/-- XOR (R192). -/
def execXor (g : Guard) (d : Dst) (a b : Src) (s : State) : Res :=
  alu2 g d a b 2 (fun x y => x ^^^ y) s

/-- ANDN: a AND NOT b (R192). -/
def execAndn (g : Guard) (d : Dst) (a b : Src) (s : State) : Res :=
  alu2 g d a b 2 (fun x y => x &&& ~~~y) s

/-- LTAB: bit i is bit 4c[i] + 2b[i] + a[i] of the table (R192). -/
def execLtab (g : Guard) (d : Dst) (a b c : Src) (table : BitVec 8) (s : State) : Res :=
  alu3 g d a b c 2 (fun x y z => ltabBits table x y z) s

/-- SHL: 0 from a shift of 32 on (R192). -/
def execShl (g : Guard) (d : Dst) (a b : Src) (s : State) : Res :=
  alu2 g d a b 2 (fun x y => if 32 ≤ y.toNat then 0 else x <<< y.toNat) s

/-- SHR: logical, 0 from a shift of 32 on (R192). -/
def execShr (g : Guard) (d : Dst) (a b : Src) (s : State) : Res :=
  alu2 g d a b 2 (fun x y => if 32 ≤ y.toNat then 0 else x >>> y.toNat) s

/-- SAR: arithmetic, copies of the sign from a shift of 32 on (R192). -/
def execSar (g : Guard) (d : Dst) (a b : Src) (s : State) : Res :=
  alu2 g d a b 2 (fun x y => x.sshiftRight (min y.toNat 32)) s

/-- ROTL: by b mod 32 (R192). -/
def execRotl (g : Guard) (d : Dst) (a b : Src) (s : State) : Res :=
  alu2 g d a b 2 (fun x y => x.rotateLeft (y.toNat % 32)) s

/-- CLZ: leading zero bits, 0-32 (R192). -/
def execClz (g : Guard) (d : Dst) (a : Src) (s : State) : Res :=
  alu1 g d a 2 (fun x => BitVec.ofNat 32 (clzNat x.toNat 32)) s

/-- POPC: one bits, 0-32 (R192). -/
def execPopc (g : Guard) (d : Dst) (a : Src) (s : State) : Res :=
  alu1 g d a 2 (fun x => BitVec.ofNat 32 (popNat x.toNat 32)) s

/-- BREV: bit i ← a[31 - i] (R192). -/
def execBrev (g : Guard) (d : Dst) (a : Src) (s : State) : Res :=
  alu1 g d a 2 (fun x => x.reverse) s

/-- BFX: a[L+W-1:L], zero- or sign-extended (R193). -/
def execBfx (g : Guard) (d : Dst) (a : Src) (lsb widthM1 : BitVec 5) (sx : Bool) (s : State) : Res :=
  alu1 g d a 2 (fun x => bitField x lsb.toNat (widthM1.toNat + 1) sx) s

/-- BFI: b with bits [L+W-1:L] replaced by a[W-1:0] (R193). -/
def execBfi (g : Guard) (d : Dst) (a b : Src) (lsb widthM1 : BitVec 5) (s : State) : Res :=
  alu2 g d a b 2 (fun x y => insertField x y lsb.toNat (widthM1.toNat + 1)) s

/-- SEL: a if c = 1, else b (R192). -/
def execSel (g : Guard) (d : Dst) (a b : Src) (c : BitVec 3) (s : State) : Res :=
  alu3 g d a b (.p c) 2 (fun x y z => if z = 1 then x else y) s

/-- IADD64 (R195). -/
def execIadd64 (g : Guard) (d : Dst) (a b : Src) (s : State) : Res :=
  laneMap g d true [(a, true), (b, true)] 4 (pair2 (fun x y => x + y)) s

/-- ISUB64 (R195). -/
def execIsub64 (g : Guard) (d : Dst) (a b : Src) (s : State) : Res :=
  laneMap g d true [(a, true), (b, true)] 4 (pair2 (fun x y => x - y)) s

/-- SHL64: the count is b[31:0]; 0 from 64 on (R195). -/
def execShl64 (g : Guard) (d : Dst) (a b : Src) (s : State) : Res :=
  laneMap g d true [(a, true), (b, false)] 4 (pair2 (fun x y => if 64 ≤ y.toNat then 0 else x <<< y.toNat)) s

/-- SHR64: logical; 0 from 64 on (R195). -/
def execShr64 (g : Guard) (d : Dst) (a b : Src) (s : State) : Res :=
  laneMap g d true [(a, true), (b, false)] 4 (pair2 (fun x y => if 64 ≤ y.toNat then 0 else x >>> y.toNat)) s

/-- IMULW: the full 64-bit product, signed or unsigned (R195). -/
def execImulw (g : Guard) (d : Dst) (a b : Src) (u : Bool) (s : State) : Res :=
  laneMap g d true [(a, false), (b, false)] 4 (pair2 (fun x y =>
    if u then BitVec.ofNat 64 (x.toNat * y.toNat) else BitVec.ofInt 64 ((lo32 x).toInt * (lo32 y).toInt))) s

/-- ICMP (R189, R196). -/
def execIcmp (g : Guard) (c : IntCond) (d : Dst) (a b : Src) (s : State) : Res :=
  laneMap g d false [(a, false), (b, false)] 2 (pair2 (fun x y => flagWord (intCond c (lo32 x) (lo32 y)))) s

/-- ICMP64 (R189, R195, R196). -/
def execIcmp64 (g : Guard) (c : IntCond) (d : Dst) (a b : Src) (s : State) : Res :=
  laneMap g d false [(a, true), (b, true)] 4 (pair2 (fun x y => flagWord (intCond c x y))) s

end Sys2Proof.Machine
end

