-- ==== Sys2Proof/Machine/LaneMem.lean ====
section
/-! DEFINITION. The memory words and atomics of the lanes: addresses, the checks of R211, translation and replay, the operations
they leave outstanding, the scratchpad, exchange windows and private memory (spec/09 R210-R222; spec/03 R56-R58). -/

namespace Sys2Proof.Machine

/-! ## Counted classes (R232, R305) -/

/-- Number of a counted class. -/
def OpCls.code : OpCls → Nat
  | .l => 0 | .s => 1 | .t => 2

/-- Outstanding operations of a class. -/
def Group.outstanding (g : Group) (c : OpCls) : Nat := (g.ops.filter (fun o => o.cls == c)).length

/-- An operation leaves the count when it has completed and every earlier one of its class has left (R305). `seen` lists the
classes of earlier operations that stay. -/
def retireOps (seen : List OpCls) : List LaneOp → List LaneOp
  | [] => []
  | o :: r => if o.done && !seen.contains o.cls then retireOps seen r else o :: retireOps (o.cls :: seen) r

/-- Retire the completed operations of a group. -/
def Group.retire (g : Group) : Group := { g with ops := retireOps [] g.ops }

/-- Stall at 64 outstanding operations of a class (R232). -/
def classFull (c : OpCls) (s : State) : Option Nat := if 64 ≤ s.lg.outstanding c then some 0 else none

/-- Issue an operation of the executing group at the word at which it stands. -/
def State.addOp (s : State) (o : LaneOp) : State :=
  let b := s.lb
  let n := Map.get 0 s.lg.issued o.cls.code
  s.onLg (fun g => { g with
    nextOp := g.nextOp + 1
    issued := Map.put g.issued o.cls.code (n + 1)
    ops := g.ops ++ [{ o with id := g.nextOp, no := n, seq := b.seq, word := b.w, pass := b.k, pos := b.pos }] })

/-! ## Addresses (R131, R210) -/

/-- The offset of the LM format: the offset source extended and shifted, plus the immediate. -/
def lmOff (m : Lm) (off : Word64) : Word64 :=
  ((if m.sx then (lo32 off).signExtend 64 else (lo32 off).zeroExtend 64) <<< m.shift.toNat) + m.imm.signExtend 64

/-- The address of a global word: modulo 2^64. -/
def lmGlobal (m : Lm) (base off : Word64) : Nat := (base + lmOff m off).toNat

/-- The address of a word with a 32-bit base, or of STX with base 0: modulo 2^32. -/
def lmLocal (m : Lm) (base off : Word64) : Nat := (lo32 (base + lmOff m off)).toNat

/-- The bits of a mask of lanes. -/
def maskOf (ls : List Nat) : Nat := ls.foldl (fun a l => a + 2 ^ l) 0

/-- A trap of the lanes that fail a check, with the subcause and address of the lowest (R211). -/
def laneFail (cause : Nat) (fails : List (Nat × Nat × Nat)) : Trap :=
  { cause := cause, sub := (fails.head?.map (fun f => f.2.1)).getD 0, mask := maskOf (fails.map (·.1)),
    d8 := (fails.head?.map (fun f => f.2.2)).getD 0 }

/-- The WATCH comparators, tested before any lane accesses (R333). -/
def laneWatch (ls : List (Nat × Nat)) (n : Nat) (ld st : Bool) (s : State) : Option Trap :=
  let p := s.lc.part
  let hit (l : Nat × Nat) : Option Nat := s.watchHit p s.focus.h s.focus.t l.2 n ld st s.lg.suppress
  match (ls.filterMap hit).foldl (fun a j => match a with | some i => some (min i j) | none => some j) none with
  | none => none
  | some j =>
    -- the mask holds the lanes that match the lowest comparator, whatever others match too (R333)
    let off := (natsFrom 0 8).filterMap (fun i => if i = j then none else some (3 * 8 + i))
    let its (l : Nat × Nat) : Bool := (s.watchHit p s.focus.h s.focus.t l.2 n ld st off).isSome
    some { cause := 0x17, sub := 3, d8 := j, mask := maskOf ((ls.filter its).map (·.1)) }

/-! ## Global accesses (R211, R212) -/

/-- How one lane's address translated. -/
inductive LaneXl where
  | ok (t : Tgt)
  | miss
  /-- a walk has found no valid entry -/
  | noPage
  | bad (cause sub : Nat)
deriving DecidableEq, Repr

/-- Translate a lane's address, with what the walks made for this word have found. -/
def State.laneXl (s : State) (va : Nat) (acc : Acc) : LaneXl :=
  match s.lg.xfs.find? (fun f => f.va / 4096 == va / 4096) with
  | some f => .bad f.cause f.sub
  | none => go
where go : LaneXl :=
  match s.reach s.focus.h s.lc.part va acc with
  | .ok t => .ok t
  | .bad c u => .bad c u
  | .miss => if s.lg.nopage.any (fun q => q.va / 4096 == va / 4096) then .noPage else .miss

/-- The access of each lane of a word: address, first operand, second operand. -/
structure LaneArgs where
  va : Nat → Nat
  a : Nat → Nat := fun _ => 0
  b : Nat → Nat := fun _ => 0

/-- Mark the accesses of the word's operation that have translated. -/
def markReady (o : LaneOp) (ok : List (Nat × Tgt)) : LaneOp :=
  { o with acc := o.acc.map (fun c => match ok.find? (fun q => q.1 == c.lane) with
      | some q => { c with ready := true, tgt := q.2 }
      | none => c) }

/-- An operation that the word at which the group stands has issued (R212). -/
def State.issuedHere (s : State) (o : LaneOp) : Bool :=
  let b := s.lb
  o.seq == b.seq && o.word == b.w && o.pass == b.k && o.cls != .t && o.pos == b.pos

/-- A WORD THAT ACCESSES MEMORY BY VIRTUAL ADDRESS: the checks of R211 over every executing lane, then translation; lanes that
translate are issued as one operation, and a word with lanes that do not is left standing with those lanes (R212). `early` are
lanes that already fail a range check. -/
def laneAccess (w : Lw) (o : LaneOp) (acc : Acc) (early : Nat → Option (Nat × Nat)) (x : LaneArgs) (s : State) : Ans Unit :=
  let first := s.lg.unfinished.isNone
  let ls := lanesOf (s.lg.unfinished.getD w.ex)
  let mis := ls.filter (fun l => misaligned (x.va l) o.width)
  if !mis.isEmpty then .trap (laneFail 0x0D (mis.map (fun l => (l, 0, x.va l)))) s
  else
    let xs := ls.map (fun l => (l, match early l with
      | some (c, u) => LaneXl.bad c u
      | none => s.laneXl (x.va l) acc))
    let missing := xs.filterMap (fun (l, r) => match r with | .miss => some l | _ => none)
    let bads := xs.filterMap (fun (l, r) => match r with | .bad c u => some (c, l, u, x.va l) | _ => none)
    match missing with
    | l :: _ =>
      if s.lg.walking then laneStall 0x09 s
      else laneStall 0x09 ((s.askWalk s.focus.h s.lc.part (x.va l) acc (.group s.focus.h s.focus.t)).onLg
        (fun g => { g with walking := true }))
    | [] =>
      match bads with
      | (c0, _) :: _ =>
        -- a failed check outranks what a walk found, in whichever lane (R211)
        let c := if bads.any (fun q => q.1 == 0x0C) then 0x0C else c0
        .trap (laneFail c ((bads.filter (fun q => q.1 == c)).map (·.2))) s
      | [] =>
        let ok := xs.filterMap (fun (l, r) => match r with | .ok t => some (l, t) | _ => none)
        let gone := ls.filter (fun l => !ok.any (fun q => q.1 == l))
        match (if first then laneWatch (ls.map (fun l => (l, x.va l))) o.width (acc != .write) (acc != .read) s else none) with
        | some t => .trap t s
        | none =>
          let s :=
            if first then
              -- a word with no executing lane is one operation that completes at once (R232)
              if ls.isEmpty && o.oq.isNone then (s.addOp { o with done := true }).onLg Group.retire
              else s.addOp (markReady { o with acc := ls.map (fun l => { lane := l, va := x.va l, a := x.a l, b := x.b l }) } ok)
            else s.onLg (fun g => { g with ops := g.ops.map (fun p => if s.issuedHere p then markReady p ok else p) })
          match gone with
          | [] => .ok () s
          | l :: _ =>
            let q := (s.lg.nopage.find? (fun q => q.va / 4096 == x.va l / 4096)).getD {}
            let code := match acc with | .read => 0 | .write => 1 | .atomic => 2 | .fetch => 3
            let (s, tok) := s.parkFault s.lc.part s.focus.h s.focus.t 1 (.group s.focus.h s.focus.t) (x.va l) code q.level q.reason q.tid q.tile
            .wait ((s.onLg (fun g => { g with
              fault := some tok, nopage := [], unfinished := some (BitVec.ofNat 32 (maskOf gone)) })).stall 0x09)

/-- A value given for each lane by sources already read. -/
def valAt (vs : List Vals) (i l : Nat) : Word64 := (vs.getD i (fun _ => 0)) l

/-- Physical registers of a destination of n registers. -/
def State.physOf (s : State) (d : Dst) (n : Nat) : List Nat := (dstCodes d n).map s.phys

/-- The oq of a destination. -/
def dstOq : Dst → Option Nat
  | .oq q => some q.toNat
  | _ => none

/-- A global load of n bytes (R214). -/
def laneLoad (g : Guard) (m : Lm) (d : Dst) (base off : Src) (n : Nat) (sgn : Bool) (s : State) : Res :=
  let regs := if n = 8 then 2 else 1
  laneIssue g false false [(base, true), (off, false)] { wv := dstCodes d regs } (fun _ s => classFull .l s)
    (fun w vs s =>
      laneAccess w { cls := .l, kind := .load sgn, width := n, scope := m.scope.toNat, acls := m.cls.toNat,
                     dst := s.physOf d regs, oq := dstOq d, ff := d == .fflags } .read (fun _ => none)
        { va := fun l => lmGlobal m (valAt vs 0 l) (valAt vs 1 l) } s) s

/-- A global store of n bytes (R214, R215). -/
def laneStore (g : Guard) (m : Lm) (base off c : Src) (n : Nat) (s : State) : Res :=
  laneIssue g false false [(base, true), (off, false), (c, n == 8)] {} (fun _ s => classFull .s s)
    (fun w vs s =>
      laneAccess w { cls := .s, kind := .store, width := n, scope := m.scope.toNat, acls := m.cls.toNat } .write (fun _ => none)
        { va := fun l => lmGlobal m (valAt vs 0 l) (valAt vs 1 l), a := fun l => (valAt vs 2 l).toNat % 2 ^ (8 * n) } s) s

/-- An atomic on 4 bytes with operand c (R220). -/
def laneAtomic (op : AtOp) (g : Guard) (m : Lm) (d : Dst) (base off c : Src) (s : State) : Res :=
  laneIssue g false false [(base, true), (off, false), (c, false)] { wv := dstCodes d 1 } (fun _ s => classFull .l s)
    (fun w vs s =>
      laneAccess w { cls := .l, kind := .atomic op, width := 4, scope := m.scope.toNat, acls := m.cls.toNat,
                     dst := s.physOf d 1, oq := dstOq d, ff := d == .fflags } .atomic (fun _ => none)
        { va := fun l => lmGlobal m (valAt vs 0 l) (valAt vs 1 l), a := fun l => (valAt vs 2 l).toNat % 2 ^ 32 } s) s

/-- The number that consecutive registers of a lane hold, the low word first (R188, R221). -/
def State.regsAt (s : State) (v n l : Nat) : Nat :=
  (natsFrom 0 n).foldl (fun a i => a + (s.lg.vAt (s.phys (v + i)) l).toNat * 2 ^ (32 * i)) 0

/-- A compare-and-swap of n registers: D holds the compare value and receives the old one (R221). -/
def laneCas (g : Guard) (m : Lm) (v : Nat) (base off : Src) (n : Nat) (srcC : List (Src × Bool)) (creg : Option Nat) (s : State) : Res :=
  laneIssue g false false ([(base, true), (off, false)] ++ srcC)
    { rv := natsFrom v n ++ (match creg with | some c => natsFrom c n | none => []), wv := natsFrom v n }
    (fun _ s => classFull .l s)
    (fun w vs s =>
      laneAccess w { cls := .l, kind := .atomic .cas, width := 4 * n, scope := m.scope.toNat, acls := m.cls.toNat,
                     dst := (natsFrom v n).map s.phys } .atomic (fun _ => none)
        { va := fun l => lmGlobal m (valAt vs 0 l) (valAt vs 1 l)
          a := fun l => s.regsAt v n l
          b := fun l => match creg with | some c => s.regsAt c n l | none => (valAt vs 2 l).toNat % 2 ^ 32 } s) s

/-! ## The scratchpad and the exchange window (R56, R57, R216, R217) -/

/-- The scratchpad byte that backs a local address: `none` for an address outside the scratchpad or in the upper half of the
exchange window. -/
def Hearth.padAddr (hh : Hearth) (a : Nat) : Option Nat :=
  if 0x400000 ≤ a then none
  else
    match hh.xwin with
    | some x =>
      if x.base ≤ a && decide (a < x.base + x.size) then
        (if a < x.base + x.size / 2 then some (if x.swapped then a + x.size / 2 else a) else none)
      else some a
    | none => some a

/-- The scratchpad byte that backs offset o of the shadow half. -/
def Xwin.shadowAddr (x : Xwin) (o : Nat) : Nat := x.base + (if x.swapped then o else x.size / 2 + o)

/-- A number of n bytes at backing bytes of the scratchpad. -/
def Hearth.padNum (hh : Hearth) (a n : Nat) : Nat := natOfBytes ((natsFrom a n).map (Map.get 0 hh.pad))

/-- Put bytes at backing bytes of the scratchpad. -/
def Hearth.putPad : Hearth → Nat → List Byte → Hearth
  | hh, _, [] => hh
  | hh, a, b :: r => Hearth.putPad { hh with pad := Map.set 0 hh.pad a b } (a + 1) r

/-- Write bytes at backing bytes of the scratchpad: a tile that the feeder holds of them is held no longer (R17), and they can be read again
(notes/assumptions/66). -/
def Hearth.setPad (hh : Hearth) (a : Nat) (bs : List Byte) : Hearth :=
  let t : Hearth := { hh with
    badPad := if hh.badPad.isEmpty then [] else hh.badPad.filter (fun b => !(decide (a ≤ b) && decide (b < a + bs.length)))
    feed := hh.feed.filter (fun (_, rows) => !rows.any (fun r => meets r.1 r.2 a bs.length)) }
  t.putPad a bs

/-- The scratchpad granules that a task has written since its dispatch or restore (R414). -/
def State.wrotePad (s : State) (k a n : Nat) : State :=
  s.modCtx k (fun x => { x with wrGran :=
    [a / 4096, (a + n - 1) / 4096].foldl (fun l g => if l.contains g then l else l ++ [g]) x.wrGran })

/-- The checks of LDS and STS over the executing lanes: alignment, then range (R211). -/
def padCheck (w : Lw) (va : Nat → Nat) (s : State) : Option Trap :=
  let ls := lanesOf w.ex
  let mis := ls.filter (fun l => misaligned (va l) 4)
  let out := ls.filter (fun l => ((s.hearth s.focus.h).padAddr (va l)).isNone)
  if !mis.isEmpty then some (laneFail 0x0D (mis.map (fun l => (l, 0, va l))))
  else if !out.isEmpty then some (laneFail 0x0C (out.map (fun l => (l, 1, va l))))
  else none

/-- A free order of a list: each next element is a free choice (R60, R69). -/
def freeOrder {α : Type} (seed : Nat) : Nat → List α → List α
  | 0, l => l
  | _ + 1, [] => []
  | _ + 1, [a] => [a]
  | f + 1, l =>
    let i := Config.freeNat seed f % l.length
    (match l[i]? with
     | some a => a :: freeOrder seed f (dropAt l i)
     | none => l)

/-- Local addresses that an outstanding MSCAT of the executing group has still to store to: an LDS or STS of them stands behind it in program
order, and waits (R60, R63, R253; notes/assumptions/94). -/
def State.scatters (s : State) (va : Nat → Nat) (w : Lw) : Bool :=
  s.lg.ops.any (fun o => !o.done && (match o.tile with
    | some (.mscat _ f) => o.lanes.any (fun r => (lanesOf w.ex).any (fun l =>
        meets r.2.toNat (32 * (match f with | .f32 => 4 | _ => 2)) (va l) 4))
    | _ => false))

/-- The bytes that an STS replaces are kept for the MMAs of the group that have been issued before it and have not read them (R60, R63). -/
def Group.keepRows (g : Group) (a : Nat) (old : List Byte) : Group :=
  { g with ops := g.ops.map (fun o => match o.done, o.tile with
      | false, some (.mma ..) => { o with keep := (old.zipIdx).foldl (fun m q =>
          if (Map.find? m (a + q.2)).isSome then m else Map.put m (a + q.2) q.1) o.keep }
      | _, _ => o) }

/-- Bytes of the scratchpad from one that cannot be read (R439). -/
def Hearth.padBad (hh : Hearth) (a n : Nat) : Bool := hh.badPad.any (fun b => decide (a ≤ b) && decide (b < a + n))

/-- An LDS that meets bytes that cannot be read writes no lane: its destination traps whoever reads it; one that is no register traps at the LDS
(R213, R417, R439; notes/assumptions/66). -/
def ldsBad (d : Dst) (va : Nat) (bad : List Nat) (s : State) : Ans Unit :=
  let f : Xfault := { cause := 0x0F, sub := 0, va := va }
  match dstCodes d 1 with
  | [] => .trap { cause := 0x0F, d8 := va, mask := maskOf bad } s
  | _ => .ok () (s.onLg (fun g => { g with poisoned := g.poisoned ++ (s.physOf d 1).map (fun ph =>
      ({ phys := ph, f := f, no := 2 ^ 32, word := s.lb.w, pass := s.lb.k, seq := s.lb.seq } : Poison)) }))

/-- LDS: 4 bytes of the scratchpad, read as the word issues, also ahead of earlier accesses of the group to other memory (R216, R303; DEDUCED,
notes/assumptions/109). -/
def execLds (g : Guard) (m : Lm) (d : Dst) (base off : Src) (s : State) : Res :=
  laneIssue g true false [(base, false), (off, false)] { wv := dstCodes d 1, lat := 24 } (oqFull d) (fun w vs s =>
    let va (l : Nat) : Nat := lmLocal m (valAt vs 0 l) (valAt vs 1 l)
    match padCheck w va s with
    | some t => .trap t s
    | none =>
      let hh := s.hearth s.focus.h
      let at' (l : Nat) : Nat := (hh.padAddr (va l)).getD 0
      if s.scatters va w || s.rowHeld s.focus.h true ((lanesOf w.ex).map at') then laneStall 0x0B s
      else
        let s := s.modHearth s.focus.h (fun hh => hh.bankAsk s.focus.t ((lanesOf w.ex).map at'))
        match (lanesOf w.ex).filter (fun l => hh.padBad (at' l) 4) with
        | l :: r => ldsBad d (va l) (l :: r) s
        | [] => .ok () (writeResult d false 24 w (fun l => BitVec.ofNat 64 (hh.padNum (at' l) 4)) 0 s)) s

/-- STS: 4 bytes to the scratchpad (R216); lanes that write common bytes are performed in a free order (R60). -/
def execSts (g : Guard) (m : Lm) (base off c : Src) (s : State) : Res :=
  laneIssue g true false [(base, false), (off, false), (c, false)] {} (fun _ _ => none) (fun w vs s =>
    let va (l : Nat) : Nat := lmLocal m (valAt vs 0 l) (valAt vs 1 l)
    match padCheck w va s with
    | some t => .trap t s
    | none =>
      let at' (s : State) (l : Nat) : Nat := ((s.hearth s.focus.h).padAddr (va l)).getD 0
      let put (s : State) (l : Nat) : State :=
        let a := at' s l
        let s := s.onLg (fun g => g.keepRows (va l) ((natsFrom a 4).map (Map.get 0 (s.hearth s.focus.h).pad)))
        (s.modHearth s.focus.h (fun hh => hh.setPad a (bytesOf (valAt vs 2 l).toNat 4))).wrotePad s.lk a 4
      if s.scatters va w || s.rowHeld s.focus.h true ((lanesOf w.ex).map (at' s)) then laneStall 0x0B s
      else
        let s := s.modHearth s.focus.h (fun hh => hh.bankAsk s.focus.t ((lanesOf w.ex).map (at' s)))
        .ok () ((freeOrder s.tick 32 (lanesOf w.ex)).foldl put s)) s

/-- The size of a hearth's exchange window as another hearth knows it (R156). -/
def State.winSize (s : State) (h target : Nat) : Nat :=
  if h = target || decide (1000 ≤ h) then (match (s.hearth target).xwin with | some x => x.size | none => 0)
  else Map.get 0 (s.hearth h).xseen target

/-- A target that STX and XCH refuse (R217): no hearth of the partition, no window, or at or above W/2. -/
def State.badXTarget (s : State) (h p target o n : Nat) : Bool :=
  decide (191 < target) || !(s.part p).hset.testBit target || decide (s.winSize h target / 2 < o + n)

/-- An exchange write sets out for its target (R11, R217). -/
def State.sendStx (s : State) (q : Stx) : State := { s with stxs := s.stxs ++ [{ q with due := s.gcc + transit (stopOf q.src) (.hearth q.t) }] }

/-- STX: 4 bytes into the shadow half of another hearth's exchange window (R217). -/
def execStx (g : Guard) (m : Lm) (target off c : Src) (s : State) : Res :=
  laneIssue g false false [(target, false), (off, false), (c, false)] {} (fun _ s => classFull .s s) (fun w vs s =>
    let ls := lanesOf w.ex
    let o (l : Nat) : Nat := lmLocal m 0 (valAt vs 1 l)
    let tg (l : Nat) : Nat := (valAt vs 0 l).toNat % 256
    let mis := ls.filter (fun l => misaligned (o l) 4)
    let out := ls.filter (fun l => s.badXTarget s.focus.h s.lc.part (tg l) (o l) 4)
    if !mis.isEmpty then .trap (laneFail 0x0D (mis.map (fun l => (l, 0, o l)))) s
    else if !out.isEmpty then .trap (laneFail 0x0C (out.map (fun l => (l, 1, o l)))) s
    else
      -- it counts in class S; the writes set out by LANE_STORE_COMPLETE
      .ok () ((s.addOp { cls := .s, kind := .stx, done := ls.isEmpty, acc := ls.map (fun l =>
        { lane := l, va := o l, a := tg l, b := (lo32 (valAt vs 2 l)).toNat, ready := true }) }).onLg Group.retire)) s

/-! ## Private memory (R58, R218) -/

/-- The address of a private byte of a lane. -/
def privAddr (base l o : Nat) : Nat := base + o / 4 * 128 + 4 * l + o % 4

/-- LDP and STP: private offset o of each lane at H scope; an offset at or past PSIZE fails the range check (R58, R211). -/
def lanePriv (w : Lw) (vs : List Vals) (m : Lm) (o : LaneOp) (acc : Acc) (s : State) : Ans Unit :=
  let off (l : Nat) : Nat := lmLocal m (valAt vs 0 l) (valAt vs 1 l)
  let base := s.pbase s.lc.part s.focus.h s.focus.t
  laneAccess w { o with width := 4, acls := m.cls.toNat, scope := 0 } acc
    (fun l => if s.psize s.lc.part ≤ off l then some (0x0C, 1) else none)
    { va := fun l => privAddr base l (off l), a := fun l => (valAt vs 2 l).toNat % 2 ^ 32 } s

/-- LDP (R218). -/
def execLdp (g : Guard) (m : Lm) (d : Dst) (base off : Src) (s : State) : Res :=
  laneIssue g false false [(base, false), (off, false)] { wv := dstCodes d 1 } (fun _ s => classFull .l s) (fun w vs s =>
    lanePriv w vs m { cls := .l, kind := .priv false, dst := s.physOf d 1, oq := dstOq d, ff := d == .fflags } .read s) s

/-- STP (R218). -/
def execStp (g : Guard) (m : Lm) (base off c : Src) (s : State) : Res :=
  laneIssue g false false [(base, false), (off, false), (c, false)] {} (fun _ s => classFull .s s) (fun w vs s =>
    lanePriv w vs m { cls := .s, kind := .priv true } .write s) s

/-! ## The words -/

/-- LDB (R214). -/
def execLdb (g : Guard) (m : Lm) (d : Dst) (base off : Src) (s : State) : Res := laneLoad g m d base off 1 false s
/-- LDBS (R214). -/
def execLdbs (g : Guard) (m : Lm) (d : Dst) (base off : Src) (s : State) : Res := laneLoad g m d base off 1 true s
/-- LDH (R214). -/
def execLdh (g : Guard) (m : Lm) (d : Dst) (base off : Src) (s : State) : Res := laneLoad g m d base off 2 false s
/-- LDHS (R214). -/
def execLdhs (g : Guard) (m : Lm) (d : Dst) (base off : Src) (s : State) : Res := laneLoad g m d base off 2 true s
/-- LDW (R214). -/
def execLdw (g : Guard) (m : Lm) (d : Dst) (base off : Src) (s : State) : Res := laneLoad g m d base off 4 false s
/-- LDD: the low word to the even register (R214). -/
def execLdd (g : Guard) (m : Lm) (d : Dst) (base off : Src) (s : State) : Res := laneLoad g m d base off 8 false s
/-- STB (R214). -/
def execStb (g : Guard) (m : Lm) (base off c : Src) (s : State) : Res := laneStore g m base off c 1 s
/-- STH (R214). -/
def execSth (g : Guard) (m : Lm) (base off c : Src) (s : State) : Res := laneStore g m base off c 2 s
/-- STW (R214). -/
def execStw (g : Guard) (m : Lm) (base off c : Src) (s : State) : Res := laneStore g m base off c 4 s
/-- STD (R214). -/
def execStd (g : Guard) (m : Lm) (base off c : Src) (s : State) : Res := laneStore g m base off c 8 s

/-- An address that fails its translation is dropped by a PREF: it is noted, and the word goes on (R219). -/
def State.prefDrop (s : State) : State :=
  if s.lg.xfs.isEmpty then s else s.onLg (fun g => { g with xfs := [], nopage := g.nopage ++ g.xfs.map (fun f => { va := f.va }) })

/-- PREF: a read of the line on its way for nobody, unless the L1 holds it under a lease; a TLB miss stalls the word, and an address that
fails is dropped (R212, R219, R303). -/
def execPref (g : Guard) (m : Lm) (base off : Src) (s : State) : Res :=
  laneIssue g false false [(base, true), (off, false)] {} (fun _ _ => none) (fun w vs s =>
    let s := s.prefDrop
    let va (l : Nat) : Nat := lmGlobal m (valAt vs 0 l) (valAt vs 1 l)
    let bring (s : State) (l : Nat) : State :=
      match s.laneXl (va l) .read with
      | .ok t =>
        let a : Port := { h := s.focus.h, p := s.lc.part, c := s.focus.t, pts := max s.lg.pts (s.localGcc s.focus.h) }
        if t.external || (s.l1Hit a t 1).isSome then s else (s.ask a t 1 (t.scopeOf m.scope.toNat) m.cls.toNat).1
      | _ => s
    match (lanesOf w.ex).find? (fun l => s.laneXl (va l) .read == .miss) with
    | some l =>
      if s.lg.walking then laneStall 0x09 s
      else laneStall 0x09 ((s.askWalk s.focus.h s.lc.part (va l) .read (.group s.focus.h s.focus.t)).onLg (fun g => { g with walking := true }))
    | none => .ok () ((lanesOf w.ex).foldl bring s)) s

/-- AADD (R220). -/
def execAadd (g : Guard) (m : Lm) (d : Dst) (base off c : Src) (s : State) : Res := laneAtomic .add g m d base off c s
/-- AMIN (R220). -/
def execAmin (g : Guard) (m : Lm) (d : Dst) (base off c : Src) (s : State) : Res := laneAtomic .min g m d base off c s
/-- AMAX (R220). -/
def execAmax (g : Guard) (m : Lm) (d : Dst) (base off c : Src) (s : State) : Res := laneAtomic .max g m d base off c s
/-- AUMIN (R220). -/
def execAumin (g : Guard) (m : Lm) (d : Dst) (base off c : Src) (s : State) : Res := laneAtomic .minu g m d base off c s
/-- AUMAX (R220). -/
def execAumax (g : Guard) (m : Lm) (d : Dst) (base off c : Src) (s : State) : Res := laneAtomic .maxu g m d base off c s
/-- AAND (R220). -/
def execAand (g : Guard) (m : Lm) (d : Dst) (base off c : Src) (s : State) : Res := laneAtomic .and g m d base off c s
/-- AOR (R220). -/
def execAor (g : Guard) (m : Lm) (d : Dst) (base off c : Src) (s : State) : Res := laneAtomic .or g m d base off c s
/-- AXOR (R220). -/
def execAxor (g : Guard) (m : Lm) (d : Dst) (base off c : Src) (s : State) : Res := laneAtomic .xor g m d base off c s
/-- AXCHG (R220). -/
def execAxchg (g : Guard) (m : Lm) (d : Dst) (base off c : Src) (s : State) : Res := laneAtomic .swap g m d base off c s
/-- AADDF (R220). -/
def execAaddf (g : Guard) (m : Lm) (d : Dst) (base off c : Src) (s : State) : Res := laneAtomic .addf g m d base off c s
/-- ACAS (R221). -/
def execAcas (g : Guard) (m : Lm) (v : BitVec 7) (base off c : Src) (s : State) : Res :=
  laneCas g m v.toNat base off 1 [(c, false)] none s
/-- ACAS64 (R221). -/
def execAcas64 (g : Guard) (m : Lm) (v : BitVec 7) (base off : Src) (c : BitVec 7) (s : State) : Res :=
  laneCas g m v.toNat base off 2 [] (some c.toNat) s
/-- ACAS128: one 16-byte access (R221, R70). -/
def execAcas128 (g : Guard) (m : Lm) (v : BitVec 7) (base off : Src) (c : BitVec 7) (s : State) : Res :=
  laneCas g m v.toNat base off 4 [] (some c.toNat) s

/-! ## Performing the outstanding operations (R214, R220, R222, R232, R305) -/

/-- The access has been performed in every lane that the operation holds. -/
def LaneOp.performed (o : LaneOp) : Bool := o.acc.all (fun c => c.done)

/-- An access that looks for its atom in the L1, and misses when it asks the home: a load, and what an H-scope store or atomic allocates
(R345; notes/assumptions/93). -/
def LaneOp.looksUp (o : LaneOp) (t : Tgt) : Bool :=
  !t.external && (match o.kind with | .load _ => true | .priv _ => true | .stx => false | _ => l1Only t o.scope)

/-- What an operation does to memory. -/
def OpKind.acc : OpKind → Acc
  | .load _ => .read
  | .priv false => .read
  | .atomic _ => .atomic
  | _ => .write

/-- A lane access whose translation was dropped while a suspended command held it back translates again; where its page has no valid entry now,
its group parks (R212, R357). -/
def State.laneAgain (s : State) (h g : Nat) (o : LaneOp) (c : LaneAcc) : LaneAcc × State :=
  let k := ckey h g
  let gr := s.group k
  let p := (s.ctx k).part
  let here (va : Nat) : Bool := va / 4096 == c.va / 4096
  match gr.xfs.find? (fun f => here f.va) with
  | some f => ({ c with done := true, bad := some { cause := f.cause, sub := f.sub, va := c.va } },
      s.modGroup k (fun gr => { gr with xfs := gr.xfs.filter (fun f => !here f.va) }))
  | none =>
    if gr.fault.isSome || gr.walking then (c, s)
    else
      match s.reach h p c.va o.kind.acc with
      | .ok t => ({ c with again := false, tgt := t }, s)
      | .bad cs u => ({ c with done := true, bad := some { cause := cs, sub := u, va := c.va } }, s)
      | .miss =>
        match gr.nopage.find? (fun q => here q.va) with
        | some q =>
          let (s, tok) := s.parkFault p h g 1 (.group h g) c.va (accCode o.kind.acc) q.level q.reason q.tid q.tile
          (c, s.modGroup k (fun gr => { gr with fault := some tok, nopage := gr.nopage.filter (fun q => !here q.va) }))
        | none => (c, (s.askWalk h p c.va o.kind.acc (.group h g)).modGroup k (fun gr => { gr with walking := true }))

/-- The access of one lane, attempted (R376, R377); an exchange write sets out (R217). -/
def State.laneTry (s : State) (h g : Nat) (o : LaneOp) (c : LaneAcc) : LaneAcc × State :=
  if c.again then s.laneAgain h g o c
  else
  let k := ckey h g
  let pv := match o.kind with | .priv _ => true | _ => false
  let a : Port := { h := h, p := (s.ctx k).part, c := g, who := .lane h g o.id c.lane, pts := (s.group k).pts, x := c.x, priv := pv }
  let (r, s, a) := match o.kind with
    | .load _ => s.accLoad a c.tgt o.width c.va o.scope o.acls
    | .priv false => s.accLoad a c.tgt o.width c.va 0 o.acls
    | .store => s.accStore a c.tgt (bytesOf c.a o.width) c.va o.scope o.acls
    | .priv true => s.accStore a c.tgt (bytesOf c.a o.width) c.va 0 o.acls
    | .atomic op => s.accAtomic addF32 a c.tgt op o.width c.a c.b c.va o.scope o.acls
    | .stx => (match c.x.got with
        | some g => (if g.ok then .done [] 0 else .bad g.cause g.sub, s, { a with x := {} })
        | none =>
          if c.x.out then (.wait, s, a)
          else (.wait, s.sendStx { t := c.a, o := c.va, src := h, v := BitVec.ofNat 32 c.b, who := a.who }, { a with x := { out := true } }))
  let s := if a.x.out && !c.x.out && o.looksUp c.tgt then s.perf h g 0x0F 1 else s
  let s := s.modGroup k (fun gr => { gr with pts := max gr.pts a.pts })
  match r with
  | .done d v => ({ c with x := a.x, done := true, val := match o.kind with | .atomic _ => v | _ => natOfBytes d }, s)
  | .wait => ({ c with x := a.x }, s)
  | .bad cs u => ({ c with x := a.x, done := true, bad := some { cause := cs, sub := u, va := c.va } }, s)

/-- Put one lane's access back into its operation. -/
def Group.putAcc (g : Group) (id : Nat) (c : LaneAcc) : Group :=
  { g with ops := g.ops.map (fun o => if o.id = id then { o with acc := o.acc.map (fun d => if d.lane = c.lane then c else d) } else o) }

/-- Sign- or zero-extension of a loaded value to 32 bits; wider values keep their words. -/
def loadWord (o : LaneOp) (v i : Nat) : Word :=
  match o.kind with
  | .load true => (BitVec.ofNat (8 * o.width) v).signExtend 32
  | _ => BitVec.ofNat 32 (v / 2 ^ (32 * i))

/-- The lanes that an operation has performed and not yet written, once every lane that translated has been performed. -/
def LaneOp.batch (o : LaneOp) : List LaneAcc :=
  if o.acc.all (fun c => !c.ready || c.done) then o.acc.filter (fun c => c.ready) else []

/-- Write the lanes of a batch to the operation's registers. -/
def Group.writeBatch (g : Group) (o : LaneOp) (b : List LaneAcc) : Group :=
  let g := b.foldl (fun (g : Group) (c : LaneAcc) =>
    (natsFrom 0 o.dst.length).foldl (fun (g : Group) (i : Nat) => g.setV (o.dst.getD i 0) c.lane (loadWord o c.val i)) g) g
  -- %fflags takes the value of the lowest executing lane (R86)
  let low : Option LaneAcc := match o.acc with | c :: _ => b.find? (fun (d : LaneAcc) => o.ff && d.lane == c.lane) | [] => none
  let g : Group := match low with | some c => { g with fflags := (loadWord o c.val 0).toNat % 32 } | none => g
  { g with ops := g.ops.map (fun p =>
      if p.id = o.id then { p with acc := p.acc.map (fun c => if c.ready then { c with ready := false } else c) } else p) }

/-- The entry that a load with an oq destination pushes: zero in lanes that did not load (R133). -/
def LaneOp.entry (o : LaneOp) : List Word :=
  (natsFrom 0 32).map (fun l => match o.acc.find? (fun c => c.lane == l) with | some c => loadWord o c.val 0 | none => 0)

/-- An operation whose lanes are all written completes; one with an oq destination once its entry is pushed, in issue order
among the loads to that oq, when the queue has room (R214). -/
def Group.completeOp (g : Group) (id : Nat) : Group :=
  match g.ops.find? (fun o => o.id == id) with
  | none => g
  | some o =>
    if o.done || !o.acc.all (fun c => c.done && !c.ready) then g
    else
      let fin (g : Group) : Group := Group.retire { g with ops := g.ops.map (fun p => if p.id = id then { p with done := true } else p) }
      match o.oq with
      | none => fin g
      | some q =>
        let behind := g.ops.any (fun p => decide (p.id < id) && p.oq == some q && !p.done)
        if behind || decide (16 ≤ (Map.get [] g.oq q).length) then g
        else fin { g with oq := Map.put g.oq q (Map.get [] g.oq q ++ [o.entry]) }

/-- A lane access that ended in a refusal traps the task at the operation's word; uncorrectable data of a load poisons its
destination instead (R213, R421). -/
def State.laneBad (s : State) (h g : Nat) (o : LaneOp) (b : List LaneAcc) : State :=
  let fails := b.filterMap (fun c => c.bad.map (fun f => (f.cause, c.lane, f.sub, f.va)))
  match fails with
  | [] => s
  | (cs, _) :: _ =>
    -- the lanes that have been accessed end here; no lane of the operation is written, and no entry is pushed (R213)
    let s := s.modGroup (ckey h g) (fun gr => { gr with ops := gr.ops.map (fun p =>
      if p.id = o.id then { p with acc := p.acc.map (fun c => if c.ready then { c with ready := false, done := true } else c), dst := [], ff := false, oq := none }
      else p) })
    let f : Xfault := match fails.head? with | some q => { cause := q.1, sub := q.2.2.1, va := q.2.2.2 } | none => {}
    if o.kind == .stx || (cs == 0x0E && o.cls == .s) then
      -- a refused exchange write, and a store that a peer refuses, are reported at the WAIT or FENCE that covers it (R156, R436)
      s.modGroup (ckey h g) (fun gr => { gr with refused := gr.refused ++ [(o.no, f)] })
    else if (cs == 0x0F || cs == 0x0E) && o.cls == .l then
      s.modGroup (ckey h g) (fun gr => { gr with
        poisoned := gr.poisoned ++ (if o.ff then [512] else if o.dst.isEmpty then [513] else o.dst).map (fun ph =>
          { phys := ph, f := f, no := o.no, word := o.word, pass := o.pass, seq := o.seq }) })
    else
      let t := laneFail cs ((fails.filter (fun q => q.1 == cs)).map (·.2))
      s.takeTrap h g { t with agent := 1, slot := ((s.group (ckey h g)).blk.getD {}).slot,
                              pos := some (o.pass * 2 ^ 28 + o.word * 2 ^ 16 + o.seq), who := .group h g }

/-- Advance an outstanding load, atomic or store: nothing before every earlier access of the group has been performed (R60);
lanes of one word in a free order (R222). -/
def State.laneProgress (s : State) (h g id : Nat) : State :=
  let k := ckey h g
  match (s.group k).ops.find? (fun o => o.id == id) with
  | none => s
  | some o =>
    if o.cls == .t || o.done
        || (o.kind != .stx && (s.group k).ops.any (fun p => decide (p.id < id) && p.cls != .t && p.kind != .stx && !p.performed)) then s
    else
      -- a stopped task's stores that have not been sent are held (R420)
      -- and nothing of a killed one sets out any more (R421)
      let held := ((s.ctx k).trapped.isSome && (match o.kind with | .load _ => false | .priv false => false | _ => true))
        || (s.ctx k).st == .killing
      let store := match o.kind with | .load _ => false | .priv st => st | _ => true
      -- an exchange write sets out behind the earlier ones of its group, and behind the XCH commands issued before its block (R60, R68)
      let stx := (s.group k).ops.any (fun p => decide (p.id < id) && p.kind == .stx && p.acc.any (fun c => !c.done && !c.x.out && c.x.got.isNone))
        || s.cmdWait h g o.pos [1] winSpan
      let wait (c : LaneAcc) : Bool := if o.kind == .stx then stx else s.aliasWait h g o.pos o.acls c.va o.width store
      let todo := o.acc.filter (fun c => c.ready && !c.done && (c.x.out || c.x.got.isSome || !(held || wait c)))
      let s := (freeOrder s.tick 32 todo).foldl (fun s c =>
        let (c', s) := s.laneTry h g o c
        s.modGroup k (fun gr => gr.putAcc id c')) s
      match (s.group k).ops.find? (fun o => o.id == id) with
      | none => s
      | some o =>
        let b := o.batch
        let s :=
          if b.any (fun c => c.bad.isSome) then s.laneBad h g o b
          else if b.isEmpty then s
          else s.modGroup k (fun gr => gr.writeBatch o b)
        s.modGroup k (fun gr => gr.completeOp id)

/-- LANE_LOAD_COMPLETE: a load or atomic is performed in its lanes, and its results are written (R214, R220). -/
def execLaneLoadComplete (h g id : Nat) (s : State) : Res :=
  .next (if (s.group (ckey h g)).ops.any (fun o => o.id == id && o.cls == .l) then s.laneProgress h g id else s)

/-- LANE_STORE_COMPLETE: a store is performed in its lanes (R214, R215, R217). -/
def execLaneStoreComplete (h g id : Nat) (s : State) : Res :=
  .next (if (s.group (ckey h g)).ops.any (fun o => o.id == id && o.cls == .s) then s.laneProgress h g id else s)

/-- OQ_LOAD_PUSH: a completed load that found its oq full pushes its entry once there is room (R214). -/
def execOqLoadPush (h g id : Nat) (s : State) : Res := .next (s.modGroup (ckey h g) (fun gr => gr.completeOp id))

/-- STX_ARRIVE: an exchange write reaches its target and is checked again: it is written to the shadow half or refused, and its answer reaches the
agent by the same route (R11, R156, R217, R76); writes of one hearth to the same bytes arrive in order (R60). -/
def execStxArrive (n : Nat) (s : State) : Res :=
  match s.stxs[n]? with
  | none => .next s
  | some q =>
    if s.gcc < q.due then .next s
    else
      match q.ack with
      | some g => .next (State.deliver { s with stxs := dropAt s.stxs n } q.who g)
      | none =>
        if (s.stxs.take n).any (fun e => e.ack.isNone && e.t == q.t && e.o == q.o && e.src == q.src) then .next s
        else
          let answer (g : Got) (s : State) : Res :=
            .next { s with stxs := modAt (fun e => { e with ack := some g, due := s.gcc + transit (.hearth q.t) (stopOf q.src) }) s.stxs n }
          match (s.hearth q.t).xwin with
          | some x =>
            let a := x.shadowAddr q.o
            if s.rowHeld q.t true [a] then .next s
            else if q.o + 4 ≤ x.size / 2 then
              let s := s.modHearth q.t (fun hh => hh.bankAsk 10 [a])
              answer { ok := true } ((s.modHearth q.t (fun hh => hh.setPad a (bytesOf q.v.toNat 4))).wrotePad (ckey q.t x.ctx) a 4)
            else answer { ok := false, cause := 0x0C, sub := 1 } s
          | none => answer { ok := false, cause := 0x0C, sub := 1 } s

end Sys2Proof.Machine
end

