-- ==== Sys2Proof/Machine/LaneSync.lean ====
section
/-! DEFINITION. Predicates and votes, cross-lane words, work distribution, waiting, exit and system words of the lanes, and the
pushes they leave (spec/09 R223-R239; spec/02 R38, R39). -/

namespace Sys2Proof.Machine

/-! ## Predicates and votes (R223, R224) -/

/-- A predicate source of a word. -/
def pSrc (i : BitVec 3) : Src × Bool := (.p i, false)

/-- A predicate word of each lane. -/
def lanePred (g : Guard) (d : BitVec 3) (srcs : List (Src × Bool)) (f : List Word64 → Bool) (s : State) : Res :=
  laneMap g (.p d) false srcs 2 (fun l => flagWord (f l)) s

/-- The predicate values of the first two sources. -/
def bools (f : Bool → Bool → Bool) (l : List Word64) : Bool := f (l.getD 0 0 == 1) (l.getD 1 0 == 1)

/-- PAND (R223). -/
def execPand (g : Guard) (d a b : BitVec 3) (s : State) : Res := lanePred g d [pSrc a, pSrc b] (bools (fun x y => x && y)) s
/-- POR (R223). -/
def execPor (g : Guard) (d a b : BitVec 3) (s : State) : Res := lanePred g d [pSrc a, pSrc b] (bools (fun x y => x || y)) s
/-- PXOR (R223). -/
def execPxor (g : Guard) (d a b : BitVec 3) (s : State) : Res := lanePred g d [pSrc a, pSrc b] (bools (fun x y => x != y)) s
/-- PANDN: a AND NOT b (R223). -/
def execPandn (g : Guard) (d a b : BitVec 3) (s : State) : Res := lanePred g d [pSrc a, pSrc b] (bools (fun x y => x && !y)) s
/-- PSET: 1 where the 32-bit a is not 0 (R223). -/
def execPset (g : Guard) (d : BitVec 3) (a : Src) (s : State) : Res := lanePred g d [(a, false)] (fun l => lo32 (l.getD 0 0) != 0) s

/-- The bits of the executing lanes in which a value is 1. -/
def ballotOf (w : Lw) (v : Vals) : Nat := (lanesOf w.ex).foldl (fun a l => a + boolNat ((v l).getLsbD 0) * 2 ^ l) 0

/-- BALLOT (R224). -/
def execBallot (g : Guard) (d : Dst) (a : BitVec 3) (s : State) : Res :=
  laneFixed g true d false [pSrc a] {} 6 (fun w vs _ => (fun _ => BitVec.ofNat 64 (ballotOf w (vs.headD (fun _ => 0))), 0)) s

/-- The vote of a mode over the ballot m of the executing lanes ex (R224). -/
def voteOf (m : VoteMode) (b ex : Nat) : Bool :=
  match m with
  | .all => b == ex
  | .any => b != 0
  | .uni => b == 0 || b == ex

/-- PVOTE: written to every executing lane (R224). -/
def execPvote (g : Guard) (m : VoteMode) (d a : BitVec 3) (s : State) : Res :=
  laneFixed g true (.p d) false [pSrc a] {} 6 (fun w vs _ =>
    (fun _ => flagWord (voteOf m (ballotOf w (vs.headD (fun _ => 0))) w.ex.toNat), 0)) s

/-! ## Predicate return (R38, R39, R225) -/

/-- PRET: one entry, held until the group's earlier stores are performed and two cycles have passed; a full PRQ stalls; a
generation that is no longer current traps (R38, R39, R225). Entries that have not entered the PRQ count toward a full one, and a phase block
admits no PRET: it traps with 0x07 subcause 7 (R114); DESIGN CHOICE both, notes/assumptions/101. -/
def execPret (g : Guard) (a : BitVec 3) (tag : BitVec 8) (s : State) : Res :=
  laneIssue g false false [pSrc a] {} (fun _ s => if 64 ≤ s.lc.prq.length + s.lg.prets.length then some 0x07 else none)
    (fun w vs s =>
      let b := s.lb
      if Map.get 0 s.lc.gens b.slot != b.gen then .trap { cause := 0x11 } s
      else
        let v := ballotOf w (vs.headD (fun _ => 0))
        let e : PrqE := { w := BitVec.ofNat 64 (2 ^ 63 + tag.toNat * 2 ^ 48 + b.seq * 2 ^ 32 + v), slot := b.slot, gen := b.gen }
        .ok () (s.onLg (fun g => { g with prets := g.prets ++ [{ e := e, notBefore := s.gcc + 2, ops := g.nextOp, pos := blkPos b, mask := w.ex.toNat }] }))) s

/-- A store of R225: the stores, the atomics, private stores and MSCAT; not STX. -/
def LaneOp.isStore (o : LaneOp) : Bool :=
  match o.kind with
  | .load _ => false
  | .priv st => st
  | .stx => false
  | .store => o.cls != .t || (match o.tile with | some (.mscat ..) => true | _ => false)
  | .atomic _ => true

/-- Every store that the group issued before operation n has been performed (R225). -/
def Group.storesBefore (g : Group) (n : Nat) : Bool :=
  g.ops.all (fun o => decide (n ≤ o.id) || !o.isStore || (if o.cls == .t then o.done else o.performed))

/-- The oldest PRET's entry enters the PRQ in the present cycle (R225). -/
def State.pretDue (s : State) (k : Nat) : Bool :=
  match (s.group k).prets with
  | [] => false
  | p :: _ => decide (p.notBefore ≤ s.gcc) && (s.group k).storesBefore p.ops && decide ((s.ctx k).prq.length < 64)

/-- PRQ_PUSH: the oldest PRET's entry enters the PRQ; one whose generation is no longer current pushes nothing and traps at its word (R38,
R39, R225). -/
def execPrqPush (h g : Nat) (s : State) : Res :=
  let k := ckey h g
  let gr := s.group k
  match gr.prets with
  | [] => .next s
  | p :: r =>
    if s.gcc < p.notBefore || !gr.storesBefore p.ops || decide (64 ≤ (s.ctx k).prq.length) then .next s
    else if Map.get 0 (s.ctx k).gens p.e.slot != p.e.gen then
      .next ((s.modGroup k (fun gr => { gr with prets := r })).takeTrap h g { cause := 0x11, agent := 1, slot := p.e.slot, pos := some p.pos, mask := p.mask, who := .group h g })
    else .next ((s.modGroup k (fun gr => { gr with prets := r })).modCtx k (fun x => { x with prq := x.prq ++ [p.e] }))

/-! ## Cross-lane words (R226-R229) -/

/-- A cross-lane word of latency 6. -/
def laneCross (g : Guard) (d : Dst) (srcs : List (Src × Bool)) (f : Lw → List Vals → Vals × Nat) (s : State) : Res :=
  laneFixed g true d false srcs {} 6 (fun w vs _ => f w vs) s

/-- XL (R227). -/
def execXl (g : Guard) (own : Bool) (d : Dst) (a b : Src) (s : State) : Res :=
  laneCross g d [(a, false), (b, false)] (fun _ vs =>
    (fun l => let j := (valAt vs 1 l).toNat; if j ≤ 31 then valAt vs 0 j else if own then valAt vs 0 l else 0, 0)) s

/-- One fold step, with flags (R228). -/
def scanStep (op : ScanOp) (z : Bool) (x y : Nat) : Nat × Nat :=
  let a : Word := BitVec.ofNat 32 x
  let b : Word := BitVec.ofNat 32 y
  match op with
  | .add => ((a + b).toNat, 0)
  | .min => ((if b.slt a then b else a).toNat, 0)
  | .max => ((if a.slt b then b else a).toNat, 0)
  | .umin => (min x y, 0)
  | .umax => (max x y, 0)
  | .fadd => rndSum f32 .rne z [f32.unpack z x, f32.unpack z y]
  | .fmin => (fpMinMax false z x y, 0)
  | .fmax => (fpMinMax true z x y, 0)

/-- The identity of an exclusive scan (R228). -/
def scanIdentity : ScanOp → Nat
  | .add => 0
  | .min => 0x7FFFFFFF
  | .max => 0x80000000
  | .umin => 0xFFFFFFFF
  | .umax => 0
  | .fadd => 0x80000000
  | .fmin => 0x7F800000
  | .fmax => 0xFF800000

/-- The inclusive value of the lowest executing lane: its input rule, and a NaN as the canonical one, for the floating
operations (R228). -/
def scanFirst (op : ScanOp) (z : Bool) (x : Nat) : Nat :=
  match op with
  | .fadd => if (f32.unpack z x).isNan then f32.canon else flushBits z x
  | .fmin => if (f32.unpack z x).isNan then f32.canon else flushBits z x
  | .fmax => if (f32.unpack z x).isNan then f32.canon else flushBits z x
  | _ => x

/-- The inclusive values along a list of lanes, with the union of the flags. -/
def scanFrom (op : ScanOp) (z : Bool) (v : Nat → Nat) : Nat → List Nat → List (Nat × Nat) × Nat
  | _, [] => ([], 0)
  | acc, l :: r =>
    let (x, f) := scanStep op z acc (v l)
    let (rest, fs) := scanFrom op z v x r
    ((l, x) :: rest, f ||| fs)

/-- The inclusive scan over the executing lanes in ascending order (R228). -/
def scanAll (op : ScanOp) (w : Lw) (v : Vals) : List (Nat × Nat) × Nat :=
  match lanesOf w.ex with
  | [] => ([], 0)
  | j :: r =>
    let x := scanFirst op w.z (lo32 (v j)).toNat
    let (rest, f) := scanFrom op w.z (fun l => (lo32 (v l)).toNat) x r
    ((j, x) :: rest, f)

/-- The value of a lane in a scan's list. -/
def scanAt (l : List (Nat × Nat)) (lane : Nat) : Nat := ((l.find? (fun q => q.1 == lane)).map (·.2)).getD 0

/-- The exclusive values of an inclusive scan: each lane takes the value before it. -/
def scanShift (prev : Nat) : List (Nat × Nat) → List (Nat × Nat)
  | [] => []
  | (l, x) :: r => (l, prev) :: scanShift x r

/-- SCAN, inclusive or exclusive (R228). -/
def execScan (g : Guard) (op : ScanOp) (excl : Bool) (d : Dst) (a : Src) (s : State) : Res :=
  laneCross g d [(a, false)] (fun w vs =>
    let (l, f) := scanAll op w (vs.headD (fun _ => 0))
    let l := if excl then scanShift (scanIdentity op) l else l
    (fun lane => BitVec.ofNat 64 (scanAt l lane), f)) s

/-- REDUCE: the last inclusive value in every executing lane (R228). -/
def execReduce (g : Guard) (op : ScanOp) (d : Dst) (a : Src) (s : State) : Res :=
  laneCross g d [(a, false)] (fun w vs =>
    let (l, f) := scanAll op w (vs.headD (fun _ => 0))
    let x := ((l.getLast?).map (·.2)).getD 0
    (fun _ => BitVec.ofNat 64 x, f)) s

/-- COMPACT (R229). -/
def execCompact (g : Guard) (d : Dst) (a : Src) (b : BitVec 3) (s : State) : Res :=
  laneCross g d [(a, false), pSrc b] (fun w vs =>
    let js := (lanesOf w.ex).filter (fun l => valAt vs 1 l == 1)
    (fun lane => match js[lane]? with | some i => valAt vs 0 i | none => 0, 0)) s

/-! ## Work distribution (R230, R231) -/

/-- The smallest j below n with a property, or n. -/
def firstBelow (p : Nat → Bool) (n : Nat) : Nat := ((natsFrom 0 n).find? p).getD n

/-- REBAL: row and offset of each lane's work item (R230). -/
def execRebal (g : Guard) (d : Dst) (a b : Src) (k : BitVec 4) (s : State) : Res :=
  laneFixed g false d true [(a, false), (b, false), (.k k, false)] {} 12 (fun _ vs _ =>
    let v (i l : Nat) : Word := lo32 (valAt vs i l)
    (fun l =>
      let w := v 2 l + v 1 l
      let r := firstBelow (fun j => w.ult (v 0 j)) 32
      let off := if r = 0 then w else w - v 0 (r - 1)
      join64 (BitVec.ofNat 32 r) off, 0)) s

/-- LBOUND: the first of n = min(c, 32) lanes of a that is at least b (R231). -/
def execLbound (g : Guard) (d : Dst) (a b c : Src) (s : State) : Res :=
  laneFixed g false d false [(a, false), (b, false), (c, false)] {} 16 (fun _ vs _ =>
    (fun l =>
      let n := min (valAt vs 2 l).toNat 32
      BitVec.ofNat 64 (firstBelow (fun j => decide ((valAt vs 1 l).toNat ≤ (valAt vs 0 j).toNat)) n), 0)) s

/-! ## Waiting (R232-R235) -/

/-- A launch word of the copy engine (R263, R264, R266-R269). -/
def copyLaunch (w : BitVec 16) : Bool :=
  match decodeEngine w with
  | .ok .cpy => true
  | .ok .zero => true
  | .ok .bloadb => true
  | .ok .xch => true
  | .ok .tcpy => true
  | .ok (.tgath _) => true
  | .ok (.tscat _) => true
  | .ok .slred => true
  | _ => false

/-- Leave out the completed commands at the front: they have left their count in issue order (R305). -/
def pastDone : List Cmd → List Cmd
  | [] => []
  | c :: r => if c.done then pastDone r else c :: r

/-- The count of class C: the copy commands of the task sent before the running block's BEMIT, and the ERUNs whose words are
still being appended (R232, R305). -/
def State.classC (s : State) : Nat :=
  let q := s.eng (qkey s.focus.h s.focus.t 1)
  let p := s.lb.pos
  let cs := q.items.filterMap (fun i => match i with | .cmd n => Map.find? q.cmds n | _ => none)
  (q.words.filter (fun w => decide (w.ipos < p) && copyLaunch w.w)).length
    + ((pastDone cs).filter (fun c => decide (c.ipos < p) && !c.dead)).length
    + (match q.fetch with | some (_, _, _, ip) => if ip < p then 1 else 0 | none => 0)

/-- WAIT: each field that is not 15 bounds its class; a load that came back uncorrectable and is covered traps (R213, R233). -/
def execWait (g : Guard) (l s c t : BitVec 4) (st : State) : Res :=
  laneIssue g false true [] {} (fun _ st =>
      let over' (f : BitVec 4) (n : Nat) : Bool := f != 15#4 && decide (f.toNat < n)
      if over' l (st.lg.outstanding .l) || over' s (st.lg.outstanding .s) || over' c st.classC || over' t (st.lg.outstanding .t)
      then some 0x08 else none)
    (fun _ _ st =>
      let n := Map.get 0 st.lg.issued OpCls.l.code
      let m := Map.get 0 st.lg.issued OpCls.s.code
      match (if l = 15#4 then none else st.lg.poisoned.find? (fun q => decide (l.toNat + q.no + 1 ≤ n))),
        (if s = 15#4 then none else st.lg.refused.find? (fun q => decide (s.toNat + q.1 + 1 ≤ m))) with
      | some q, _ => .trap (poisonTrap q) st
      | none, some q => .trap { cause := q.2.cause, sub := q.2.sub, d8 := q.2.va } st
      | none, none => .ok () st) st

/-- FENCE: every earlier L and S operation completes; at D and S scope the group's H-scope stores reach their homes, and at S
scope host and peer accesses are acknowledged (R234, R67). -/
def execFence (g : Guard) (scope : BitVec 2) (s : State) : Res :=
  laneIssue g false false [] {} (fun _ s => if s.lg.outstanding .l + s.lg.outstanding .s = 0 then none else some 0x08)
    (fun _ _ s =>
      let h := s.focus.h
      -- a peer's refusal waits for a FENCE.S (R436)
      match s.lg.refused.find? (fun q => q.2.cause == 0x0C || scope == 2#2) with
      | some q => .trap { cause := q.2.cause, sub := q.2.sub, d8 := q.2.va } s
      | none =>
      if scope = 0#2 then .ok () s
      else
        let begun := match s.lg.wait with | some w => w.a == 1 | none => false
        let s := if begun then s
          else (s.releaseFlush h).onLg (fun g => { g with wait := some { kind := .other, since := s.gcc, a := 1 } })
        if !(s.l1Hearths h).all s.flushed then laneStall 0x08 s
        else
        let s := s.onLg (fun g => { g with pts := max g.pts (s.wbStamp h) })
        let quiet := scope != 2#2 || (s.extQuiet s.lk && decide (s.lg.pts + 8 ≤ s.localGcc h))
        if quiet then .ok () s else laneStall 0x08 s) s

/-- The arrivals of a group that wait for its earlier stores: once those are performed, the H-scope ones among them are written back, and the
arrivals are performed when that is acknowledged (R67, R235). -/
def State.nbArrivals (s : State) (h g : Nat) : State :=
  let k := ckey h g
  let ready (gr : Group) (a : NbArr) : Bool := gr.storesBefore a.ops
  let s := if (s.group k).nbArr.any (fun a => !a.sent && ready (s.group k) a) then
      (s.releaseFlush h).modGroup k (fun gr => { gr with nbArr := gr.nbArr.map (fun a => if ready gr a then { a with sent := true } else a) })
    else s
  if !(s.l1Hearths h).all s.flushed then s
  else
    let go := (s.group k).nbArr.filter (fun a => a.sent)
    let s := s.modGroup k (fun gr => { gr with
      nbArr := gr.nbArr.filter (fun a => !a.sent), pts := if go.isEmpty then gr.pts else max gr.pts (s.wbStamp h) })
    go.foldl (fun s a => s.nbArrive k a.n) s

/-- NBARRIVE of a lane word: one arrival when a lane executes, performed after the group's earlier stores (R235). -/
def execNbarriveLane (g : Guard) (n : BitVec 4) (s : State) : Res :=
  laneIssue g false false [] {} (fun _ _ => none) (fun w _ s =>
    if w.ex = 0 then .ok () s
    else if (Map.get {} s.lc.nb n.toNat).st != .armed then .trap { cause := 0x0C, sub := 4 } s
    else
      let s := s.onLg (fun g => { g with nbArr := g.nbArr ++ [{ n := n.toNat, ops := g.nextOp }] })
      .ok () (s.nbArrivals s.focus.h s.focus.t)) s

/-- NBWAIT of a lane word: waits for the instance current at its issue, or for its invalidation (R235). -/
def execNbwaitLane (g : Guard) (n : BitVec 4) (s : State) : Res :=
  laneIssue g false false [] {} (fun _ _ => none) (fun w _ s =>
    if w.ex = 0 then .ok () s
    else
      match s.lg.wait with
      | some { kind := .nbwait, a := 1, .. } =>
        .ok () (s.onLg (fun g => { g with pts := max g.pts (s.taskPts s.focus.h s.focus.t) }))
      | some { kind := .nbwait, .. } => laneStall 0x08 s
      | _ =>
        if (Map.get {} s.lc.nb n.toNat).st != .armed then .ok () s
        else
          let me : Who := .group s.focus.h s.focus.t
          let s := s.modCtx s.lk (fun x => { x with nb := Map.mod {} x.nb n.toNat (fun b => { b with waiters := b.waiters ++ [me] }) })
          laneStall 0x08 (s.onLg (fun g => { g with wait := some { kind := .nbwait, since := s.gcc } }))) s

/-! ## Exit and system words (R237, R238) -/

/-- EXIT: every executing lane is exited from the next word on (R49, R237). -/
def execExit (g : Guard) (s : State) : Res :=
  laneIssue g false false [] {} (fun _ _ => none) (fun w _ s => .ok () (s.onLg (fun g => { g with exited := g.exited ||| w.ex }))) s

/-- TMARK of a lane word: one MARK packet with the slot of its block entry (R238, R337, R338). -/
def execTmarkLane (g : Guard) (mark : BitVec 16) (s : State) : Res :=
  laneIssue g true false [] {} (fun _ _ => none) (fun _ _ s =>
    let h := s.focus.h
    let c := s.focus.t
    .ok () (if s.lc.trace.on then
        let t := ((s.liveThreads h c).find? (fun t => (s.thread (tkey h t)).slot == s.lb.slot)).getD c
        -- packets of one cycle go by slot (R339)
        let was := if s.lc.slotAt.1 = s.gcc + 1 then s.lc.slotAt.2 else 0
        let s := s.modCtx s.lk (fun x => { x with slotAt := (s.gcc + 1, max was s.lb.slot) })
        (((s.lossResync h c).flushBr h c t).periodic h c).packet h c 8 s.lb.slot (2 ^ 45 + mark.toNat) []
      else s)) s

/-- BRK: a breakpoint trap when a lane executes it; it stops before the next word (R238). -/
def execBrk (g : Guard) (code : BitVec 16) (s : State) : Res :=
  laneIssue g false false [] {} (fun _ _ => none) (fun w _ s =>
    if w.ex = 0 then .ok () s else .trap { cause := 0x17, d8 := code.toNat } s) s

/-- CNTR: bits [31:0] of the group's counter n (R238, R345). -/
def execCntr (g : Guard) (d : Dst) (n : BitVec 4) (s : State) : Res :=
  laneFixed g false d false [] {} 2 (fun _ _ s => (fun _ => (lo32 (s.perfRead s.focus.h s.focus.t n.toNat)).zeroExtend 64, 0)) s

/-- A word that R138 refuses: an encoding trap, with the lanes that the guard in its G field would have let execute (R137, R138, R416). -/
def execUnassignedLaneOpcode (w : BitVec 64) (s : State) : Res :=
  laneIssue (guardOf (laneFields w).g) true true [] {} (fun _ _ => none) (fun _ _ s => .trap { cause := 0x01 } s) s

end Sys2Proof.Machine
end

