-- ==== Sys2Proof/Machine/LaneTile.lean ====
section
/-! DEFINITION. The matrix array from the lanes: MMA, MZERO, MRD, MWR, MSCAT, MVER, and the tile operations they leave
(spec/10 R248-R253; spec/04 R93-R96). -/

namespace Sys2Proof.Machine

/-! ## Cells, banks and the B store -/

/-- Key of an accumulator cell of a group: bank, row of the group, column (R14). -/
def accKey (b r c : Nat) : Nat := (b * 32 + r) * 32 + c
/-- A cell. -/
def Group.accAt (g : Group) (b r c : Nat) : Nat := (Map.get 0 g.acc (accKey b r c)).toNat
/-- Write a cell. -/
def Group.setAcc (g : Group) (b r c : Nat) (v : Nat) : Group := 
  { g with acc := Map.set 0 g.acc (accKey b r c) (BitVec.ofNat 32 v), wrAcc := g.wrAcc ||| 2 ^ (32 * b + r) }
/-- The version of a bank (R251). -/
def Group.verOf (g : Group) (b : Nat) : Nat := Map.get 0 g.ver b
/-- The version rises by 1 (R251). -/
def Group.bump (g : Group) (b : Nat) : Group := { g with ver := Map.put g.ver b ((g.verOf b + 1) % 2 ^ 16) }

/-- Bytes of the B store from an offset of a column's slice of 512 KiB (R248). -/
def Hearth.bstBytes (hh : Hearth) (c o n : Nat) : List Byte := (natsFrom (c * 2 ^ 19 + o) n).map (Map.get 0 hh.bst)

/-- Bytes of the scratchpad at local addresses, which the caller has checked. -/
def Hearth.padBytes (hh : Hearth) (a n : Nat) : List Byte := (natsFrom a n).map (fun i => Map.get 0 hh.pad ((hh.padAddr i).getD 0))

/-- Every byte of a range lies in the scratchpad outside the upper half of the exchange window (R248). -/
def Hearth.padOk (hh : Hearth) (a n : Nat) : Bool :=
  decide (a + n ≤ 0x400000) && (match hh.xwin with
    | some x => decide (a + n ≤ x.base + x.size / 2) || decide (x.base + x.size ≤ a)
    | none => true)

/-! ## The format word (R93) -/

/-- One half of a format word. -/
structure FmtHalf where
  uns : Bool
  cen : Bool
  fam : Nat
  krd : Nat
  pst : Nat
deriving DecidableEq, Repr

/-- Half i of a format word. -/
def fmtHalf (f i : Nat) : FmtHalf :=
  let h := f / 2 ^ (16 * i) % 2 ^ 16
  { uns := bitOf h 13, cen := bitOf h 12, fam := bitsOf h 11 8, krd := bitsOf h 7 4, pst := bitsOf h 3 0 }

/-- A format word is valid (R93). -/
def fmtValid (f : Nat) : Bool :=
  let ok (i : Nat) : Bool :=
    let h := f / 2 ^ (16 * i) % 2 ^ 16
    let p := fmtHalf f i
    bitsOf h 15 14 == 0 && decide (p.fam ≤ 2)
      && (if p.fam = 0 then decide (2 ≤ p.pst) && decide (p.pst ≤ 8) && decide (2 ≤ p.krd) && decide (p.krd ≤ p.pst)
          else bitsOf h 13 12 == 0 && bitsOf h 7 0 == 0)
  ok 0 && ok 1 && (fmtHalf f 0).fam == (fmtHalf f 1).fam

/-- Bytes of an operand that must lie in range, and in the B store's slice (R248). -/
def FmtHalf.span (p : FmtHalf) : Nat := if p.fam = 0 then 48 * p.pst + 1 else 48

/-! ## The sums (R90-R95) -/

/-- The element that the first k planes of a block give (R90-R92); byte 48·i + ⌊j/8⌋ is read by `at'`. -/
def bpiElem (p : FmtHalf) (at' : Nat → Byte) (j : Nat) : Int :=
  let bits := (natsFrom 0 p.krd).foldl (fun a i => 2 * a + boolNat ((at' (48 * i + j / 8)).getLsbD (j % 8))) 0
  bpiRead (bpiInt (bits * 2 ^ (p.pst - p.krd)) p.pst p.uns) p.pst p.krd p.cen

/-- The cell update of a BPI MMA (R94). -/
def mmaBpi (fa fb : FmtHalf) (z : Bool) (ra rb : Nat → Byte) (acc : Nat) : Nat × Nat :=
  let sum : Int := (natsFrom 0 384).foldl (fun a j => a + bpiElem fa ra j * bpiElem fb rb j) 0
  let ea := (ra (48 * fa.pst)).toNat
  let eb := (rb (48 * fb.pst)).toNat
  let (t, f) := rangeTerm (decide (sum < 0)) sum.natAbs ((ea : Int) + eb - 254)
  let (v, g) := rndSum f32 .rne z [f32.unpack z acc, t]
  (v, f ||| g)

/-- The cell update of a BF16 or FP16 MMA (R95): one rounding. -/
def mmaHalf (bf z : Bool) (ra rb : Nat → Byte) (acc : Nat) : Nat × Nat :=
  let f := if bf then bf16 else f16
  let el (r : Nat → Byte) (j : Nat) : Term := f.unpack z ((r (2 * j)).toNat + 256 * (r (2 * j + 1)).toNat)
  rndSum f32 .rne z (f32.unpack z acc :: (natsFrom 0 24).map (fun j => (el ra j).mul (el rb j)))

/-- The cell update of an MMA with a format word. -/
def mmaCell (fmt : Nat) (z : Bool) (ra rb : Nat → Byte) (acc : Nat) : Nat × Nat :=
  let fa := fmtHalf fmt 0
  if fa.fam = 0 then mmaBpi fa (fmtHalf fmt 1) z ra rb acc else mmaHalf (fa.fam == 1) z ra rb acc

/-! ## Issue -/

/-- A fifth tile operation that has not started stalls (R250). -/
def tileFull (s : State) : Option Nat :=
  if 4 ≤ (s.lg.ops.filter (fun o => o.cls == .t && !o.started && !o.done)).length || 64 ≤ s.lg.outstanding .t then some 0x0B else none

/-- Issue a tile operation, with the exchange window by which its local addresses are mapped; with no executing lane it is one class-T count
that completes at once (R249, R252). -/
def issueTile (w : Lw) (bank : Nat) (k : TileK) (lanes : List (Nat × Word)) (s : State) : State :=
  let s := s.addOp { cls := .t, tile := some k, bank := bank, lanes := lanes, z := w.z, done := w.ex == 0, xw := (s.hearth s.focus.h).xwin }
  s.onLg Group.retire

/-- A hearth with its exchange window as it stood when an operation issued: a swap of the halves alters none of the operation's bytes. -/
def Hearth.under (hh : Hearth) (o : LaneOp) : Hearth := { hh with xwin := o.xw }

/-- The scratchpad bytes and number of each A row of an MMA, by local addresses. -/
def Hearth.rowsOf (hh : Hearth) (lanes : List (Nat × Word)) (n : Nat) : List (Nat × Nat) :=
  lanes.map (fun l => ((hh.padAddr l.2.toNat).getD 0, n))

/-- The 16-byte units of a tile's rows. -/
def rowUnits (rows : List (Nat × Nat)) : List Nat := (rows.map (fun (r : Nat × Nat) => (natsFrom 0 ((r.2 + 15) / 16)).map (fun i => r.1 + 16 * i))).flatten

/-- An operation's A rows, as the feeder names a tile; none but an MMA has any. -/
def Hearth.tileOf (hh : Hearth) (o : LaneOp) : List (Nat × Nat) :=
  match o.tile with
  | some (.mma f _) => (hh.under o).rowsOf o.lanes (fmtHalf f 0).span
  | _ => []

/-- Bytes of a value in a format of MSCAT (R252). -/
def accWidth : AccFmt → Nat
  | .f32 => 4
  | _ => 2

/-- The scratchpad units that an MSCAT stores to. -/
def Hearth.scatUnits (hh : Hearth) (o : LaneOp) : List Nat :=
  match o.tile with
  | some (.mscat _ f) => (o.lanes.map (fun l => (natsFrom 0 (2 * accWidth f)).map (fun i => ((hh.under o).padAddr (l.2.toNat + 16 * i)).getD 0))).flatten
  | _ => []

/-- The first byte of a B-store operand of an MMA, in every column (R248). -/
def bColumns (off n : Nat) : List Nat := ((natsFrom 0 32).map (fun c => (natsFrom 0 ((n + 15) / 16)).map (fun i => c * 2 ^ 19 + off + 16 * i))).flatten

/-- An MMA's operands that cannot be read: the first such scratchpad address or B-store offset (R417, R439). -/
def Hearth.mmaBad (hh : Hearth) (o : LaneOp) : Option Nat :=
  match o.tile with
  | some (.mma f off) =>
    let n := (fmtHalf f 0).span
    let m := (fmtHalf f 1).span
    (match (if hh.badPad.isEmpty then none
        else o.lanes.find? (fun l => (natsFrom 0 n).any (fun i => hh.badPad.contains (((hh.under o).padAddr (l.2.toNat + i)).getD 0)))) with
     | some l => some l.2.toNat
     | none => (hh.badBst.find? (fun b => decide (off ≤ b % 2 ^ 19) && decide (b % 2 ^ 19 < off + m))).map (· % 2 ^ 19))
  | _ => none

/-- A row of an operation's operands is being copied to a spare (R450). -/
def State.tileHeld (s : State) (h : Nat) (o : LaneOp) : Bool :=
  if s.boot.sparing.isEmpty then false
  else
    match o.tile with
    | some (.mma f off) => s.rowHeld h true (rowUnits ((s.hearth h).tileOf o)) || s.rowHeld h false (bColumns off (fmtHalf f 1).span)
    | some (.mscat ..) => s.rowHeld h true ((s.hearth h).scatUnits o)
    | _ => false

/-- An access of a requester is ready for one of the banks and not served (R15). -/
def Hearth.asking (hh : Hearth) (q : Nat) : Bool := hh.banks.any (fun (k, n) => k / 64 == q && n != 0)

/-- THE FEEDER (R17): it reads the rows of one tile at a time, 16 bytes of a bank in a cycle (R15), so that a whole buffer takes 48 cy at least
(a tile of short rows takes less: DESIGN CHOICE, notes/assumptions/117);
a group's quarter of its two buffers takes the rows of the two oldest MMAs that are not complete, and a tile that it holds is not read
again. -/
def State.feedStep (s : State) (h g : Nat) : State :=
  let k := ckey h g
  let hh := s.hearth h
  let fed (j id : Nat) (s : State) : State := s.modGroup (ckey h j) (fun gr => { gr with ops := gr.ops.map (fun p => if p.id = id then { p with fed := true } else p) })
  let s := match hh.feeding with
    | some (j, id) => if hh.asking 7 then s else (fed j id s).modHearth h (fun hh => { hh with feeding := none })
    | none => s
  let ms := ((s.group k).ops.filter (fun o => o.cls == .t && !o.done && (match o.tile with | some (.mma ..) => true | _ => false))).take 2
  match ms.find? (fun o => !o.fed), (s.hearth h).feeding with
  | some o, none =>
    let rows := (s.hearth h).tileOf o
    if Map.find? (s.hearth h).feed g = some rows then fed g o.id s
    else s.modHearth h (fun hh => ({ hh with feed := Map.put hh.feed g rows, feeding := some (g, o.id) } : Hearth).bankAsk 7 (rowUnits rows))
  | _, _ => s

/-- The value of a k register. -/
def State.kAt (s : State) (i : BitVec 4) : Nat := (Map.get 0 s.lg.k i.toNat).toNat

/-- The checks of MMA and MSCAT over the executing lanes: alignment to 16 of every address, then range; `o` is an offset common
to all lanes, with its bound (R249). -/
def tileCheck (ls : List (Nat × Nat)) (n : Nat) (o : Option (Nat × Nat)) (s : State) : Option Trap :=
  let hh := s.hearth s.focus.h
  let fail (cause sub : Nat) (bad : Nat → Bool) (oBad : Bool) : Option Trap :=
    let f := if oBad then ls else ls.filter (fun l => bad l.2)
    match f with
    | [] => none
    | l :: _ => some { cause := cause, sub := sub, mask := maskOf (f.map (·.1)), d8 := if oBad then (o.getD (0, 0)).1 else l.2 }
  match fail 0x0D 0 (fun a => a % 16 != 0) (match o with | some (v, _) => v % 16 != 0 | none => false) with
  | some t => some t
  | none => fail 0x0C 1 (fun a => !hh.padOk a n) (match o with | some (v, m) => decide (2 ^ 19 < v + m) | none => false)

/-- Version mode as an MMA that issues in a cycle sees it: a VMODE of the same cycle bears on later ones (R251). -/
def EngQ.versioned (e : EngQ) (gcc : Nat) : Bool := if e.vmodeAt = gcc + 1 then e.vmodeWas else e.vmode

/-- MMA (R249-R251). The mask that a bad format word reports is that of the executing lanes, as R249 has it; R93 speaks of the active lanes, and
under a predicate guard the two differ (DESIGN CHOICE, notes/assumptions/100). -/
def execMma (g : Guard) (bank : BitVec 2) (fmt idx : BitVec 7) (k : BitVec 4) (ver : BitVec 16) (s : State) : Res :=
  laneIssue g false false [(.v fmt, false), (.v idx, false)] {} (fun _ s => tileFull s) (fun w vs s =>
    let ls := (lanesOf w.ex).map (fun l => (l, (valAt vs 1 l).toNat))
    match ls with
    | [] => .ok () (issueTile w bank.toNat (.mma 0 0) [] s)
    | (l0, _) :: _ =>
      let f := (valAt vs 0 l0).toNat
      let diff := (lanesOf w.ex).filter (fun l => (valAt vs 0 l).toNat != f)
      if !diff.isEmpty then .trap { cause := 0x03, mask := maskOf diff } s
      else if !fmtValid f then .trap { cause := 0x01, mask := w.ex.toNat } s
      else
        let o := s.kAt k
        match tileCheck ls (fmtHalf f 0).span (some (o, (fmtHalf f 1).span)) s with
        | some t => .trap t s
        | none =>
          if (s.eng (qkey s.focus.h s.focus.t 0)).versioned s.gcc && s.lg.verOf bank.toNat != ver.toNat then
            laneStall 0x0B (s.onLg (fun g => { g with wait := some (match g.wait with
              | some x => if x.kind == .version then x else { kind := .version, since := s.gcc }
              | none => { kind := .version, since := s.gcc }) }))
          else
            let lanes := ls.map (fun l => (l.1, BitVec.ofNat 32 l.2))
            .ok () (issueTile w bank.toNat (.mma f o) lanes s)) s

/-- MZERO (R252). -/
def execMzero (g : Guard) (bank : BitVec 2) (s : State) : Res :=
  laneIssue g false false [] {} (fun _ s => tileFull s) (fun w _ s =>
    .ok () (issueTile w bank.toNat .mzero ((lanesOf w.ex).map (fun l => (l, 0))) s)) s

/-- An MRD waits for the accumulator commands on its bank that were issued before its block (R68, R253). -/
def mrdWait (d : Dst) (bank : Nat) (w : Lw) (s : State) : Option Nat :=
  if s.cmdWait s.focus.h s.focus.t s.lb.pos [0] (bankSpan bank false) then some 0x0B else oqFull d w s

/-- MRD: raw bits of a cell (R252). -/
def execMrd (g : Guard) (d : Dst) (bank : BitVec 2) (col : BitVec 5) (s : State) : Res :=
  let r : Regs := { wv := dstCodes d 1, wp := dstPreds d, bank := some bank.toNat, code := (dstCode d).toNat, lat := 8 }
  laneIssue g false false [] r (mrdWait d bank.toNat) (fun w _ s =>
    .ok () (writeResult d false 8 w (fun l => BitVec.ofNat 64 (s.lg.accAt bank.toNat l col.toNat)) 0 s)) s

/-- MWR: raw bits to a cell (R252). -/
def execMwr (g : Guard) (a : Src) (bank : BitVec 2) (col : BitVec 5) (s : State) : Res :=
  laneIssue g false false [(a, false)] {} (fun _ s => tileFull s) (fun w vs s =>
    .ok () (issueTile w bank.toNat (.mwr col.toNat) ((lanesOf w.ex).map (fun l => (l, lo32 (valAt vs 0 l)))) s)) s

/-- MSCAT (R252). -/
def execMscat (g : Guard) (rm : Rm) (a : Src) (bank : BitVec 2) (fmt : AccFmt) (s : State) : Res :=
  laneIssue g false false [(a, false)] {} (fun _ s => tileFull s) (fun w vs s =>
    let ls := (lanesOf w.ex).map (fun l => (l, (valAt vs 0 l).toNat))
    match tileCheck ls (32 * accWidth fmt) none s with
    | some t => .trap t s
    | none => .ok () (issueTile w bank.toNat (.mscat rm fmt) (ls.map (fun l => (l.1, BitVec.ofNat 32 l.2))) s)) s

/-- MVER: the version current at issue (R251). -/
def execMver (g : Guard) (d : Dst) (bank : BitVec 2) (s : State) : Res :=
  laneFixed g false d false [] { bank := some bank.toNat, code := (dstCode d).toNat } 4 (fun _ _ s =>
    (fun _ => BitVec.ofNat 64 (s.lg.verOf bank.toNat), 0)) s

/-! ## Performing tile operations (R250) -/

/-- Cycles for which an operation holds the quarter at least (R250, R252). -/
def tileTime : TileK → Nat
  | .mma f _ => if (fmtHalf f 0).fam = 0 then (fmtHalf f 0).krd * (fmtHalf f 1).krd else 8
  | .mzero => 1
  | .mwr _ => 1
  | .mscat _ .f32 => 4
  | .mscat _ _ => 2

/-- An accumulator value in a format of MSCAT or ACCST, with flags (R96, R252, R254). -/
def accNarrow (f : AccFmt) (rm : Rm) (z : Bool) (v : Nat) : Nat × Nat :=
  match f with
  | .f32 => (v, 0)
  | .bf16 => narrow bf16 rm z (f32.unpack z v)
  | .f16 => narrow f16 rm z (f32.unpack z v)

/-- The cells of one row of an MMA: a byte that a later STS of the group has replaced is the one that program order gives (R60, R63). -/
def mmaRow (hh : Hearth) (o : LaneOp) (f off : Nat) (g : Group) (l : Nat × Word) : Group :=
  let row := ((hh.padBytes l.2.toNat (fmtHalf f 0).span).zipIdx).map (fun q => (Map.find? o.keep (l.2.toNat + q.2)).getD q.1)
  (natsFrom 0 32).foldl (fun (g : Group) (c : Nat) =>
    let col := hh.bstBytes c off (fmtHalf f 1).span
    let (v, fl) := mmaCell f o.z (fun i => row.getD i 0) (fun i => col.getD i 0) (g.accAt o.bank l.1 c)
    { g.setAcc o.bank l.1 c v with fflags := g.fflags ||| fl }) g

/-- Perform a tile operation on its group and hearth. -/
def tilePerform (o : LaneOp) (s : State) (h g : Nat) : State :=
  let k := ckey h g
  -- a result that is due by now comes first, so that an OR of the same cycle is not lost (R87)
  let s := s.settleGroup h g
  let hh := (s.hearth h).under o
  let cells (f : Group → Nat → Nat → Group) : State := s.modGroup k (fun gr =>
    o.lanes.foldl (fun (gr : Group) (l : Nat × Word) => (natsFrom 0 32).foldl (fun gr c => f gr l.1 c) gr) gr)
  match o.tile with
  | some (.mma f off) => s.modGroup k (fun gr => o.lanes.foldl (mmaRow hh o f off) gr)
  | some .mzero => cells (fun gr r c => gr.setAcc o.bank r c 0)
  | some (.mwr col) => s.modGroup k (fun gr => o.lanes.foldl (fun (gr : Group) (l : Nat × Word) => gr.setAcc o.bank l.1 col l.2.toNat) gr)
  | some (.mscat rm f) =>
    (freeOrder s.tick 32 o.lanes).foldl (fun s l =>
      (natsFrom 0 32).foldl (fun s c =>
        let (v, fl) := accNarrow f rm o.z ((s.group k).accAt o.bank l.1 c)
        let a := l.2.toNat + c * accWidth f
        let s := s.modGroup k (fun gr => { gr with fflags := gr.fflags ||| fl })
        let b := (hh.padAddr a).getD 0
        (s.modHearth h (fun hh => hh.setPad b (bytesOf v (accWidth f)))).wrotePad k b (accWidth f)) s) s
  | none => s

/-- A tile operation whose completion raises the version of its bank (R251). -/
def bumps : TileK → Bool
  | .mscat .. => false
  | _ => true

/-- A tile operation waits for the earlier-issued accumulator commands on its bank and, an MMA, for the earlier-issued BLOADBs of
the task: accesses of class 0 (R68, R253, R264). -/
def State.tileWaits (s : State) (h g : Nat) (o : LaneOp) : Bool :=
  o.spans.any (fun r => s.cmdWait h g o.pos [if r.sp = .bst then 1 else 0] r)

/-- TILE_OP_START: the oldest tile operation that has not started does so once none is in progress and its A rows are in the feeder, which this
step moves on; the stores of an MSCAT ask for their banks (R15, R17, R250). -/
def execTileOpStart (h g : Nat) (s : State) : Res :=
  let k := ckey h g
  let s := s.feedStep h g
  match (s.group k).ops.filter (fun o => o.cls == .t && !o.done) with
  | o :: _ =>
    let unfed := match o.tile with | some (.mma ..) => !o.fed | _ => false
    if o.started || unfed || s.tileWaits h g o || s.tileHeld h o then .next s
    else .next ((s.modGroup k (fun gr => { gr with ops := gr.ops.map (fun p =>
      if p.id = o.id then { p with started := true, t0 := s.gcc } else p) })).modHearth h (fun hh => hh.bankAsk g (hh.scatUnits o)))
  | [] => .next s

/-- A bank has still to serve a store of an MSCAT (R15). -/
def State.scattering (s : State) (h g : Nat) (o : LaneOp) : Bool :=
  let hh := s.hearth h
  (hh.scatUnits o).any (fun a => Map.get 0 hh.banks (64 * g + a / 16 % 64) != 0)

/-- TILE_OP_COMPLETE: the operation in progress has held the quarter for its time, and the banks have served it; its cells or bytes are written
(R15, R250-R252). -/
def execTileOpComplete (h g : Nat) (s : State) : Res :=
  let k := ckey h g
  match (s.group k).ops.find? (fun o => o.cls == .t && !o.done && o.started) with
  | none => .next s
  | some o =>
    let t := o.tile.getD .mzero
    if s.gcc < o.t0 + tileTime t || s.scattering h g o then .next s
    else
      match (s.hearth h).mmaBad o with
      | some a =>
        -- the operation ends without a cell, and the task traps at its word (R417, R439; notes/assumptions/66)
        let s := s.modGroup k (fun gr => Group.retire { gr with ops := gr.ops.map (fun p => if p.id = o.id then { p with done := true } else p) })
        .next (s.takeTrap h g { cause := 0x0F, agent := 1, d8 := a, mask := maskOf (o.lanes.map (·.1)), who := .group h g
                                slot := ((s.group k).blk.getD {}).slot, pos := some (o.pass * 2 ^ 28 + o.word * 2 ^ 16 + o.seq) })
      | none =>
      let s := tilePerform o s h g
      .next (s.modGroup k (fun gr =>
        let gr := if bumps t && !o.lanes.isEmpty then gr.bump o.bank else gr
        Group.retire { gr with ops := gr.ops.map (fun p => if p.id = o.id then { p with done := true } else p) }))

end Sys2Proof.Machine
end

