-- ==== Sys2Proof/Machine/LaneSteps.lean ====
section
/-! DEFINITION. The steps of a lane group outside its words: entries taken from the BQ, window spill and fill, the start of a
pass, results written (spec/02 R32-R43; spec/14 R298, R299, R307-R310). -/

namespace Sys2Proof.Machine

/-- A context whose group may take entries and start passes: running, neither trapped, halted nor about to halt, or running the
one pass of a debug step (R330, R332, R419). -/
def State.groupFree (s : State) (h g : Nat) : Bool :=
  let x := s.ctx (ckey h g)
  x.st == .running && !x.stopped s.gcc 1 && ((!x.halted && !x.haltReq) || x.step1) && (s.group (ckey h g)).fault.isNone

/-- The group may take the entry at the head of its BQ: no block runs, its results are written, no window change is under way
(R35, R299). -/
def State.mayTake (s : State) (h g : Nat) : Bool :=
  let gr := s.group (ckey h g)
  s.groupFree h g && gr.blk.isNone && gr.pend.isEmpty && gr.winTo.isNone

/-- Kind of an entry (R32). -/
def BqE.kind (e : BqE) : Nat := bitsOf e.bits.toNat 127 124
/-- Signed window delta of an entry (R32). -/
def BqE.delta (e : BqE) : Int := (BitVec.ofNat 5 (bitsOf e.bits.toNat 106 102)).toInt

/-- A reserved field of an entry is set (R4, R32): only an entry from a restored image can show it. -/
def BqE.reserved (e : BqE) : Bool :=
  let b := e.bits.toNat
  if e.kind = 0 then bitsOf b 83 64 != 0
  else if e.kind = 1 then bitsOf b 107 102 != 0 || bitsOf b 95 84 != 0 || bitsOf b 79 64 != 0
  else if e.kind = 2 then bitOf b 107 || bitsOf b 95 0 != 0
  else false

/-- The encoding trap of an entry at the head of the BQ: of another kind, or with a reserved field set (R4, R32; notes/assumptions/96). -/
def State.bqTrap (s : State) (h g : Nat) (e : BqE) : State :=
  s.takeTrap h g { cause := 0x01, agent := 1, pos := some (bitsOf e.bits.toNat 123 108), who := .group h g }

/-- Remove the head of the BQ. -/
def State.popBq (s : State) (k : Nat) : State := s.modCtx k (fun x => { x with bq := x.bq.tail })

/-- A window fault (R310). -/
def winTrap (sub sq : Nat) : Trap := { cause := 0x12, sub := sub, agent := 6, pos := some sq }

/-- Begin to apply a delta (R308, R309): `none` where WA would become negative. -/
def Group.winBegin (g : Group) (delta : Int) (sq : Nat) : Option Group :=
  let new : Int := g.wa + delta
  if new < 0 then none
  else
    let n := new.toNat
    if n + 15 < g.lo + 64 && decide (g.lo ≤ n) then some { g with wa := n }
    else some { g with winTo := some n, winPart := 0, winSeq := sq }

/-- The bytes of atom i of a chunk: register i / 4 of the chunk, eight lanes (R58, R309). -/
def Group.chunkAtom (g : Group) (a i : Nat) : List Byte :=
  ((natsFrom 0 8).map (fun l => bytesOf (g.vAt ((8 * a + i / 4) % 512) (8 * (i % 4) + l)).toNat 4)).flatten

/-- Put 32 bytes into atom i of a chunk. -/
def Group.setChunkAtom (g : Group) (a i : Nat) (d : List Byte) : Group :=
  (natsFrom 0 8).foldl (fun (g : Group) (l : Nat) =>
    g.setV ((8 * a + i / 4) % 512) (8 * (i % 4) + l) (BitVec.ofNat 32 (natOfBytes (sliceOf d (4 * l) 4)))) g

/-- A SPILL OR FILL advances by one atom of 32 bytes (R309, R310): accesses of the lane queue at H scope and class 0. -/
def State.windowStep (s : State) (h g : Nat) : State :=
  let k := ckey h g
  let gr := s.group k
  let x := s.ctx k
  let me : Who := .window h g
  match gr.winTo with
  | none => s
  | some new =>
    -- the group's earlier accesses come first in program order (R60, R218, R309)
    if gr.ops.any (fun o => o.cls != .t && o.kind != .stx && !o.performed) then s
    else
    let spill := decide (gr.lo + 64 ≤ new + 15)
    if !spill && decide (gr.lo ≤ new) then s.modGroup k (fun gr => { gr with wa := new, winTo := none })
    else
      let a := if spill then gr.lo else gr.lo - 1
      if spill && decide (s.psize x.part < 32 * a + 32) then s.takeTrap h g (winTrap 2 gr.winSeq)
      else
        let va := s.pbase x.part h g + 1024 * a + 32 * gr.winPart
        match gr.xfs.head? with
        | some f => (s.modGroup k (fun gr => { gr with xfs := [] })).takeTrap h g
            { cause := f.cause, sub := f.sub, agent := 6, pos := some gr.winSeq, d8 := f.va }
        | none =>
          -- an access that is under way keeps its target
          match (match gr.winX.bound with | some t => Xl.ok t | none => s.reach h x.part va (if spill then .write else .read)) with
          | .bad c u => s.takeTrap h g { cause := c, sub := u, agent := 6, pos := some gr.winSeq, d8 := va }
          | .miss =>
            if gr.walking then s
            else (s.askWalk h x.part va (if spill then .write else .read) me).modGroup k (fun gr => { gr with walking := true })
          | .ok t =>
            let p : Port := { h := h, p := x.part, c := g, who := me, pts := gr.pts, x := gr.winX, priv := true }
            let (r, s, p) := if spill then s.accStore p t (gr.chunkAtom a gr.winPart) va 0 0 else s.accLoad p t 32 va 0 0
            let s := if p.x.out && !gr.winX.out then s.perf h g 0x0F 1 else s
            let s := s.modGroup k (fun gr => { gr with pts := max gr.pts p.pts, winX := p.x })
            match r with
            | .wait => s
            | .bad c u => s.takeTrap h g (if c = 0x0F then winTrap 4 gr.winSeq
                else { cause := c, sub := u, agent := 6, pos := some gr.winSeq, d8 := va })
            | .done d _ =>
              let s := if spill then s else s.modGroup k (fun gr => gr.setChunkAtom a gr.winPart d)
              if gr.winPart < 31 then s.modGroup k (fun gr => { gr with winPart := gr.winPart + 1 })
              else (s.perf h g 0x10 1).modGroup k (fun gr => { gr with winPart := 0, lo := if spill then a + 1 else a })

/-- The block of an entry (R32, R36). -/
def blkOf (e : BqE) : Blk :=
  let b := e.bits.toNat
  { seq := bitsOf b 123 108, idx := bitsOf b 95 84, n := bitsOf b 63 32, mask := BitVec.ofNat 32 (bitsOf b 31 0), rel := bitOf b 107,
    slot := bitsOf b 97 96, gen := bitsOf b 101 98, pos := e.pos, tab := e.tab, phase := e.phase }

/-- Take a block entry: its window delta begins to apply; an entry with N = 0 is consumed once it has applied (R35, R41, R163).
The timestamps that a BEMIT.RL carries wait for the next pass that starts (R65). -/
def State.takeBlock (s : State) (h g : Nat) (e : BqE) : State :=
  let k := ckey h g
  let b := blkOf e
  if e.reserved then s.bqTrap h g e
  else
  let s := (s.popBq k).perf h g 0x0D 1
  match (s.group k).winBegin e.delta b.seq with
  | none => s.takeTrap h g (winTrap 3 b.seq)
  | some gr => s.modGroup k (fun _ => { gr with
      blk := if b.n = 0 then none else some b
      acqPts := if b.rel then max gr.acqPts e.pts else gr.acqPts })

/-- BLOCK_TAKE: the group takes the block entry at the head of its BQ, or goes on with its spill or fill (R35, R163, R309). A
phase block is taken by PHASE_BLOCK_START. -/
def execBlockTake (h g : Nat) (s : State) : Res :=
  let k := ckey h g
  let s := s.settleGroup h g
  if (s.group k).winTo.isSome then .next (if s.groupFree h g then s.windowStep h g else s)
  else if !s.mayTake h g then .next s
  else
    match (s.ctx k).bq with
    | e :: _ => .next (if e.kind = 0 && e.phase.isNone then s.takeBlock h g e else s)
    | [] => .next s

/-- KSET_APPLY: k[index] takes the entry's value before the next block starts (R32, R35). -/
def execKsetApply (h g : Nat) (s : State) : Res :=
  let k := ckey h g
  let s := s.settleGroup h g
  if !s.mayTake h g then .next s
  else
    match (s.ctx k).bq with
    | e :: _ =>
      if e.kind = 1 then
        let b := e.bits.toNat
        if e.reserved then .next (s.bqTrap h g e)
        else .next ((s.popBq k).modGroup k (fun gr => { gr with k := Map.put gr.k (bitsOf b 83 80) (BitVec.ofNat 64 (bitsOf b 63 0)) }))
      else .next s
    | [] => .next s

/-- WINDOW_CHANGE_APPLY: the entry's delta is added to WA before the next block starts, with its spills and fills (R35, R309). -/
def execWindowChangeApply (h g : Nat) (s : State) : Res :=
  let k := ckey h g
  let s := s.settleGroup h g
  if (s.group k).winTo.isSome then .next (if s.groupFree h g then s.windowStep h g else s)
  else if !s.mayTake h g then .next s
  else
    match (s.ctx k).bq with
    | e :: _ =>
      if e.kind = 2 then
        let sq := bitsOf e.bits.toNat 123 108
        if e.reserved then .next (s.bqTrap h g e)
        else
        let s := s.popBq k
        match (s.group k).winBegin e.delta sq with
        | none => .next (s.takeTrap h g (winTrap 3 sq))
        | some gr => .next (s.modGroup k (fun _ => gr))
      else .next s
    | [] => .next s

/-- BQ_ENTRY_OTHER_KIND: an entry of a kind above 2 at the head of the queue is an encoding trap (R32). -/
def execBqEntryOtherKind (h g : Nat) (s : State) : Res :=
  let k := ckey h g
  let s := s.settleGroup h g
  if !s.mayTake h g then .next s
  else
    match (s.ctx k).bq with
    | e :: _ =>
      if 2 < e.kind then .next (s.bqTrap h g e)
      else .next s
    | [] => .next s

/-! ## Passes (R41, R160, R185) -/

/-- Keep fetched words in the block store. -/
def keepWords (key : Nat) : List Word64 → Map Word64 → Map Word64
  | [], m => m
  | w :: r, m => keepWords (key + 8) r (Map.put m key w)

/-- The stage predicates of a pass as a mask (R41, R328). -/
def stageMask (b : Blk) : Nat :=
  (natsFrom 0 8).foldl (fun a i => if stageOn b (.st (BitVec.ofNat 3 i)) then a + 2 ^ i else a) 0

/-- The start of a pass: the stage predicates follow k, v112-v127 rotate by it; the first pass begins the block on the body as it
is fetched, and makes the acquires that wait for a pass (R41, R65, R185, R307). -/
def State.openPass (s : State) (h g : Nat) (body : List Word64) : State :=
  let k := ckey h g
  let s := s.perf h g 0x0E 1
  let s := s.modCtx k (fun x => { x with step1 := false })
  let p := (s.ctx k).part
  let s := s.fillStore h (fun hh => { hh with bstore := match (s.group k).blk with
    | some b => if b.k = 0 then keepWords (p * 2 ^ 52 + b.tab.body) body hh.bstore else hh.bstore
    | none => hh.bstore })
  s.modGroup k (fun gr => { gr with
    pts := max gr.pts gr.acqPts, acqPts := 0, nopage := []
    lastPos := (match gr.blk with | some b => b.seq * 2 ^ 48 + b.idx * 2 ^ 36 + b.k | none => gr.lastPos)
    lastSt := (match gr.blk with | some b => stageMask b | none => gr.lastSt)
    blk := gr.blk.map (fun b => { b with inPass := true, w := 0, body := if b.k = 0 then body else b.body }) })

/-- PASS_START (R41): with no pass open and passes left. -/
def execPassStart (h g : Nat) (s : State) : Res :=
  let k := ckey h g
  let gr := s.group k
  let p := (s.ctx k).part
  match gr.blk with
  | none => .next s
  | some b =>
    if b.inPass || b.fin || gr.winTo.isSome || !s.groupFree h g then .next s
    else if 0 < b.k then .next (s.openPass h g b.body)
    else
      match gr.xfs.head? with
      | some f => .next (s.trapLane h g { cause := f.cause, sub := f.sub, d8 := f.va, mask := 0 })
      | none =>
        match s.bodyWords h p b.tab.body b.tab.len with
        | (body, none) => .next ((s.bodySeen h p b.tab.body b.tab.len).openPass h g body)
        | (_, some (.bad c u va)) => .next ((s.dropLines h p).trapLane h g { cause := c, sub := u, d8 := va })
        | (_, some (.absent t)) => .next (s.askLine h p g t)
        | (_, some (.miss va)) =>
          (match gr.nopage.find? (fun q => q.va / 4096 == va / 4096) with
           | some q =>
             let (s, tok) := s.parkFault p h g 1 (.group h g) va 0 q.level q.reason q.tid q.tile
             .next (s.modGroup k (fun gr => { gr with fault := some tok, nopage := [] }))
           | none =>
             if gr.walking then .next s
             else .next ((s.askWalk h p va .read (.group h g)).modGroup k (fun gr => { gr with walking := true })))
        | (_, some (.ok _)) => .next s

/-- FIXED_LATENCY_WRITEBACK: every result that is due is written, and a block whose results are all written finishes (R164, R298). -/
def execFixedLatencyWriteback (h g : Nat) (s : State) : Res := .next (s.settleGroup h g)

end Sys2Proof.Machine
end

