-- ==== Sys2Proof/Machine/LanePhase.lean ====
section
/-! DEFINITION. Transfer phases and the Causeway's own steps: XMIT, XSEL, XSEL.F, the start, end and abort of a phase, releases,
broadcast values, exchange swaps, publications (spec/05 R103-R117; spec/03 R74-R77; spec/07 R156; spec/20 R406). -/

namespace Sys2Proof.Machine

/-! ## Circuit links (R115, R406) -/

/-- The opposite port: +X and -X, +Y and -Y; an express link keeps its port (R406). -/
def oppPort (q : Nat) : Nat := if q = 0 then 1 else if q = 1 then 0 else if q = 2 then 3 else if q = 3 then 2 else q

/-- The peer of a hearth on a circuit port, if the partition's wiring has that link (R406). -/
def State.circuit (s : State) (p h q : Nat) : Option Nat :=
  let e := Map.get 0 (s.part p).wires h
  if q < 6 && bitOf e (48 + q) then some (e / 2 ^ (8 * q) % 256) else none

/-- The cost of a link in cycles: 2, or 6 across a die edge (R115). -/
def linkCost (h peer : Nat) : Nat := if h / 48 = peer / 48 then 2 else 6

/-- Send a register over an output port of the executing hearth: beat 1 leaves in this cycle (R115, R117). -/
def phaseSend (n q : Nat) (vals : List Word) (s : State) : Ans Unit :=
  let h := s.focus.h
  match s.circuit s.lc.part h q with
  | none => .trap { cause := 0x07, sub := 5 } s
  | some peer =>
    if s.gcc < Map.get 0 (s.hearth h).outBusy q then .trap { cause := 0x07, sub := 3 } s
    else
      let r : Reg := { h := peer, port := oppPort q, at1 := s.gcc + linkCost h peer, vals := vals, ch := n, t0 := s.lb.t0 }
      let s := s.modHearth h (fun hh => { hh with outBusy := Map.put hh.outBusy q (s.gcc + 2) })
      .ok () { s with regsInFlight := s.regsInFlight ++ [r] }

/-- XMIT: one register of all 32 lanes, whatever their activity (R115, R236). -/
def execXmit (g : Guard) (a : BitVec 7) (port : BitVec 3) (s : State) : Res :=
  laneIssue g true false [(.v a, false)] {} (fun _ _ => none) (fun _ vs s =>
    if 6 ≤ port.toNat then .trap { cause := 0x01 } s
    else
      match s.lb.phase with
      | none => .trap { cause := 0x07, sub := 11, d8 := 0 } s
      | some n => phaseSend n port.toNat ((natsFrom 0 32).map (fun l => lo32 (valAt vs 0 l))) s) s

/-- A transfer-phase trap outside a word's issue, of the group that takes part in a channel's phase: the first of the phase sends
an abort (R117). -/
def State.phaseTrapAt (s : State) (n t0 h g sub : Nat) (abort : Bool) : State :=
  let gr := s.group (ckey h g)
  let pos := match gr.blk, (s.ctx (ckey h g)).bq with
    | some b, _ => blkPos b
    | none, e :: _ => bitsOf e.bits.toNat 123 108
    | none, [] => 0
  let mask := match gr.blk with | some b => (b.mask &&& ~~~gr.exited).toNat | none => 0
  let s := if abort then s.modChan n (fun c => c.sendAbort n t0 s.gcc) else s
  -- a phase binds no task that has come since the member's arrival (R112)
  if ((s.chan n).phases.find? (fun p => p.t0 == t0)).any (fun p => p.absent.contains (ckey h g)) then s else
  s.takeTrap h g { cause := 0x07, sub := sub, agent := 1, mask := mask, slot := (gr.blk.getD {}).slot, pos := some pos,
                   d8 := s.gcc - t0, who := .group h g }

/-- Register n in flight reaches the input port of the neighbouring hearth; a fifth register there is a trap (R115-R117). -/
def State.beatArrive (s : State) (n : Nat) : State :=
  match s.regsInFlight[n]? with
  | none => s
  | some r =>
    let s := { s with regsInFlight := dropAt s.regsInFlight n }
    if 4 ≤ ((s.hearth r.h).ports.filter (fun q => q.port == r.port)).length then
      match (s.chan r.ch).cfg.members.find? (fun k => k / 4 == r.h) with
      | some k => s.phaseTrapAt r.ch r.t0 (k / 4) (k % 4) 2 true
      | none => s
    else s.modHearth r.h (fun hh => { hh with ports := hh.ports ++ [r] })

/-- The registers that have come to a hearth by the present cycle stand at its ports (R115, R116). -/
def State.settleBeats (s : State) (h : Nat) : Nat → State
  | 0 => s
  | f + 1 =>
    match s.regsInFlight.findIdx? (fun r => r.h == h && decide (r.at1 ≤ s.gcc)) with
    | none => s
    | some n => (s.beatArrive n).settleBeats h f

/-- The oldest register at an input port, of whichever channel's phase (R116; where the phases of two channels share a port the spec does
not part them: DESIGN CHOICE, notes/assumptions/92). -/
def State.portHead (s : State) (q : Nat) : Option Reg := (s.hearth s.focus.h).ports.find? (fun r => r.port == q)

/-- Remove the oldest register of a port. -/
def dropPort (q : Nat) : List Reg → List Reg
  | [] => []
  | r :: l => if r.port = q then l else r :: dropPort q l

/-- What XSEL and XSEL.F share: the expected cycle, the register, its removal and the result (R116, R117, R239). `fwd` is the port
on which XSEL.F forwards it. The registers that arrive in the cycle come before the read, so that a fifth at a full port is subcause 2 (DESIGN
CHOICE, notes/assumptions/110). -/
def phaseSel (g : Guard) (d : Dst) (port : Nat) (fwd : Option Nat) (cyc : Nat) (s : State) : Res :=
  let s := s.settleBeats s.focus.h s.regsInFlight.length
  if s.lc.trapped.isSome then .next s
  else
  -- the result follows the cycle in which the register is complete by two cycles
  let lat := 2 + (match s.portHead port with | some r => r.at1 + 1 - s.gcc | none => 0)
  laneIssue g true false [] { wv := dstCodes d 1, lat := lat } (fun _ _ => none) (fun w _ s =>
    if 6 ≤ port || decide (6 ≤ fwd.getD 0) then .trap { cause := 0x01 } s
    else
      match s.lb.phase with
      | none => .trap { cause := 0x07, sub := 11 } s
      | some n =>
        if s.ph != cyc then .trap { cause := 0x07, sub := 4 } s
        else
          match s.portHead port with
          | none => .trap { cause := 0x07, sub := 1 } s
          | some r =>
            if r.bad || decide (s.gcc < r.at1 + (if fwd.isSome then 0 else 1)) then .trap { cause := 0x07, sub := 1 } s
            else
              (match fwd with
               | some q => phaseSend n q r.vals s
               | none => .ok () s).bind fun _ s =>
                .ok () (writeResult d false lat w (fun l => (r.vals.getD l 0).zeroExtend 64) 0
                  (s.modHearth s.focus.h (fun hh => { hh with ports := dropPort port hh.ports })))) s

/-- XSEL (R116, R236). -/
def execXsel (g : Guard) (d : Dst) (port : BitVec 3) (cyc : BitVec 16) (s : State) : Res :=
  phaseSel g d port.toNat none cyc.toNat s

/-- XSEL.F: forwards the register on a second port (R116, R236). -/
def execXselF (g : Guard) (d : Dst) (port port2 : BitVec 3) (cyc : BitVec 16) (s : State) : Res :=
  phaseSel g d port.toNat (some port2.toNat) cyc.toNat s

/-! ## The phase (R113, R114, R117) -/

/-! ## The start and the end -/

/-- The start of a phase block that is due at a member: its channel and phase (R114). -/
def Chan.startDue (c : Chan) (k gcc : Nat) : Option Nat :=
  if c.cfg.members.contains k then
    (c.phases.find? (fun p => !p.begun.contains k && !p.absent.contains k && decide (p.t0 + 8 ≤ gcc))).map (·.t0)
  else none

/-- The first channel with such a start. -/
def State.phaseStart (s : State) (k : Nat) : Option (Nat × Nat) :=
  (List.filterMap (fun (q : Nat × Chan) => (q.2.startDue k s.gcc).map (fun t0 => (q.1, t0))) s.chans).head?

/-- PHASE_BLOCK_START: at ph = 8 the member's phase block starts: it stands at the head of the BQ, the block before it has
finished, its mode is exposed and its body is at hand (R114, R117). -/
def execPhaseBlockStart (h g : Nat) (s : State) : Res :=
  let s := s.settleGroup h g
  let k := ckey h g
  let p := (s.ctx k).part
  match s.phaseStart k with
  | none => .next s
  | some (n, t0) =>
    let s := s.modChan n (fun c => c.onPhase t0 (fun p => { p with begun := k :: p.begun }))
    let x := s.ctx k
    let gr := s.group k
    if x.st == .idle || x.trapped.isSome then .next s
    else
      match x.bq with
      | [] => .next (s.phaseTrapAt n t0 h g 6 true)
      | e :: _ =>
        if e.kind != 0 || e.phase != some n || gr.blk.isSome || !gr.pend.isEmpty || gr.winTo.isSome || !s.groupFree h g then
          .next (s.phaseTrapAt n t0 h g 6 true)
        else if e.tab.inter then .next (s.phaseTrapAt n t0 h g 7 true)
        else
          match s.bodyWords h p e.tab.body e.tab.len with
          | (body, none) =>
            let s := (s.bodySeen h p e.tab.body e.tab.len).takeBlock h g e
            if (s.ctx k).trapped.isSome || (s.group k).blk.isNone then .next s
            else if (s.group k).winTo.isSome then .next (s.phaseTrapAt n t0 h g 9 true)
            else .next ((s.modGroup k (fun gr => { gr with blk := gr.blk.map (fun b => { b with t0 := t0 }) })).openPass h g body)
          | _ => .next (s.phaseTrapAt n t0 h g 9 true)

/-- XMIT_BEAT_ARRIVE: register n reaches the input port of the neighbouring hearth (R115-R117). -/
def execXmitBeatArrive (n : Nat) (s : State) : Res :=
  match s.regsInFlight[n]? with
  | none => .next s
  | some r => .next (if s.gcc < r.at1 then s else s.beatArrive n)

/-- A register of a phase. -/
def Reg.ofPhase (r : Reg) (n t0 : Nat) : Bool := r.ch == n && r.t0 == t0

/-- A phase of a channel is over: its registers are discarded, and without another the data network is in packet mode again (R113, R117). -/
def State.closePhase (s : State) (n t0 : Nat) : State :=
  let ms := (s.chan n).cfg.members
  let s := ms.foldl (fun s k => s.modHearth (k / 4) (fun hh => { hh with ports := hh.ports.filter (fun r => !r.ofPhase n t0) })) s
  State.modChan { s with regsInFlight := s.regsInFlight.filter (fun r => !r.ofPhase n t0) } n
    (fun c => { c with phases := c.phases.filter (fun p => p.t0 != t0) })

/-- A member whose phase block still runs. -/
def State.inPhase (s : State) (n t0 k : Nat) : Bool :=
  match (s.group k).blk with | some b => b.phase == some n && b.t0 == t0 | none => false

/-- A register of a phase that a hearth has not read: at its ports, or still on its way to it. -/
def State.unread (s : State) (n t0 h : Nat) : Bool :=
  (s.hearth h).ports.any (fun r => r.ofPhase n t0) || s.regsInFlight.any (fun r => r.h == h && r.ofPhase n t0)

/-- PHASE_END: at ph = LPH the phase closes; a phase block that still runs, or a register that nobody has read, is a trap at its
hearth (R113, R114, R117). -/
def execPhaseEnd (ch : Nat) (s : State) : Res :=
  let c := s.chan ch
  match c.phases with
  | [] => .next s
  | p :: _ =>
    if s.gcc < p.t0 + c.cfg.lph then .next s
    else
      -- a block runs until its last result has been written (R164)
      let s := c.cfg.members.foldl (fun s k => s.settleGroup (k / 4) (k % 4)) s
      let late (s : State) (k : Nat) : Bool := !p.absent.contains k && (s.inPhase ch p.t0 k || s.unread ch p.t0 (k / 4))
      let s := c.cfg.members.foldl (fun s k => if late s k then s.phaseTrapAt ch p.t0 (k / 4) (k % 4) 8 false else s) s
      .next (s.closePhase ch p.t0)

/-- The phase of a channel whose abort has arrived. -/
def Chan.aborted (c : Chan) (gcc : Nat) : Option Phase :=
  c.phases.find? (fun p => match p.abort with | some t => decide (t ≤ gcc) | none => false)

/-- PHASE_ABORT: C cycles after the first trap of the phase, every other member still in its phase block traps at the word that it
is about to issue, and the phase closes (R117). -/
def execPhaseAbort (ch : Nat) (s : State) : Res :=
  let c := s.chan ch
  match c.aborted s.gcc with
  | none => .next s
  | some p =>
    let s := c.cfg.members.foldl (fun s k => s.settleGroup (k / 4) (k % 4)) s
    let s := c.cfg.members.foldl (fun s k =>
      if s.inPhase ch p.t0 k && (s.ctx k).trapped.isNone then s.phaseTrapAt ch p.t0 (k / 4) (k % 4) 10 false else s) s
    .next (s.closePhase ch p.t0)

/-! ## The Causeway's steps -/

/-- CAUSEWAY_RELEASE: a complete barrier instance releases at t_last + C; that of a PHASE channel opens a phase (R106, R113). -/
def execCausewayRelease (ch : Nat) (s : State) : Res :=
  let k := (s.chan ch).cfg.kind
  .next (if k = 1 || k = 2 || k = 3 then s.settleChan ch else s)

/-- REDUCTION_RELEASE: a complete reduction instance releases at t_last + C with its result (R110). -/
def execReductionRelease (ch : Nat) (s : State) : Res := .next (if (s.chan ch).cfg.kind = 5 then s.settleChan ch else s)

/-- EXCHANGE_SWAP: the halves swap at every participant two cycles after the release (R76, R108). -/
def execExchangeSwap (ch : Nat) (s : State) : Res := .next (if (s.chan ch).cfg.kind = 2 then s.settleChan ch else s)

/-- BROADCAST_ARRIVE: the values of a channel that have been under way for C cycles fill their entries (R109). -/
def execBroadcastArrive (ch : Nat) (s : State) : Res :=
  .next ((s.chan ch).cfg.members.foldl (fun s k => s.modCtx k (fun x => x.settleRx ch s.gcc)) s)

/-- BCAST_HELD_SEND: a CWBCAST held at its sender is sent once every receiver has a free entry (R109). -/
def execBcastHeldSend (ch : Nat) (s : State) : Res :=
  match (s.chan ch).held with
  | some v => .next (if s.bcastRoom ch then s.bcastSend ch v else s)
  | none => .next s

/-- PUBLISH_FLIP: the exchanges of a tensor's sets that are due take effect at every home (R74, R75, R175). -/
def execPublishFlip (p tid : Nat) (s : State) : Res :=
  .next (s.modPart p (fun q => { q with shadow := Map.mod {} q.shadow tid (fun sh =>
    let due := sh.pend.filter (fun t => decide (t ≤ s.gcc))
    { act := (sh.act + due.length) % 2, tp := due.foldl max sh.tp, pend := sh.pend.filter (fun t => decide (s.gcc < t))
      pts := (sh.pubs.filter (fun q => decide (q.1 ≤ s.gcc))).foldl (fun a q => max a q.2) sh.pts
      pubs := sh.pubs.filter (fun q => decide (s.gcc < q.1)) }) }))

/-- EXCHANGE_WINDOW_SETTING_ARRIVE: the settings of hearth h that have been under way for 64 cycles reach every hearth of its
partition (R156). -/
def execExchangeWindowSettingArrive (h : Nat) (s : State) : Res :=
  let due := (s.hearth h).xnew.filter (fun q => decide (q.1 ≤ s.gcc))
  match due.getLast? with
  | none => .next s
  | some (_, w) =>
    let size := match w with | some x => x.size | none => 0
    let hs := match s.partOfHearth h with | some p => (s.part p).hset | none => 0
    let s := (natsFrom 0 192).foldl (fun s j => if hs.testBit j && j != h then s.modHearth j (fun hh => { hh with xseen := Map.set 0 hh.xseen h size }) else s) s
    .next (s.modHearth h (fun hh => { hh with xnew := hh.xnew.filter (fun q => decide (s.gcc < q.1)) }))

end Sys2Proof.Machine
end

