-- ==== Sys2Proof/Machine/EngineWords.lean ====
section
/-! DEFINITION. The engine words as their engine takes them from a queue: the parameter stack, the common words, the setters, the
markers, and the launch words, which become commands (spec/06 R146-R149; spec/10 R240-R246, R251, R255, R256, R258, R262-R275). -/

namespace Sys2Proof.Machine

/-! ## The queue whose word runs -/

/-- The engine code of a queue: 0 matrix, 1 copy, 2 stream, 3 rule. -/
def engCode (q : Nat) : Nat := if q < 4096 then q % 4 else 1

/-- The hearth that a queue belongs to; the engines of homes and I/O stops stand at places of their own above 1000 (R403). -/
def engHearth (q : Nat) : Nat :=
  if q < 4096 then q / 16
  else
    let e := q - 4096
    if e % 64 < 48 then 48 * (e / 64) + e % 64 else 1000 + e

/-- The context of a task's queue. -/
def engCtx (q : Nat) : Nat := q / 4 % 4

/-- Key of the context of a task's queue. -/
def engKey (q : Nat) : Nat := ckey (engHearth q) (engCtx q)

/-- The partition that a queue works for. -/
def State.engPart (s : State) (q : Nat) : Nat :=
  if q < 4096 then (s.ctx (engKey q)).part else ((s.eng q).crec.map (·.1)).getD 0

/-- Whether a queue may go on: its task runs and is not stopped, or it holds a copy record (R27, R243, R412, R419, R421). -/
def State.engFree (s : State) (q : Nat) : Bool :=
  if q < 4096 then
    let x := s.ctx (engKey q)
    x.st == .running && !x.stopped s.gcc (2 + engCode q) && !x.halted
  else (s.eng q).crec.isSome

/-- The same for commands that have been launched: they go on while their context is halted (R330). -/
def State.engLive (s : State) (q : Nat) : Bool :=
  if q < 4096 then
    let x := s.ctx (engKey q)
    x.st == .running && !x.stopped s.gcc (2 + engCode q)
  else (s.eng q).crec.isSome

/-- A trap of a queue: the task freezes, with the engine as its agent, or the copy record ends without completing (R27, R149). -/
def State.engFail (s : State) (q : Nat) (pc : Nat) (who : Who) (i : Trap) : State :=
  if q < 4096 then s.takeTrap (engHearth q) (engCtx q) { i with agent := 2 + engCode q, pc := pc, who := who }
  else
    match (s.eng q).crec with
    | some (p, r) => (s.trapNoCtx p { i with agent := 3 } (q - 4096) r.addr).modEng q (fun _ => {})
    | none => s

/-- Detail word 8 of an engine trap: queue position and element index (R417). -/
def engPos (pos elem : Nat) : Nat := pos + (elem % 2 ^ 32) * 2 ^ 32

/-- An engine-word trap of the word at the head of the queue. -/
def wordTrap : Trap := { cause := 0x09 }
/-- A configuration fault of a word. -/
def confTrap : Trap := { cause := 0x0C, sub := 4 }

/-- The queue passes its turn on (R243). -/
def State.passTurn (s : State) (q : Nat) : State :=
  let h := engHearth q
  let me := if q < 4096 then engCtx q else 4
  s.modHearth h (fun hh => { hh with turn := Map.put hh.turn (engCode q) ((me + 1) % 5) })

/-- TAKE A WORD that pops `pop` entries and leaves `push`: a stack that does not hold them, or that would hold more than 8, is an
engine stack trap, and a word that traps has no effect (R146, R149, R241). `f` sees the popped entries, the top first. -/
def engWord (pop push : Nat) (f : QWord → List Word64 → State → Ans (List Word64)) (s : State) : Res :=
  let q := s.focus.q
  let e := s.eng q
  match e.words with
  | [] => .next s
  | w :: _ =>
    let bad (i : Trap) (s : State) : State := s.engFail q w.pc .nobody
      { i with d8 := if i.cause = 0x08 || i.cause = 0x09 then engPos e.taken 0 else i.d8 }
    if e.stack.length < pop || 8 < e.stack.length - pop + push then .next (bad { cause := 0x08 } s)
    else
      match f w (e.stack.take pop) s with
      | .ok out s => .next (s.modEng q (fun e =>
          { e with words := e.words.tail, taken := (e.taken + 1) % 2 ^ 32, since := 0, stack := out ++ e.stack.drop pop }))
      | .wait s => .next (s.modEng q (fun e => { e with since := if e.since = 0 then s.gcc + 1 else e.since }))
      | .trap i s => .next (bad i s)

/-- A word that R149 refuses: an engine-word trap at its queue position. -/
def State.badWord (s : State) (q : Nat) : State :=
  let e := s.eng q
  s.engFail q ((e.words.head?.map (·.pc)).getD 0) .nobody { wordTrap with d8 := engPos e.taken 0 }

/-- A word whose argument the opcode map limits: outside the limit it is refused before its operands are looked at (R149). -/
def engArg (ok : Bool) (m : State → Res) (s : State) : Res :=
  if ok || (s.eng s.focus.q).words.isEmpty then m s else .next (s.badWord s.focus.q)

/-- A word that works on the stack alone. -/
def engPure (pop push : Nat) (f : List Word64 → List Word64) (s : State) : Res :=
  engWord pop push (fun _ l s => .ok (f l) s) s

/-- A word that sets a piece of the queue's state. -/
def engSet (pop : Nat) (f : List Word64 → State → Ans (EngQ → EngQ)) (s : State) : Res :=
  engWord pop 0 (fun _ l s => (f l s).bind fun g s => .ok [] (s.modEng s.focus.q g)) s

/-! ## Common words (R146, R242) -/

/-- LIT with C = 0 (R146). -/
def execLitPush (i : BitVec 14) (s : State) : Res := engPure 0 1 (fun _ => [i.zeroExtend 64]) s
/-- LIT with C = 1: TOS ← (TOS << 14) | imm (R146). -/
def execLitContinue (i : BitVec 14) (s : State) : Res :=
  engPure 1 1 (fun l => [(l.headD 0 <<< 14) ||| i.zeroExtend 64]) s
/-- NOP (R242). -/
def execEngineNop (s : State) : Res := engPure 0 0 (fun _ => []) s
/-- DUP (R242). -/
def execDup (s : State) : Res := engPure 1 2 (fun l => [l.headD 0, l.headD 0]) s
/-- DROP (R242). -/
def execDrop (s : State) : Res := engPure 1 0 (fun _ => []) s
/-- SWAP (R242). -/
def execSwap (s : State) : Res := engPure 2 2 (fun l => [l.getD 1 0, l.getD 0 0]) s
/-- OVER (R242). -/
def execOver (s : State) : Res := engPure 2 3 (fun l => [l.getD 1 0, l.getD 0 0, l.getD 1 0]) s
/-- NEG (R242). -/
def execNeg (s : State) : Res := engPure 1 1 (fun l => [-(l.headD 0)]) s
/-- SHLI: a shift of 0 to 63 (R242, R148). -/
def execShli (n : BitVec 8) (s : State) : Res := engArg (decide (n.toNat < 64)) (engPure 1 1 (fun l => [l.headD 0 <<< n.toNat])) s
/-- ADD (R242). -/
def execAdd (s : State) : Res := engPure 2 1 (fun l => [l.getD 1 0 + l.getD 0 0]) s
/-- GCCP: the GCC of the decode cycle plus n · 256 (R242). -/
def execGccp (n : BitVec 8) (s : State) : Res :=
  engPure 0 1 (fun _ => [BitVec.ofNat 64 s.gcc + n.signExtend 64 * 256]) s
/-- MODE: applies to the commands decoded after it (R246). -/
def execMode (rm : BitVec 3) (ftz : Bool) (s : State) : Res :=
  engArg (decide (rm.toNat < 4)) (engSet 0 (fun _ s => .ok (fun e => { e with rm := rm.toNat, ftz := ftz }) s)) s
/-- EFENCE: commands behind it start after every command ahead of it has completed (R172). -/
def execEfenceWord (s : State) : Res := engSet 0 (fun _ s => .ok (fun e => { e with items := e.items ++ [.fence] }) s) s

/-! ## Markers (R173, R180, R244) -/

/-- Perform a POST: the counter rises by 1, and past 2^31 - 1 it traps, with the word's queue position (R149, R173). -/
def State.performPost (s : State) (q c pos pc : Nat) : State :=
  let k := engKey q
  let v := Map.get 0 (s.ctx k).cmp c
  if v = 2 ^ 31 - 1 then s.engFail q pc .nobody { confTrap with d8 := engPos pos 0 }
  else s.modCtx k (fun x => { x with cmp := Map.put x.cmp c (v + 1), cmpMoved := Map.put x.cmpMoved c (s.gcc + 1) })

/-- A marker waits for the next cycle: a POST to a counter that has served a waiter in this one (R174). -/
def State.postWaits (s : State) (q c : Nat) : Bool := Map.get 0 (s.ctx (engKey q)).cmpServed c == s.gcc + 1

/-- Perform an ARRIVE: one arrival, and P falls by 1; a barrier that drains is invalid once P is 0 (R180, R244). -/
def State.performArrive (s : State) (q n : Nat) : State :=
  let k := engKey q
  let low (s : State) : State := s.modCtx k (fun x => { x with nb := Map.mod {} x.nb n (fun b =>
    { b with p := b.p - 1, st := if b.st == .draining && b.p ≤ 1 then .invalid else b.st }) })
  low (s.nbArrive k n)

/-- Drop the completed commands and the fences at the front of a queue's items, and perform the markers that nothing is ahead of
(R172, R244). -/
def State.settleMarkers (s : State) (q : Nat) : Nat → State
  | 0 => s
  | f + 1 =>
    let e := s.eng q
    let drop (s : State) : State := s.modEng q (fun e => { e with items := e.items.tail })
    match e.items with
    | [] => s
    | .cmd n :: _ =>
      let c := Map.get {} e.cmds n
      if c.done then (s.modEng q (fun e => { e with items := e.items.tail, cmds := Map.erase e.cmds n })).settleMarkers q f else s
    | .fence :: _ => (drop s).settleMarkers q f
    | .post c pos pc :: _ => if s.postWaits q c then s else ((drop s).performPost q c pos pc).settleMarkers q f
    | .arrive n _ _ :: _ => ((drop s).performArrive q n).settleMarkers q f

/-- Settle all the items of a queue. -/
def State.settleQueue (s : State) (q : Nat) : State := s.settleMarkers q (s.eng q).items.length

/-- POST: a marker; a copy record has no counter (R27, R244). -/
def execPost (n : BitVec 3) (s : State) : Res :=
  let q := s.focus.q
  engWord 0 0 (fun w _ s =>
    if 4096 ≤ q then .trap wordTrap s
    else .ok [] ((s.modEng q (fun e => { e with items := e.items ++ [.post n.toNat e.taken w.pc] })).settleQueue q)) s

/-- ARRIVE: a marker that raises P at decode; on an invalid or draining barrier it is refused (R27, R244). -/
def execArrive (n : BitVec 4) (s : State) : Res :=
  let q := s.focus.q
  engWord 0 0 (fun w _ s =>
    if 4096 ≤ q then .trap wordTrap s
    else if (Map.get {} (s.ctx (engKey q)).nb n.toNat).st != .armed then .trap confTrap s
    else
      let s := s.modCtx (engKey q) (fun x => { x with nb := Map.mod {} x.nb n.toNat (fun b => { b with p := b.p + 1 }) })
      .ok [] ((s.modEng q (fun e => { e with items := e.items ++ [.arrive n.toNat e.taken w.pc] })).settleQueue q)) s

/-! ## Launch words (R243, R263) -/

/-- The commands of a hearth's copy engine, of its tasks and its copy records alike (R263). -/
def State.copyCmds (s : State) (h : Nat) : List (Nat × Nat × Cmd) :=
  let qs := if h < 1000 then (natsFrom 0 4).map (fun c => qkey h c 1) ++ [crecKey (64 * (h / 48) + h % 48)] else [crecKey (h - 1000)]
  (qs.map (fun q => (s.eng q).cmds.map (fun (n, c) => (q, n, c)))).flatten

/-- A copy command that holds a place of the 64-entry buffer (R263). -/
def Cmd.pending (c : Cmd) : Bool := !c.done && !c.dead

/-- Append a command to the queue that runs, with the setters and the mode in force (R243); the turn passes. -/
def State.addCmd (s : State) (w : QWord) (c : Cmd) : State :=
  let q := s.focus.q
  let s := s.modEng q (fun e =>
    let c := { c with pos := e.taken, pc := w.pc, ipos := w.ipos, rm := e.rm, ftz := e.ftz, rdlim := e.rdlim, rxin := e.rxin, fibre := e.fibre,
                      rprog := e.rprog, ryout := e.ryout, no := s.tick, since := s.gcc
                      src := if c.src.isSome then c.src else e.src
                      dst := e.dst
                      box := if c.box.isSome then c.box else e.box }
    { e with cmds := Map.put e.cmds e.nextCmd c, items := e.items ++ [.cmd e.nextCmd], nextCmd := e.nextCmd + 1 })
  s.passTurn q

/-- A launch word: `f` checks the operands, in the order of the stack effect, and gives the command. -/
def engLaunch (pop : Nat) (f : List Word64 → State → Ans Cmd) (s : State) : Res :=
  engWord pop 0 (fun w l s => (f l.reverse s).bind fun c s => .ok [] (s.addCmd w c)) s

/-- A copy launch word: with the not-before time on top; a full buffer holds decoding (R263). -/
def engCopy (pop : Nat) (f : List Word64 → State → Ans Cmd) (s : State) : Res :=
  engLaunch pop (fun l s =>
    let t := (l.getLastD 0).toNat
    if 64 ≤ ((s.copyCmds (engHearth s.focus.q)).filter (fun c => c.2.2.pending)).length then .wait s
    else if s.gcc + 2 ^ 31 < t then .trap wordTrap s
    else (f l s).bind fun c s => .ok { c with t := t } s) s

/-- Bits above a field of an operand word are reserved (R241). -/
def above' (v : Word64) (n : Nat) : Bool := decide (2 ^ n ≤ v.toNat)

/-- The operands as numbers. -/
def nums (l : List Word64) : List Nat := l.map BitVec.toNat

/-- CPY (R264). -/
def execCpy (s : State) : Res :=
  engCopy 4 (fun l s => if above' (l.getD 2 0) 42 then .trap wordTrap s else .ok { kind := .cpy, args := nums l } s) s
/-- ZERO (R264). -/
def execZero (s : State) : Res :=
  engCopy 3 (fun l s => if above' (l.getD 1 0) 42 then .trap wordTrap s else .ok { kind := .zero, args := nums l } s) s
/-- BLOADB: only a hearth's engine has a B store (R264). -/
def execBloadb (s : State) : Res :=
  engCopy 4 (fun l s =>
    if above' (l.getD 2 0) 42 || decide (1000 ≤ engHearth s.focus.q) then .trap wordTrap s else .ok { kind := .bloadb, args := nums l } s) s
/-- XCH (R264). -/
def execXch (s : State) : Res :=
  engCopy 4 (fun l s =>
    if above' (l.getD 2 0) 42 || above' (l.getD 0 0) 40 then .trap wordTrap s else .ok { kind := .xch, args := nums l } s) s
/-- SLRED (R269). -/
def execSlred (s : State) : Res :=
  engCopy 4 (fun l s =>
    if above' (l.getD 1 0) 42 || above' (l.getD 2 0) 16 then .trap wordTrap s else .ok { kind := .slred, args := nums l } s) s

/-- A coordinate pair. -/
def pairOf (v : Word64) : List Nat := [v.toNat % 2 ^ 32, v.toNat / 2 ^ 32]

/-- A tensor operand from its words, checked: reserved bits, then the tensor (R262, R265). -/
def tenOp (rpt : Bool) (T c01 c23 : Word64) (raddr : Nat) (s : State) : Ans TenOp :=
  let t := T.toNat
  if above' T 19 || (!rpt && bitOf t 18) then .trap wordTrap s
  else if (s.tensor (s.engPart s.focus.q) (t % 2 ^ 16)).isNone then .trap confTrap s
  else .ok { tid := t % 2 ^ 16, cls := t / 2 ^ 16 % 4, rpt := bitOf t 18, raddr := raddr, c := pairOf c01 ++ pairOf c23 } s

/-- SRCT ( c01 c23 T -- ) (R265). -/
def execSrct (s : State) : Res :=
  engSet 3 (fun l s => (tenOp false (l.getD 0 0) (l.getD 2 0) (l.getD 1 0) 0 s).bind fun o s => .ok (fun e => { e with src := some o }) s) s

/-- DSTT ( c01 c23 T -- ), with a report address below when RPT = 1 (R265). -/
def execDstt (s : State) : Res :=
  let top := ((s.eng s.focus.q).stack.headD 0).toNat
  engSet (if bitOf top 18 then 4 else 3) (fun l s =>
    (tenOp true (l.getD 0 0) (l.getD 2 0) (l.getD 1 0) (l.getD 3 0).toNat s).bind fun o s => .ok (fun e => { e with dst := some o }) s) s

/-- BOX ( e01 e23 -- ): extents of the dimensions above are taken as 1 (R265). -/
def execBox (dM1 : BitVec 2) (s : State) : Res :=
  engSet 2 (fun l s =>
    let d := dM1.toNat + 1
    let e := pairOf (l.getD 1 0) ++ pairOf (l.getD 0 0)
    .ok (fun q => { q with box := some (d, (natsFrom 0 4).map (fun i => if i < d then e.getD i 1 else 1)) }) s) s

/-- Two formats that a tensor command can convert between, with the box and the origins of a block format (R266). -/
def convOk (a b : TenDesc) (so d : TenOp) (box : List Nat) : Bool :=
  let fl (f : Nat) : Bool := f == 0 || f == 1 || f == 2
  if fmtBpi a.fmt || fmtBpi b.fmt then
    a.fmt == b.fmt && a.p == b.p && box.getD 0 0 % 384 == 0 && so.c.getD 0 0 % 384 == 0 && d.c.getD 0 0 % 384 == 0
  else a.fmt == b.fmt || (fl a.fmt && fl b.fmt)

/-- The checks of a tensor launch: the three setters are set and the formats convert (R265, R266). -/
def tenLaunch (k : CmdK) (l : List Word64) (s : State) : Ans Cmd :=
  let e := s.eng s.focus.q
  let p := s.engPart s.focus.q
  match e.src, e.dst, e.box with
  | some a, some b, some (_, x) =>
    (match s.tensor p a.tid, s.tensor p b.tid with
     | some da, some db => if convOk da db a b x then .ok { kind := k, args := nums l } s else .trap wordTrap s
     | _, _ => .trap confTrap s)
  | _, _, _ => .trap wordTrap s

/-- TCPY ( t -- ) (R266). -/
def execTcpy (s : State) : Res := engCopy 1 (tenLaunch .tcpy) s
/-- TGATH ( idx nw t -- ) (R267). -/
def execTgath (wide : Bool) (s : State) : Res :=
  engCopy 3 (fun l s => if above' (l.getD 1 0) 32 then .trap wordTrap s else tenLaunch (.tgath wide) l s) s
/-- TSCAT ( idx nw t -- ) (R267). -/
def execTscat (wide : Bool) (s : State) : Res :=
  engCopy 3 (fun l s => if above' (l.getD 1 0) 32 then .trap wordTrap s else tenLaunch (.tscat wide) l s) s

/-! ## Matrix engine -/

/-- ACCST ( addr pitch -- ) (R254). -/
def execAccst (bank fmt : BitVec 2) (s : State) : Res :=
  engArg (fmt != 3#2) (engLaunch 2 (fun l s =>
    if above' (l.getD 1 0) 34 then .trap wordTrap s else .ok { kind := .accst bank.toNat fmt.toNat, args := nums l, total := 1024 } s)) s
/-- ACCLD ( addr pitch -- ) (R254). -/
def execAccld (bank fmt : BitVec 2) (s : State) : Res :=
  engArg (fmt != 3#2) (engLaunch 2 (fun l s =>
    if above' (l.getD 1 0) 34 then .trap wordTrap s else .ok { kind := .accld bank.toNat fmt.toNat, args := nums l, total := 1024 } s)) s
/-- ACCCLR (R254). -/
def execAccclr (bank : BitVec 2) (s : State) : Res :=
  engLaunch 0 (fun _ s => .ok { kind := .accclr bank.toNat, total := 1 } s) s

/-- VMODE: refused where the partition has no version control (R251, R400). -/
def execVmode (on : Bool) (s : State) : Res :=
  engSet 0 (fun _ s =>
    if bitOf (s.preg (s.engPart s.focus.q) 0x128) 15 then
      .ok (fun e => { e with vmode := on, vmodeAt := s.gcc + 1, vmodeWas := if e.vmodeAt = s.gcc + 1 then e.vmodeWas else e.vmode }) s else .trap confTrap s) s

/-- FIBRE ( base size -- ): the fibre-cache region; one that overlaps the exchange window is refused (R255). -/
def execFibre (s : State) : Res :=
  engSet 2 (fun l s =>
    let size := (l.getD 0 0).toNat
    let base := (l.getD 1 0).toNat
    if base % 4096 != 0 || size % 4096 != 0 || decide (2 ^ 21 < size) || decide (2 ^ 22 < base + size) then .trap wordTrap s
    else
      match (s.hearth (engHearth s.focus.q)).xwin with
      | some x => if 0 < size && decide (base < x.base + x.size) && decide (x.base < base + size) then .trap confTrap s
          else .ok (fun e => { e with fibre := (base, size) }) s
      | none => .ok (fun e => { e with fibre := (base, size) }) s) s

/-- SPGEMM ( desc rows cap -- ) (R256). -/
def execSpgemm (s : State) : Res :=
  engLaunch 3 (fun l s =>
    let n := (l.getD 1 0).toNat / 2 ^ 32
    if above' (l.getD 2 0) 34 || n = 0 || decide (2 ^ 31 < n) then .trap wordTrap s else .ok { kind := .spgemm, args := nums l, total := 1 } s) s

/-! ## Rule engine (R258) -/

/-- RVTAB ( addr -- ) (R258). -/
def execRvtab (s : State) : Res := engLaunch 1 (fun l s => .ok { kind := .rvtab, args := nums l, total := 64 } s) s

/-- RXIN ( addr pitch n -- ) (R258). -/
def execRxin (bf : Bool) (s : State) : Res :=
  engSet 3 (fun l s =>
    let n := (l.getD 0 0).toNat
    if above' (l.getD 1 0) 34 || n = 0 || decide (2 ^ 20 < n) then .trap wordTrap s
    else .ok (fun e => { e with rxin := some ((l.getD 2 0).toNat, (l.getD 1 0).toNat, n, bf) }) s) s

/-- RPROG ( addr nw -- ): class in bits [33:32] of nw (R258). -/
def execRprog (s : State) : Res :=
  engSet 2 (fun l s =>
    let v := (l.getD 0 0).toNat
    if above' (l.getD 0 0) 34 || v % 2 ^ 32 = 0 then .trap wordTrap s
    else .ok (fun e => { e with rprog := some ((l.getD 1 0).toNat, v % 2 ^ 32, v / 2 ^ 32, 0) }) s) s

/-- RYOUT ( addr pitch m -- ) (R258). -/
def execRyout (s : State) : Res :=
  engSet 3 (fun l s =>
    if above' (l.getD 1 0) 34 || above' (l.getD 0 0) 32 then .trap wordTrap s
    else .ok (fun e => { e with ryout := some ((l.getD 2 0).toNat, (l.getD 1 0).toNat, (l.getD 0 0).toNat) }) s) s

/-- RDLIM: a depth limit of 1 to 63 (R258, R148). -/
def execRdlim (d : BitVec 8) (s : State) : Res :=
  engArg (decide (1 ≤ d.toNat) && decide (d.toNat < 64)) (engSet 0 (fun _ s => .ok (fun e => { e with rdlim := d.toNat }) s)) s

/-- REVAL: the three setters must be set (R258, R260). -/
def execReval (bM1 : BitVec 3) (s : State) : Res :=
  engLaunch 0 (fun _ s =>
    let e := s.eng s.focus.q
    match e.rxin, e.rprog, e.ryout with
    | some _, some (_, n, _, _), some _ => .ok { kind := .reval (bM1.toNat + 1), total := n } s
    | _, _, _ => .trap wordTrap s) s

/-! ## Stream engine (R271-R274) -/

/-- The number of elements of an affine stream. -/
def strmCount (l : List Word64) : Nat := (l.getD 1 0).toNat % 2 ^ 32 * ((l.getD 1 0).toNat / 2 ^ 32)

/-- STRM ( base cnt str ctl -- ) (R271). -/
def execStrm (q : BitVec 3) (s : State) : Res :=
  engLaunch 4 (fun l s =>
    if above' (l.getD 3 0) 4 then .trap wordTrap s else .ok { kind := .strm q.toNat, args := nums l, total := strmCount l } s) s

/-- OSTRM ( base cnt str ctl -- ): width code 10 is reserved (R273). -/
def execOstrm (q : BitVec 2) (s : State) : Res :=
  engLaunch 4 (fun l s =>
    if above' (l.getD 3 0) 4 || (l.getD 3 0).toNat / 4 % 4 = 2 then .trap wordTrap s
    else .ok { kind := .ostrm q.toNat, args := nums l, total := strmCount l } s) s

/-- STRMT ( e01 e23 c01 c23 T -- ): no block format and no element wider than 4 bytes (R272). -/
def execStrmt (q : BitVec 3) (s : State) : Res :=
  engLaunch 5 (fun l s =>
    (tenOp false (l.getD 4 0) (l.getD 2 0) (l.getD 3 0) 0 s).bind fun o s =>
      match s.tensor (s.engPart s.focus.q) o.tid with
      | none => .trap confTrap s
      | some d =>
        if fmtBpi d.fmt || decide (4 < fmtSize d.fmt d.p) then .trap wordTrap s
        else
          let x := pairOf (l.getD 0 0) ++ pairOf (l.getD 1 0)
          .ok { kind := .strmt q.toNat, src := some o, box := some (4, x), total := x.foldl (· * ·) 1 } s) s

/-- The open stream of a queue of a task's group: `oq` tells an output stream. -/
def openStream (oq : Bool) (n : Nat) (e : EngQ) : Option (Nat × Cmd) :=
  List.find? (fun ((_, c) : Nat × Cmd) => c.started && !c.done && !c.dead && (match c.kind with
    | .strm i => !oq && i == n
    | .strmt i => !oq && i == n
    | .ostrm i => oq && i == n
    | _ => false)) e.cmds

/-- Push an entry of positions to an iq of a group; unfilled positions hold 0 (R270). -/
def Group.pushIq (g : Group) (n : Nat) (b : List Word) : Group :=
  let e := (natsFrom 0 32).map (fun i => b.getD i 0)
  { g with iq := Map.put g.iq n (Map.get [] g.iq n ++ [e]) }

/-- SCLOSE of an iq: the open stream stops fetching and its command completes at once; elements delivered stay (R274). -/
def execScloseIq (n : BitVec 3) (s : State) : Res :=
  engWord 0 0 (fun _ _ s =>
    let q := s.focus.q
    match openStream false n.toNat (s.eng q) with
    | none => .ok [] s
    | some (i, c) =>
      let s := if c.buf.isEmpty then s else s.modGroup (engKey q) (fun g => g.pushIq n.toNat c.buf)
      let s := s.modEng q (fun e => { e with cmds := Map.put e.cmds i { c with done := true, buf := [] } })
      .ok [] (s.settleQueue q)) s

/-- SCLOSE of an oq: the open stream ends once the whole entries already pushed are stored (R274). -/
def execScloseOq (n : BitVec 2) (s : State) : Res :=
  engWord 0 0 (fun _ _ s =>
    let q := s.focus.q
    match openStream true n.toNat (s.eng q) with
    | none => .ok [] s
    | some (i, c) =>
      let have' := (Map.get [] (s.group (engKey q)).oq n.toNat).length
      let stop := min c.total (c.elem / 32 * 32 + 32 * have')
      let s := s.modEng q (fun e => { e with cmds := Map.put e.cmds i { c with total := stop, done := decide (stop ≤ c.elem) } })
      .ok [] (s.settleQueue q)) s

end Sys2Proof.Machine
end

