-- ==== Sys2Proof/Machine/Network.lean ====
section
/-! DEFINITION. The homes and the three networks: requests performed at a home, replies, probes and recalls, fills and
evictions, the host's coherent accesses (spec/18 R372-R390; spec/17 R348-R350, R385, R386). -/

namespace Sys2Proof.Machine

/-- Cells of the float of an atomic: `Flags.addF32`. -/
def homeAdd : Nat → Nat → Nat := addF32

/-! ## What a request waits for at its home (R380, R385, R407) -/

/-- The address that a request works on. -/
def State.reqLoc (s : State) (r : Req) : Loc := s.placeOf r.who r.tgt (match r.kind with | .rd => false | .rnw => false | _ => true)

/-- The same as a number, 0 where there is none. -/
def Loc.addr : Loc → Nat
  | .at a => a
  | _ => 0

/-- Arrival order: a request for the same atom that arrived earlier is performed first, of two that arrive in one cycle the one that was
sent first (R380), and an earlier one over CXL.mem before a later one over CXL.mem (R387). -/
def State.behind (s : State) (n a : Nat) : Bool :=
  let me : Req := s.reqs[n]?.getD {}
  s.reqs.zipIdx.any (fun (q, i) => i != n
    && (((s.reqLoc q).addr / 32 == a / 32 && (decide (q.due < me.due) || (q.due == me.due && decide (i < n))))
      || (me.src == 1 && q.src == 1 && decide (i < n))))

/-- Atoms that the L2 of a slice holds (R7): 24 MiB. -/
def l2Atoms : Nat := 786432

/-- The L2 of an address's home has room for one more line of four atoms, the retired ones left out; else the fill waits for an eviction
(R7, R373, R450). -/
def State.l2Room (s : State) (a : Nat) : Bool :=
  decide ((s.atoms.filter (fun q => homeOf (32 * q.1) == homeOf a && !q.2.gone)).length + 4 * s.linesOut 1 (fun l => homeOf l == homeOf a) + 4 ≤ l2Atoms)

/-- A fill: an atom that is not present is fetched, and requests wait for it (R372, R380). -/
def homeFill (a : Nat) (s : State) : Ans Unit :=
  let fill (s : State) : Ans Unit := if s.l2Room a then .wait (s.modAtom a (fun t => { t with fp := true })) else .wait s
  match Map.find? s.atoms (a / 32) with
  | none => fill s
  | some t => if t.gone then fill s else if t.fp then .wait s else .ok () s

/-- The two atoms of a 64-byte line of the host. -/
def lineAtoms (a : Nat) : List Nat := [a / 64 * 64, a / 64 * 64 + 32]

/-- Host ownership: a write waits for BISnpInv, a read of an exclusive line for BISnpData (R385). -/
def homeSnoop (a : Nat) (write : Bool) (s : State) : Ans Unit :=
  let ho := (s.atom a).ho
  if ho = 0 || (!write && ho != 2) then .ok () s
  else if s.bisnps.any (fun b => b.line == a / 64) then .wait s
  else .wait { s with bisnps := s.bisnps ++ [{ line := a / 64, inv := write }] }

/-- Snoop lines of the host that are not being snooped (R385). -/
def State.snoopAll (s : State) (ls : List Nat) (inv : Bool) : State :=
  { s with bisnps := s.bisnps ++ (ls.filter (fun l => !s.bisnps.any (fun b => b.line == l))).map (fun l => { line := l, inv := inv }) }

/-- The probes of a recall of an atom (R381). -/
def State.recProbes (s : State) (a q : Nat) : List Probe := (natsFrom 0 192).map (fun h =>
  { kind := .recall, h := h, key := a / 32, seq := q, due := s.gcc + transit (.home (homeOf a)) (.hearth h), lim := s.gcc + 100 })

/-- A recall of an atom, and not of a granule (R381). -/
def Recall.of (r : Recall) (a : Nat) : Bool := r.key == a / 32 && r.home != 64

/-- A recall of an atom for a request or a snoop: begun when none of the atom is in progress, then awaited until every PACK has come; `ok`
gives the cycle in which it ended, and leaves no trace of it (R381, R382). -/
def homeRecall (own : Nat × Who) (a : Nat) (s : State) : Ans Nat :=
  match s.recalls.find? (fun r => r.of a) with
  | some r =>
    if r.done && r.own == own then .ok r.doneAt { s with recalls := s.recalls.filter (fun q => !q.of a) } else .wait s
  | none =>
    let q := ((s.atom a).seq + 1) % 256
    let s := s.modAtom a (fun t => { t with seq := q })
    .wait { s with probes := s.probes ++ s.recProbes a q
                   recalls := s.recalls ++ [{ key := a / 32, home := homeOf a, seq := q, missing := natsFrom 0 192, own := own }] }

/-- A home that waits for PACKs holds the requests queued on the atom, but that whose recall it is (R386, R388). -/
def State.recalled (s : State) (own : Nat × Who) (a : Nat) : Bool := s.recalls.any (fun r => r.of a && r.own != own)

/-- A request that leaves its home unperformed has no recall any more; one whose PACKs are missing ends with the last of them (R382). -/
def State.unrecall (s : State) (own : Nat × Who) : State :=
  { s with recalls := (s.recalls.filter (fun r => !(r.own == own && r.home != 64 && r.done))).map (fun r =>
      if r.own == own && r.home != 64 then { r with own := (7, .nobody) } else r) }

/-- A partition's share of a home in this period (R407). -/
def State.homeRoom (s : State) (a p : Nat) : Bool :=
  let b := s.budget p 0
  b == 0 || decide (Map.get 0 (s.slice (homeOf a)).used p + 1 ≤ (b + 47) / 48)

/-- The homes of a hot stack accept one request in two cycles, and a row that is being copied to a spare holds its requests
(R450, R452). -/
def State.gated (s : State) (a : Nat) : Bool :=
  (s.hotStacks.contains (homeOf a / 3) && decide (s.gcc < (s.slice (homeOf a)).gate))
    || (decide (a < hbmBytes) && s.boot.sparing.any (fun r => r.src == 0 && rasPlace 0 r.loc == rasPlace 0 a))

/-- Note that a home of a hot stack has admitted a request. -/
def State.admitReq (s : State) (a : Nat) : State :=
  if s.hotStacks.contains (homeOf a / 3) then s.modSlice (homeOf a) (fun t => { t with gate := s.gcc + 2 }) else s

/-- Send a reply. -/
def State.reply (s : State) (r : Rep) : State := { s with reps := s.reps ++ [r] }

/-- The reply to a request, with its addresses filled in. -/
def repOf (s : State) (r : Req) (k : RepK) : Rep :=
  { kind := k, who := r.who, h := r.h, key := s.l1Key r.h r.tgt, tgt := r.tgt.atomBase, part := r.part, src := r.src }

/-- The cycle at which the answer to a request performed at an address arrives (R11, R388). -/
def State.replyDue (s : State) (r : Req) (a : Nat) : Nat :=
  s.gcc + transit (.home (homeOf a)) (s.reqStop r (homeOf a))

/-- Take request n out of the network and perform `f` on it at its address. A request of another kind, one that has not arrived, one that
waits behind another for its atom, or one past its partition's share waits. A target that no longer translates is refused (R389). -/
def performReq (n : Nat) (k : ReqK) (f : Req → Nat → State → Ans Rep) (s : State) : Res :=
  match s.reqs[n]? with
  | none => .next s
  | some r =>
    if r.kind != k || decide (s.gcc < r.due) then .next s
    else
      let gone : Res := .next (({ s with reqs := dropAt s.reqs n }.unrecall (r.src, r.who)).reply
        { repOf s r .nack with val := 0, due := s.gcc + transit (.home r.home) (s.reqStop r r.home) })
      match s.reqLoc r with
      | .fault .. => gone
      | .bad .. => gone
      | .at a =>
        if s.behind n a || (r.src == 0 && !s.homeRoom a r.part) || s.gated a || s.recalled (r.src, r.who) a then .next s
        else
          match (homeFill a s).bind (fun _ s => f r a s) with
          | .ok rep s =>
            let s := (if r.src = 0 then s.countHome a r.part else s).admitReq a
            .next (({ s with reqs := dropAt s.reqs n }.unrecall (r.src, r.who)).reply { rep with due := max rep.due (s.replyDue r a) })
          | .wait s => .next s
          | .trap _ s => .next s

/-- The data reply of a read (R380): ERR for a poisoned atom. -/
def homeRd (r : Req) (a : Nat) (s : State) : Ans Rep :=
  if (s.atom a).psn then .ok (repOf s r .err) s
  else
    (homeSnoop a false s).bind fun _ s =>
      let ((d, w, t, q), s) := s.homeRead a r.pts (s.lease r.part)
      -- a host read for sharing leaves 01 on both atoms of the line, one for ownership 10 (R385)
      let s := if r.own = 0 then s else (lineAtoms a).foldl (fun s x => s.modAtom x (fun t => { t with ho := r.own })) s
      .ok { repOf s r .dat with data := d, wts := w, rts := t, seq := q, tag := s.winTag r.tgt } s

/-- RD (R380, R385). -/
def execRd (n : Nat) (s : State) : Res := performReq n .rd homeRd s

/-- RNW: renewed while the copy is current, else as RD (R380). -/
def execRnw (n : Nat) (s : State) : Res :=
  performReq n .rnw (fun r a s =>
    let t := s.atom a
    if t.psn then .ok (repOf s r .err) s
    else if s.ofOff a t.wts = r.wts then
      let rts := max t.rts (s.toOff a (r.pts + s.lease r.part))
      let s := (s.modAtom a (fun t => { t with rts := rts })).touchFrame a false
      .ok { repOf s r .rnwok with wts := r.wts, rts := s.ofOff a rts, seq := t.seq, val := r.a } s
    else homeRd r a s) s

/-- Refusal of a write that carries an older epoch of its context (R421). -/
def State.oldEpoch (s : State) (r : Req) : Bool := r.src == 0 && r.who != .nobody && r.epoch != (s.ctx r.ctx).epoch

/-- What every write waits for: host ownership, and at S scope or for a host write the recall, after which the leases end by
c + 71, c being the cycle in which it ended (R377, R380, R385). It gives the first cycle in which the acknowledgement may arrive: by then no
timestamp of the write lies more than 64 cy ahead (R391; notes/assumptions/108). -/
def homeWriteGate (r : Req) (a : Nat) (s : State) : Ans Nat :=
  (homeSnoop a true s).bind fun _ s =>
    if r.scope != 2 then .ok 0 s
    else (homeRecall (r.src, r.who) a s).bind fun c s =>
      .ok (c + 8) (s.modAtom a (fun t => { t with rts := min t.rts (s.toOff a (c + 71)) }))

/-- A whole atom is written. -/
def fullAtom (bs : List (Option Byte)) : Bool := bs.length == 32 && bs.all Option.isSome

/-- A WR or WB at the home (R380, R384, R389). -/
def homeWr (r : Req) (a : Nat) (s : State) : Ans Rep :=
  if s.oldEpoch r || (r.kind == .wb && r.epoch != (s.ctx r.ctx).epoch) then .ok { repOf s r .nack with val := 1 } s
  else if (s.atom a).psn && !(r.kind == .wr && fullAtom r.bytes) then .ok (repOf s r .err) s
  else (homeWriteGate r a s).bind fun due s =>
    let (w, s) := s.homeWrite a r.pts r.bytes
    -- bytes that the L1 could not read poison the atom (R439; notes/assumptions/66)
    let s := if r.psn then s.modAtom a (fun t => { t with psn := true }) else s
    .ok { repOf s r .wack with wts := w, due := due } (s.breakResv (tgtUnit r.tgt) r.who)

/-- WR (R380, R384). -/
def execWr (n : Nat) (s : State) : Res := performReq n .wr homeWr s

/-- WB: dirty L1 data performed at the home (R376, R380). -/
def execWb (n : Nat) (s : State) : Res := performReq n .wb homeWr s

/-- The reservation of the sender of a store-conditional still holds (R152). -/
def State.scHolds (s : State) (r : Req) : Bool :=
  match r.who with
  | .thread h t => (match (s.thread (tkey h t)).resv with | some v => v.valid | none => false)
  | _ => false

/-- AT: one element of T, its read and write adjacent (R71, R380); a store-conditional stores only while its sender's
reservation holds (R152). -/
def execAt (n : Nat) (s : State) : Res :=
  performReq n .at (fun r a s =>
    if s.oldEpoch r then .ok { repOf s r .nack with val := 1 } s
    else if (s.atom a).psn then .ok (repOf s r .err) s
    else (homeWriteGate r a s).bind fun due s =>
      let m := s.num a r.width
      if r.sc && !s.scHolds r then .ok { repOf s r .dat with atomic := true, val := 1, wts := s.ofOff a (s.atom a).wts, due := due } s
      else
        let v := if r.sc then r.b else atNew homeAdd r.op r.width m r.a r.b
        let (w, s) := s.homeWrite a r.pts ((bytesOf v r.width).map some)
        .ok { repOf s r .dat with atomic := true, val := if r.sc then 0 else m, wts := w, due := due }
          (s.breakResv (tgtUnit r.tgt) r.who)) s

/-! ## Replies (R376, R382, R383, R389) -/

/-- The data-reply network is in circuit mode for a partition: a phase of one of its channels is open (R113). -/
def State.phaseOpen (s : State) (p : Nat) : Bool := s.chans.any (fun (_, c) => c.part == some p && c.inPhase)

/-- a is newer than b, modulo 256 (R382). -/
def newer (a b : Nat) : Bool := decide (1 ≤ (a + 256 - b) % 256) && decide ((a + 256 - b) % 256 ≤ 127)

/-- A reply that its cache does not keep: a REC came while the miss was out, the granule has been zeroed since, or the set is older than the
last TREC (R369, R382, R383). -/
def State.staleRep (s : State) (r : Rep) : Bool :=
  let hh := s.hearth (r.key / 2 ^ 110)
  hh.noKeep.contains (r.key % 2 ^ 110)
    || (match Map.find? hh.seqSeen (r.key % 2 ^ 110) with | some q => newer q r.seq | none => false)
    || (match r.tag with
        | some (tid, p, tp) => decide (tp < Map.get 0 hh.trecSeen (2 ^ 16 * p + tid))
        | none => false)

/-- Something leaves on a link (notes/assumptions/114). -/
def State.wired (s : State) (x : Sent) : State := { s with wire := s.wire ++ [x] }

/-- The answer to the host or a peer that a reply brings: its atom's address and bytes, the old value of an atomic, or a refusal (R348, R385, R389,
R435, R439). -/
def Rep.sent (r : Rep) : Sent :=
  match r.kind with
  | .nack => { kind := .refusal, unit := r.src, addr := r.key % 2 ^ 110 * 32, n := r.val }
  | .err => { kind := .refusal, unit := r.src, addr := r.key % 2 ^ 110 * 32, n := r.val }
  | _ => { kind := .answer, unit := r.src, addr := r.key % 2 ^ 110 * 32, n := r.val, data := r.data }

/-- Take reply n, if it is of a kind and its network is not in circuit mode. -/
def takeRep (n : Nat) (ok : Rep → Bool) (f : Rep → State → State) (s : State) : Res :=
  match s.reps[n]? with
  | none => .next s
  | some r =>
    if !ok r || decide (s.gcc < r.due) || (r.src == 0 && s.phaseOpen r.part) then .next s
    else
      let s := { s with reps := dropAt s.reps n }
      -- the host stop's timestamp follows the acknowledgements of its accesses (R387)
      if r.src = 0 then .next (f r s)
      else
        let s := s.wired r.sent
        .next (if r.src = 3 then s else { s with hts := max s.hts r.wts })

/-- A write of the L1's hearth to an atom is on its way or unacknowledged: a reply that a read had is not kept (R64). -/
def State.writing (s : State) (key : Nat) : Bool :=
  s.reqs.any (fun r => r.src == 0 && !r.kind.reads && s.l1Key r.h r.tgt == key)
    || s.reps.any (fun r => r.src == 0 && r.key == key && (r.kind == .wack || r.atomic))

/-- Another miss of the L1's hearth for an atom is out: what it has noted of recalls stays (R382). -/
def State.missOut (s : State) (key : Nat) : Bool :=
  s.reqs.any (fun r => r.src == 0 && r.kind.reads && s.l1Key r.h r.tgt == key)
    || s.reps.any (fun r => r.src == 0 && r.key == key && (r.kind == .dat || r.kind == .rnwok) && !r.atomic)

/-- A miss of the L1's hearth has been answered. -/
def State.missDone (s : State) (key : Nat) : State :=
  if s.missOut key then s
  else s.modHearth (key / 2 ^ 110) (fun x => { x with
    seqSeen := Map.erase x.seqSeen (key % 2 ^ 110), noKeep := x.noKeep.filter (· != key % 2 ^ 110) })

/-- The copy that a reply meets in the L1: one of the other set of a shadowed window is none (R383). -/
def State.metBy (s : State) (r : Rep) : L1E :=
  match Map.find? s.l1 r.key with
  | some e => if e.tag = r.tag then e else { tgt := r.tgt, part := r.part, valid := 0 }
  | none => { tgt := r.tgt, part := r.part }

/-- An engine's load goes past the L1 (R72), as does a fetch from host memory. -/
def forEngine (w : Who) : Bool := match w with | .cmd .. => true | .line .. => true | _ => false

/-- A copy that cannot be read gives bytes of an atom that a reply brings (R439; notes/assumptions/66). -/
def L1E.spoils (e : L1E) (w : Nat) : Bool := e.psn && (natsFrom 0 32).any (e.leads w)

/-- The atom that a reply brings to an engine: bytes that its hearth's L1 holds before it come from there (R63); no copy of a shadowed window
is dirty, and it may be of the other set (R73, R74). -/
def State.engineAtom (s : State) (r : Rep) : List Byte :=
  match (if r.tgt.shadowed then none else Map.find? s.l1 r.key) with
  | some e => (natsFrom 0 32).map (fun i => if e.leads r.wts i then e.data.getD i 0 else r.data.getD i 0)
  | none => r.data

/-- DAT: the atom is installed with its lease and its dirty bytes kept, and the waiting access is served; the old value of an
atomic goes to its agent (R376, R377, R382, R383). -/
def execDat (n : Nat) (s : State) : Res :=
  takeRep n (fun r => r.kind == .dat) (fun r s =>
    if r.atomic then s.deliver r.who { ok := true, val := r.val, wts := r.wts }
    else if forEngine r.who then
      if !r.tgt.shadowed && ((Map.find? s.l1 r.key).map (fun e => e.spoils r.wts)).getD false then (s.missDone r.key).deliver r.who { ok := false, cause := 0x0F }
      else (s.missDone r.key).deliver r.who { ok := true, data := s.engineAtom r, wts := r.wts }
    else
      let e := s.metBy r
      let d := (natsFrom 0 32).map (fun i => if e.leads r.wts i then e.data.getD i 0 else r.data.getD i 0)
      let s := if s.staleRep r || s.writing r.key || decide (r.wts < e.wts) then s
        else s.putL1 r.key { e with data := d, wts := r.wts, rts := r.rts, seq := r.seq, tag := r.tag, valid := allBytes, psn := e.spoils r.wts }
      if e.spoils r.wts then (s.missDone r.key).deliver r.who { ok := false, cause := 0x0F }
      else (s.missDone r.key).deliver r.who { ok := true, data := d, wts := if e.dirty = 0 then max e.wts r.wts else max (max e.wts r.wts) e.hpts }) s

/-- RNWOK: the copy's lease is extended; an agent whose copy has gone, holds its bytes no longer, or is not the version renewed, asks again
(R376, R380). -/
def execRnwok (n : Nat) (s : State) : Res :=
  takeRep n (fun r => r.kind == .rnwok) (fun r s =>
    match Map.find? s.l1 r.key with
    | some e =>
      if r.val &&& e.valid != r.val || e.wts != r.wts then (s.missDone r.key).setXact r.who {}
      else
      let s := if s.staleRep r then s else { s with l1 := Map.put s.l1 r.key { e with rts := max e.rts r.rts, seq := r.seq } }
      if e.psn then (s.missDone r.key).deliver r.who { ok := false, cause := 0x0F }
      else (s.missDone r.key).deliver r.who { ok := true, data := e.data, wts := e.stamp r.val }
    | none => (s.missDone r.key).setXact r.who {}) s

/-- WACK: the agent's timestamp rises to wts; that of a write-back is kept for the releases of the hearth, and the copy's bytes take it
(R377, R67). -/
def execWack (n : Nat) (s : State) : Res :=
  takeRep n (fun r => r.kind == .wack) (fun r s =>
    if isWback r.who then
      let s := s.modHearth r.h (fun x => { x with wbPts := max x.wbPts r.wts })
      match Map.find? s.l1 r.key with
      | some e => if e.rts = 0 && !s.writing r.key then { s with l1 := Map.put s.l1 r.key { e with wts := r.wts, rts := r.wts } } else s
      | none => s
    else s.deliver r.who { ok := true, wts := r.wts }) s

/-- The cause and subcause of a refusal code (R389, R417). -/
def nackCause (c : Nat) : Nat × Nat := if c = 1 then (0x0C, 6) else if c = 2 then (0x0E, 0) else (0x0C, 2)

/-- NACK: a refusal for protection, a killed context or a tenant key (R389, R421). -/
def execNack (n : Nat) (s : State) : Res :=
  takeRep n (fun r => r.kind == .nack) (fun r s =>
    let (c, u) := nackCause r.val
    s.deliver r.who { ok := false, cause := c, sub := u }) s

/-- ERR: poisoned data, or the loss of the host link, cause 0x0F at the consumer; for a write-back, at the context that stored
(R384, R439; notes/assumptions/77). -/
def execErr (n : Nat) (s : State) : Res :=
  takeRep n (fun r => r.kind == .err) (fun r s =>
    match r.who with
    | .wback k va => s.takeTrap (k / 4) (k % 4) { cause := 0x0F, d8 := va }
    | w => s.deliver w { ok := false, cause := 0x0F, sub := r.val }) s

/-! ## Probes (R381-R383) -/

/-- The atoms that a cached copy may hold: a window's atom lies in either set. -/
def State.copyAtoms (s : State) (t : Tgt) : List Nat :=
  match t with
  | .win p tid va => [(s.winAt p tid va 0).addr / 32, (s.winAt p tid va 1).addr / 32]
  | t => [(s.place t false).addr / 32]

/-- Drop the copies of a hearth's L1 that a property names; dirty bytes go to their home first (notes/assumptions/17),
those of a frozen task stay alone (R420). -/
def State.dropL1 (s : State) (h : Nat) (p : L1E → Bool) : State :=
  let ks := (s.l1.filter (fun (k, e) => k / 2 ^ 110 == h && p e)).map (·.1)
  let s := ks.foldl State.writeBack s
  { s with l1 := s.l1.filterMap (fun (k, e) => if !ks.contains k then some (k, e)
      else if e.dirty != 0 && s.frozen e.ctx then some (k, { e with valid := 0, rts := 0 }) else none) }

/-- The home that waits for the answer to a probe; a TREC's answer goes to the hearth that sent it, where nothing waits for it. -/
def Probe.home (p : Probe) (k : Nat) : Nat := homeOf (if k = 0 then 32 * p.key else 4096 * p.key)

/-- Answer a probe with PACK (R381, R389). -/
def State.packOf (s : State) (p : Probe) (k : Nat) : Probe :=
  { p with kind := .pack, tp := k, lim := 0, due := if k = 2 then s.gcc else s.gcc + transit (.hearth p.h) (.home (p.home k)) }

/-- The L1 keys of a hearth whose misses for atoms of a set are out. -/
def State.missKeys (s : State) (h : Nat) (m : Nat → Bool) : List Nat :=
  ((s.reqs.filter (fun r => r.src == 0 && r.kind.reads && (s.copyAtoms r.tgt).any m)).map (fun r => s.l1Key r.h r.tgt)
    ++ (s.reps.filter (fun r => r.src == 0 && (s.copyAtoms r.tgt).any m)).map (·.key)).filter (fun k => k / 2 ^ 110 == h)

/-- REC: the hearth's L1 drops its copy unless the copy is newer, notes the SEQ for a miss that is out, and answers PACK
(R381, R382). -/
def execRec (n : Nat) (s : State) : Res :=
  match s.probes[n]? with
  | none => .next s
  | some p =>
    if p.kind != .recall || decide (s.gcc < p.due) then .next s
    else
      let s := { s with probes := dropAt s.probes n ++ [s.packOf p 0] }
      let s := s.dropL1 p.h (fun e => (s.copyAtoms e.tgt).contains p.key && newer p.seq e.seq)
      .next ((s.missKeys p.h (· == p.key)).foldl (fun s k =>
        s.modHearth p.h (fun x => { x with seqSeen := Map.put x.seqSeen (k % 2 ^ 110) p.seq })) s)

/-- TREC: the hearth's L1 drops the lines cached through the tensor's window (R383). -/
def execTrec (n : Nat) (s : State) : Res :=
  match s.probes[n]? with
  | none => .next s
  | some p =>
    if p.kind != .trec || decide (s.gcc < p.due) then .next s
    else
      let s := { s with probes := dropAt s.probes n ++ [s.packOf p 2] }
      let s := s.dropL1 p.h (fun e => match e.tag with | some (tid, q, _) => tid == p.key && q == p.part | none => false)
      let k := 2 ^ 16 * p.part + p.key
      .next (s.modHearth p.h (fun x => { x with trecSeen := Map.put x.trecSeen k (max (Map.get 0 x.trecSeen k) p.tp) }))

/-- ZREC: every atom of a granule that is being zeroed is dropped, and a miss for one that is out is not kept (R381, R369). -/
def execZrec (n : Nat) (s : State) : Res :=
  match s.probes[n]? with
  | none => .next s
  | some p =>
    if p.kind != .zrec || decide (s.gcc < p.due) then .next s
    else
      let s := { s with probes := dropAt s.probes n ++ [s.packOf p 1] }
      let s := s.dropL1 p.h (fun e => (s.copyAtoms e.tgt).any (fun a => a / 128 == p.key))
      .next ((s.missKeys p.h (fun a => a / 128 == p.key)).foldl (fun s k =>
        s.modHearth p.h (fun x => { x with noKeep := x.noKeep ++ [k % 2 ^ 110] })) s)

/-- An atom leaves the L2: the floor of its slice rises to its RTS (R373). What it is in memory stays: poisoned, or held by the host
with the SEQ that a copy of it may carry (notes/assumptions/22). -/
def State.dropAtom (s : State) (atom : Nat) : State :=
  match Map.find? s.atoms atom with
  | none => s
  | some t =>
    let s := s.modSlice (homeOf (32 * atom)) (fun sl => { sl with floor := max sl.floor t.rts })
    if t.psn || t.ho != 0 || t.seq != 0 then { s with atoms := Map.put s.atoms atom { gone := true, psn := t.psn, ho := t.ho, seq := t.seq } }
    else { s with atoms := Map.erase s.atoms atom }

/-- PACK: counts toward the completion of its recall (R381, R382). -/
def execPack (n : Nat) (s : State) : Res :=
  match s.probes[n]? with
  | none => .next s
  | some p =>
    if p.kind != .pack || decide (s.gcc < p.due) then .next s
    else
      let s := { s with probes := dropAt s.probes n }
      let mine (r : Recall) : Bool := r.key == p.key && (if p.tp = 1 then r.home == 64 else p.tp == 0 && r.home != 64 && r.seq == p.seq)
      let rs := s.recalls.map (fun r => if mine r then
        { r with missing := r.missing.filter (· != p.h), done := (r.missing.filter (· != p.h)).isEmpty, doneAt := s.gcc } else r)
      -- the end of a snoop's recall: the atom leaves the I/O stop, and the snoop is answered (R386)
      let ended (r : Recall) : Bool := r.home != 64 && r.done && 6 ≤ r.own.1
      .next ((rs.filter (fun r => ended r && r.own.1 == 6)).foldl (fun s r => s.dropAtom r.key) { s with recalls := rs.filter (fun r => !ended r) })

/-! ## L2 and slices (R373, R374, R380) -/

/-- The fill of lines fails: the requests that wait for one of them leave its home, each with an answer (R359, R439). -/
def State.failFills (s : State) (lost : Nat → Bool) (f : Req → Rep) : State :=
  let waits (r : Req) : Bool := let a := (s.reqLoc r).addr / 32; lost a && (s.atom (32 * a)).fp && decide (r.due ≤ s.gcc)
  let rs := s.reqs.filter waits
  let s := rs.foldl (fun (s : State) (r : Req) => (s.unrecall (r.src, r.who)).reply { f r with due := s.replyDue r (s.reqLoc r).addr })
    { s with reqs := s.reqs.filter (fun r => !waits r) }
  { s with atoms := s.atoms.filter (fun q => !(lost q.1 && q.2.fp)) }

/-- FILL_RETURN: the fill of an atom returns and its queued requests may go on; a line of host memory arrives with the host's
bytes, or (`none`) is refused by its IOMMU, which is protection at those who wait (R359, R380, R386). -/
def execFillReturn (atom : Nat) (host : Option (List Byte)) (s : State) : Res :=
  match Map.find? s.atoms atom with
  | none => .next s
  | some t =>
    if !t.fp then .next s
    else if decide (2 ^ 56 ≤ 32 * atom) && host.isNone then .next (s.failFills (· == atom) (fun r => repOf s r .nack))
    else
      let s := if 2 ^ 56 ≤ 32 * atom then s.setBytes (32 * atom) ((host.getD []).take 32) else s
      .next { s with atoms := Map.put s.atoms atom { t with fp := false } }

/-- The four atoms of the 128-byte line of an atom (R372). -/
def lineOf (atom : Nat) : List Nat := (natsFrom (atom / 4 * 4) 4)

/-- The atoms of a line that stand in the L2. -/
def State.lineAtomsIn (s : State) (atom : Nat) : List Nat :=
  (lineOf atom).filter (fun a => match Map.find? s.atoms a with | some t => !t.gone | none => false)

/-- A line that may not leave: one of its atoms has a fill pending (R373). -/
def State.lineHeld (s : State) (atom : Nat) : Bool := (s.lineAtomsIn atom).any (fun a => (Map.get {} s.atoms a).fp)

/-- L2_EVICT: the line of an atom leaves the L2 where it may (R373). -/
def execL2Evict (atom : Nat) (s : State) : Res :=
  if s.lineHeld atom then .next s else .next ((s.lineAtomsIn atom).foldl State.dropAtom s)

/-- SLICE_REBASE: the base rises by 2^22 once the GCC has reached B + 2^23, and every offset falls with it (R374). -/
def execSliceRebase (home : Nat) (s : State) : Res :=
  let sl := s.slice home
  if s.gcc < sl.base + 2 ^ 23 then .next s
  else
    let f (o : Nat) : Nat := o - 2 ^ 22
    let s := s.modSlice home (fun sl => { sl with base := sl.base + 2 ^ 22, floor := f sl.floor })
    .next { s with atoms := s.atoms.map (fun (k, t) =>
      (k, if homeOf (32 * k) = home then { t with rts := f t.rts, wts := f t.wts } else t)) }

/-! ## The host's coherent accesses (R348, R349, R385-R387) -/

/-- BIRSP: dirty host data is merged, then the line's atoms leave the host, or stay shared for a BISnpData (R385). -/
def execBirsp (line : Nat) (dirty : List (Nat × Byte)) (s : State) : Res :=
  match s.bisnps.find? (fun b => b.line == line) with
  | none => .next s
  | some b =>
    let s := { s with bisnps := s.bisnps.filter (fun q => q.line != line) }
    let s := dirty.foldl (fun s q => if q.1 < 64 then s.setByte (64 * line + q.1) q.2 else s) s
    .next ((lineAtoms (64 * line)).foldl (fun s a =>
      if (Map.find? s.atoms (a / 32)).isSome then s.modAtom a (fun t => { t with ho := if b.inv then 0 else min t.ho 1 }) else s) s)

/-- HOST_SNOOP: the atoms of a line of host memory that the I/O stop holds are recalled, reservations on them break, and the
line leaves the I/O stop with the last PACK, when the snoop is answered (R386, R152). -/
def execHostSnoop (line : Nat) (s : State) : Res :=
  let a := 64 * line
  if a < 2 ^ 56 then .next s
  else
    let held := (lineAtoms a).filter (fun x => match Map.find? s.atoms (x / 32) with | some t => !t.gone | none => false)
    let step (s : State) (x : Nat) : State :=
      if (s.atom x).fp || s.recalled (6, .nobody) x then s
      else match homeRecall (6, .nobody) x s with
        | .ok _ s => s.dropAtom (x / 32)
        | .wait s => s
        | .trap _ s => s
    let s := held.foldl step s
    .next ((natsFrom 0 4).foldl (fun s i => s.breakResv (a / 16 + i) .nobody) s)

/-- Bytes that a host access covers. -/
def hostOpLen : HostOp → Nat
  | .read n => n
  | .readOwn => 64
  | .write bs => bs.length
  | .fetchAdd n _ => n
  | .swap n _ => n
  | .cas n _ _ => n
  | .amo n _ _ => n

/-- The parts of an access that lie in one atom each. -/
def hostOpParts (op : HostOp) (pa : Nat) : List (Nat × HostOp) :=
  let cut (n : Nat) : List (Nat × Nat) := (natsFrom (pa / 32) ((pa + n + 31) / 32 - pa / 32)).map (fun i =>
    (max pa (32 * i), min (pa + n) (32 * i + 32) - max pa (32 * i)))
  match op with
  | .read n => (cut n).map (fun q => (q.1, .read q.2))
  | .write bs => (cut bs.length).map (fun q => (q.1, .write (sliceOf bs (q.1 - pa) q.2)))
  | .readOwn => [(pa, op)]
  | .fetchAdd .. => [(pa, op)]
  | .swap .. => [(pa, op)]
  | .cas .. => [(pa, op)]
  | .amo .. => [(pa, op)]

/-- A naturally aligned atomic of a size that the completer supports, or no atomic (R348, R430). -/
def hostOpFits (op : HostOp) (pa : Nat) : Bool :=
  match op with
  | .fetchAdd n _ => (n == 4 || n == 8) && pa % n == 0
  | .swap n _ => (n == 4 || n == 8) && pa % n == 0
  | .cas n _ _ => (n == 4 || n == 8 || n == 16) && pa % n == 0
  | .amo n op _ => (n == 4 || (n == 8 && op != 7)) && decide (op < 8) && pa % n == 0
  | _ => true

/-- The request of one part of an outside access. -/
def hostOpReq (op : HostOp) (base : Req) : Req :=
  match op with
  | .read _ => { base with kind := .rd, own := if base.src = 1 then 1 else 0 }
  | .readOwn => { base with kind := .rd, own := if base.src = 1 then 2 else 0 }
  | .write bs => { base with kind := .wr, bytes := bs.map some }
  | .fetchAdd n v => { base with kind := .at, op := .add, width := n, a := v }
  | .swap n v => { base with kind := .at, op := .swap, width := n, a := v }
  | .cas n c v => { base with kind := .at, op := .cas, width := n, a := c, b := v }
  | .amo n op v => { base with kind := .at, op := ([AtOp.xor, .and, .or, .min, .max, .minu, .maxu, .addf] : List AtOp).getD op .xor, width := n, a := v }

/-- Host accesses stand at S scope with the host stop's timestamp (R348, R387). -/
def State.hostReq (s : State) (src pa : Nat) (op : HostOp) : State :=
  let h := max s.hts s.gcc
  (hostOpParts op pa).foldl (fun s (q : Nat × HostOp) =>
    s.sendReq (hostOpReq q.2 { h := 255, part := 255, tgt := .dev q.1, pts := h, scope := 2, src := src })) { s with hts := h }

/-- HOST_CXL_MEM_ACCESS: a read or write of HBM4 over CXL.mem sets out to its home with HTS; CXL.mem carries no atomics
(R385, R387). -/
def execHostCxlMemAccess (pa : Nat) (op : HostOp) (s : State) : Res :=
  let atomic : Bool := match op with | .fetchAdd .. => true | .swap .. => true | .cas .. => true | .amo .. => true | _ => false
  if s.boot.up && !atomic && decide (pa + hostOpLen op ≤ hbmBytes) then .next (s.hostReq 1 pa op) else .next s

/-- An atomic that PCIe has none of: AtomicOps are FetchAdd, Swap and CAS (R348). -/
def notPcie (op : HostOp) : Bool := match op with | .amo .. => true | _ => false

/-- A posted access: a write. -/
def hostPosted (op : HostOp) : Bool := match op with | .write _ => true | _ => false

/-- BAR1_ACCESS: an access through BAR 1 sets out to its home at S scope; one that is not backed, or an AtomicOp that the completer
does not support, completes with Unsupported Request and changes nothing (R348). `relaxed` is the request's Relaxed Ordering, which
bears on writes (R387). -/
def execBar1Access (pa : Nat) (op : HostOp) (relaxed : Bool) (s : State) : Res :=
  let last := pa + hostOpLen op - 1
  if s.boot.up && s.backed pa && s.backed last && decide (last < 2 ^ 40) && hostOpFits op pa && !notPcie op && op != .readOwn then
    .next (s.hostReq (if relaxed && hostPosted op then 4 else 2) pa op)
  else .next s

/-- A posted write without Relaxed Ordering has been sent over PCIe and has not been acknowledged (R387). -/
def State.postedOut (s : State) : Bool :=
  s.reqs.any (fun r => r.src == 2 && r.kind == .wr) || s.reps.any (fun r => r.src == 2 && r.kind == .wack)

/-- The requests of the host over PCIe that are sent only after every earlier posted write has been acknowledged: reads, AtomicOps
and writes without Relaxed Ordering to BAR 1, and writes to registers and launch windows (R387). -/
def hostOrdered : Instr → Bool
  | .bar1Access _ op relaxed => !(relaxed && hostPosted op)
  | .launchPush .. | .launchClear .. | .partitionStart .. | .partitionStop .. | .pstepWrite .. => true
  | .tactResume .. | .tactKillContext .. | .tactKillPartition .. | .tactDump .. | .kill .. | .killAll .. => true
  | .invcmdRange .. | .invcmdPartition .. | .invcmdTensor .. | .replay .. | .replayRefuse .. | .zcmd .. => true
  | .debugHalt .. | .debugResume .. | .debugStep .. | .posSample .. | .traceBaseWrite .. | .qpload .. => true
  | .mbReadCert | .mbAttest | .mbStageRecord | .rasClear .. | .registerWrite .. => true
  | _ => false

/-- A request of the host that is held while an earlier posted write is not acknowledged (R387). -/
def State.hostHolds (s : State) (i : Instr) : Bool := s.postedOut && hostOrdered i

/-- FLIT_ERROR: a flit is sent again; one whose replay copy is bad is rebuilt from parity; two in one window make the link
retrain; telemetry counts both, and nothing is lost. A register of a transfer phase with a bad beat is unreadable (R390). -/
def execFlitError (die bad : Nat) (reg : Option Nat) (s : State) : Res :=
  let s := match reg with
    | some n => { s with regsInFlight := modAt (fun r => { r with bad := true }) s.regsInFlight n }
    | none => s
  .next (if bad = 0 then s
    else if bad = 1 then s.modDie die (fun d => { d with linkRepair := d.linkRepair + 1 })
    else s.modDie die (fun d => { d with linkRetrain := d.linkRetrain + 1 }))

end Sys2Proof.Machine
end

