-- ==== Sys2Proof/Machine/EngineAccess.lean ====
section
/-! DEFINITION. How an engine command reaches memory: stages of one element, translation, single accesses performed at the home,
tensor elements (spec/03 R72, R73; spec/10 R245, R265; spec/17 R363, R364). -/

namespace Sys2Proof.Machine

/-- Change a command. -/
def State.onCmd (s : State) (q n : Nat) (f : Cmd → Cmd) : State := s.modEng q (fun e => { e with cmds := Map.mod {} e.cmds n f })

/-- A replayable fault of an element: the agent suspends at it (R245). -/
def pageFault : Trap := { cause := 0x0B }

/-- Note the page or tile that has no valid entry, and report the fault. -/
def eNoPage (q n : Nat) (f : NoPage) (acc : Nat) (s : State) : Ans Tgt :=
  .trap { pageFault with d8 := f.va, d9 := acc } (s.onCmd q n (fun c => { c with nopage := some f }))

/-- Translate an address for a command (R54, R245, R354): an access that is under way keeps its target. -/
def eXlate (q n va : Nat) (acc : Acc) (s : State) : Ans Tgt :=
  let c := s.cmd q n
  match c.xf with
  | some f => .trap { cause := f.cause, sub := f.sub, d8 := f.va } s
  | none =>
    if c.fault.isSome then .wait s
    else
      match (match c.xact.bound with | some t => Xl.ok t | none => s.reachBy (s.cmdPlace q n) (engHearth q) (s.engPart q) va acc) with
      | .ok t => .ok t s
      | .bad cs u => .trap (trapVa cs u va) s
      | .miss =>
        (match c.nopage with
         | some f => if f.va / 4096 = va / 4096 then .trap { pageFault with d8 := f.va, d9 := accCode acc } s else ask
         | none => ask)
where ask : Ans Tgt :=
  if (s.cmd q n).walking then .wait s
  else .wait ((s.askWalk (engHearth q) (s.engPart q) va acc (.cmd q n)).onCmd q n (fun c => { c with walking := true }))

/-- The port of a command. -/
def State.cmdPort (s : State) (q n : Nat) : Port :=
  { h := engHearth q, p := s.engPart q, c := engCtx q, who := .cmd q n, pts := (s.eng q).pts, x := (s.cmd q n).xact }

/-- Keep a port's timestamp and stage. -/
def State.setCmdPort (s : State) (q n : Nat) (a : Port) : State :=
  (s.modEng q (fun e => { e with pts := max e.pts a.pts })).onCmd q n (fun c => { c with xact := a.x })

/-- The answer of an access. -/
def cmdAcs (q n va : Nat) (r : Acs × State × Port) : Ans (List Byte) :=
  match r with
  | (.done d _, s, a) => .ok d (s.setCmdPort q n a)
  | (.wait, s, a) => .wait (s.setCmdPort q n a)
  | (.bad c u, s, a) => .trap (trapVa c u va) (s.setCmdPort q n a)

/-- A new access of a command waits for what R68 orders before it; one that is under way goes on. -/
def State.cmdHeld (s : State) (q n : Nat) (r : Span) : Bool := (s.cmd q n).xact.bound.isNone && s.aliasCmd q (s.cmd q n) r

/-- A command's access to host or peer memory is an S-scope access, and its completion a release at that scope (R65, R72). -/
def State.noteExt (s : State) (q n : Nat) (t : Tgt) : State := if t.scopeOf 1 = 2 then s.onCmd q n (fun c => { c with ext := true }) else s

/-- Load bytes within one atom, at its home (R72, R375, R380). A load of a shadowed window follows the PUBLISH of the set that the command is
bound to (R65, R73). -/
def eRead (q n va : Nat) (t : Tgt) (len cls : Nat) (s : State) (sp : Space := .dev) : Ans (List Byte) :=
  if s.cmdHeld q n { sp := sp, va := va, n := len, cls := cls, st := false } then .wait s
  else cmdAcs q n va ((s.noteExt q n t).homeLoad (s.cmdPort q n) t len va (if t.shadowed then (s.cmd q n).setPts else 0) cls)

/-- Store bytes within one atom, at its home; the engine's own L1 keeps the new data (R72, R377, R380). -/
def eWrite (q n va : Nat) (t : Tgt) (bs : List Byte) (cls : Nat) (s : State) (sp : Space := .dev) : Ans (List Byte) :=
  if s.cmdHeld q n { sp := sp, va := va, n := bs.length, cls := cls, st := true } then .wait s
  -- the stores of a task that a trap has stopped are held (R420)
  else if decide (q < 4096) && (s.ctx (engKey q)).trapped.isSome && (s.cmd q n).xact.bound.isNone then
    .wait (s.onCmd q n (fun c => { c with held := some (t, bs, cls) }))
  else
    let s := s.onCmd q n (fun c => { c with held := none })
    cmdAcs q n va ((s.noteExt q n t).accStore (s.cmdPort q n) t bs va (t.scopeOf 1) cls)

/-! ## Stages of an element -/

/-- Make stage k of the present element once; what it loads is held. -/
def eStage (q n k : Nat) (f : State → Ans (List Byte)) (s : State) : Ans Unit :=
  if k < (s.cmd q n).part then .ok () s
  else (f s).bind fun d s => .ok () (s.onCmd q n (fun c => { c with part := k + 1, hold := c.hold ++ d }))

/-- Bytes held by the present element. -/
def State.held (s : State) (q n : Nat) : List Byte := (s.cmd q n).hold

/-- The pieces of a range that lie in one atom each. -/
def chunks : Nat → Nat → Nat → List (Nat × Nat)
  | 0, _, _ => []
  | f + 1, va, len =>
    if len = 0 then []
    else
      let m := min len (32 - va % 32)
      (va, m) :: chunks f (va + m) (len - m)

/-- Pieces of a range. -/
def pieces (va len : Nat) : List (Nat × Nat) := chunks (len / 32 + 2) va len

/-- Load a range by virtual address, in stages from k. -/
def eLoads (q n cls : Nat) : Nat → List (Nat × Nat) → State → Ans Unit
  | _, [], s => .ok () s
  | k, (va, len) :: r, s =>
    (eStage q n k (fun s => (eXlate q n (va % 2 ^ 64) .read s).bind fun t s => eRead q n va t len cls s) s).bind fun _ s =>
      eLoads q n cls (k + 1) r s

/-- Store bytes by virtual address, in stages from k. -/
def eStores (q n cls : Nat) : Nat → List (Nat × Nat) → List Byte → State → Ans Unit
  | _, [], _, s => .ok () s
  | k, (va, len) :: r, bs, s =>
    (eStage q n k (fun s => (eXlate q n (va % 2 ^ 64) .write s).bind fun t s => eWrite q n va t (bs.take len) cls s) s).bind fun _ s =>
      eStores q n cls (k + 1) r (bs.drop len) s

/-- An element whose address is not aligned as its command requires (R245). -/
def eAlign (va w : Nat) (s : State) : Ans Unit := if va % w = 0 then .ok () s else .trap (trapVa 0x0D 0 va) s

/-! ## Tensor elements (R265, R363, R364) -/

/-- A position in bounds. -/
def inBounds (d : TenDesc) (c : List Nat) : Bool := (natsFrom 0 4).all (fun i => decide (c.getD i 0 < d.e.getD i 1))

/-- The target of a tensor's bytes at an offset from a coordinate's first byte, with their window address; an access that is under way keeps its
target. -/
def eTen (q n : Nat) (d : TenDesc) (tid : Nat) (c : List Nat) (off : Nat) (store : Bool) (s : State) : Ans (Tgt × Nat) :=
  let (tile, o) := d.place c
  let p := s.engPart q
  let va := d.vwin + tile * 2 ^ d.tpgLg + o + off
  let set := if !d.shadow then 0 else if store then 1 - s.activeSet p tid else Map.get 0 (s.cmd q n).sets tid
  if (s.cmd q n).fault.isSome then .wait s
  else
    match (s.cmd q n).xact.bound with
    | some t => .ok (t, va) s
    | none =>
      match s.tileAt d tid set tile with
      | .at f => .ok (if d.shadow then .win p tid va else .dev (f + o + off), va) (s.tileRead p tid set tile)
      | .fault r l v i t => (eNoPage q n { va := v, level := l, reason := r, tid := i, tile := t } (boolNat store) s).bind fun _ s => .wait s
      | .bad cs u => .trap (trapVa cs u va) s

/-- The scale byte of a BPI unit (R363). -/
def scaleAddr (d : TenDesc) (c : List Nat) : Nat :=
  d.scale + (c.getD 0 0 / 384 + d.units 0 * (c.getD 1 0 + d.e.getD 1 1 * (c.getD 2 0 + d.e.getD 2 1 * c.getD 3 0)))

/-- An address of the scale array is a device physical address (R362): one that no memory backs is outside the address space. -/
def eScale (q n k pa : Nat) (f : State → Ans (List Byte)) (s : State) : Ans Unit :=
  eStage q n k (fun s => if s.backed pa then f s else .trap (trapVa 0x0C 1 pa) s) s

/-- Load the scale byte of a unit, as stage k. -/
def eScaleLoad (q n cls k pa : Nat) (s : State) : Ans Unit := eScale q n k pa (fun s => eRead q n pa (.dev pa) 1 cls s .pa) s
/-- Store the scale byte of a unit, as stage k. -/
def eScaleStore (q n cls k pa : Nat) (bs : List Byte) (s : State) : Ans Unit :=
  eScale q n k pa (fun s => eWrite q n pa (.dev pa) bs cls s .pa) s

/-- The pieces of a tensor element at a coordinate, as offsets from its first byte. -/
def tenPieces (d : TenDesc) (c : List Nat) : List (Nat × Nat) :=
  let b := (d.place c).2 % 32
  (pieces b (fmtSize d.fmt d.p)).map (fun (a, n) => (a - b, n))

/-- Load the bytes of a tensor element or unit, in stages from k. -/
def eTenLoad (q n cls k : Nat) (d : TenDesc) (tid : Nat) (c : List Nat) (s : State) : Ans Unit :=
  let ps := tenPieces d c
  go k ps s
where go : Nat → List (Nat × Nat) → State → Ans Unit
  | _, [], s => .ok () s
  | k, (o, len) :: r, s =>
    (eStage q n k (fun s => (eTen q n d tid c o false s).bind fun (t, va) s => eRead q n va t len cls s) s).bind fun _ s => go (k + 1) r s

/-- Store the bytes of a tensor element or unit, in stages from k. -/
def eTenStore (q n cls k : Nat) (d : TenDesc) (tid : Nat) (c : List Nat) (bs : List Byte) (s : State) : Ans Unit :=
  let ps := tenPieces d c
  go k ps bs s
where go : Nat → List (Nat × Nat) → List Byte → State → Ans Unit
  | _, [], _, s => .ok () s
  | k, (o, len) :: r, bs, s =>
    (eStage q n k (fun s => (eTen q n d tid c o true s).bind fun (t, va) s =>
      eWrite q n va t (bs.take len) cls s) s).bind fun _ s => go (k + 1) r (bs.drop len) s

/-- Number of stages of a tensor element. -/
def tenStages (d : TenDesc) (c : List Nat) : Nat := (tenPieces d c).length

/-! ## Trees (R405) -/

/-- Key of a reduction. -/
def redKey (p tree : Nat) : Nat := 256 * p + tree
/-- Key of a port of a node. -/
def portKey (node port : Nat) : Nat := 4 * node + port

/-- The engine number of a queue (R403). -/
def engNo (q : Nat) : Nat := if q < 4096 then 64 * (engHearth q / 48) + engHearth q % 48 else q - 4096

/-- The leaf node of an engine in a tree. -/
def Tree.leafOf (t : Tree) (e : Nat) : Option (Nat × Node) := (t.nodes.zipIdx.map (fun (n, i) => (i, n))).find? (fun q => q.2.kind == 0 && q.2.unit == e)

/-- The children of a node. -/
def Tree.children (t : Tree) (node : Nat) : List Node := t.nodes.filter (fun n => n.parent == node)

/-- A leaf of a reduction delivers its stream to its parent's port (R122). -/
def State.leafSend (s : State) (p tree e : Nat) (st : Strm) : State :=
  match Map.find? (s.part p).trees tree with
  | none => s
  | some t => (match t.leafOf e with
    | none => s
    | some (i, n) => s.modReduc (redKey p tree) (fun r => { r with ports := Map.put r.ports (portKey n.parent n.port) st, joined := i :: r.joined }))

/-- The trailer that a leaf sends alone (R295). -/
def trailAlone : Strm := { trail := some {} }

/-- A leaf's SLRED that traps once its tree is known sends a stream trailer alone (R269, R295). -/
def State.leafFail (s : State) (q n : Nat) : State :=
  let c := s.cmd q n
  if c.kind == .slred then s.leafSend (s.engPart q) (c.args.getD 2 0) (engNo q) trailAlone else s

end Sys2Proof.Machine
end

