-- ==== Sys2Proof/Machine/Translation.lean ====
section
/-! DEFINITION. Page walks, faults for the driver, invalidation, and the host's answers to translations and accesses
(spec/17 R353-R361, R365, R366; spec/22 R433). -/

namespace Sys2Proof.Machine

/-! ## The walk (R353-R356) -/

/-- How a walk ended: a leaf with its address, a fault with its level, or a protection. -/
inductive WalkR where
  | ok (e : TlbE) (leaf : Nat)
  | fault (level : Nat)
  | bad (cause sub : Nat)
deriving DecidableEq, Repr

/-- log2 of the bytes that an entry of a level covers. -/
def levelLg (l : Nat) : Nat := if l = 3 then 39 else if l = 2 then 30 else if l = 1 then 21 else 12

/-- The index of an address at a level: 13 bits at the root, 9 below (R354). -/
def levelIx (l va : Nat) : Nat := if l = 3 then bitsOf va 51 39 else (va / 2 ^ levelLg l) % 512

/-- What a leaf maps (R353). -/
def leafTgt (p va frame tgt rwin : Nat) (coh : Bool) : Tgt :=
  if tgt = 0 then .dev frame
  else if tgt = 1 then .win p (frame / 4096 % 2 ^ 16) va
  else if tgt = 2 then .host coh p frame none
  else .peer p rwin frame

/-- The check of a leaf entry at a level (R353, R354). -/
def State.leafOf (s : State) (p va lv e ea : Nat) : WalkR :=
  let ps := bitsOf e 7 6
  let lg := psLg ps
  let tgt := bitsOf e 9 8
  let coh := bitOf e 10
  let rwin := bitsOf e 61 52
  let frame := bitsOf e 51 12 * 4096
  let okPs := if lv = 1 then decide (2 ≤ ps) else lv == 0 && decide (ps < 2)
  let rsv := bitOf e 11 || bitsOf e 63 62 != 0 || (coh && tgt != 2) || (rwin != 0 && tgt != 3) || (tgt == 1 && decide (2 ^ 28 ≤ frame))
  if !okPs || rsv || (tgt != 1 && frame % 2 ^ lg != 0) then .bad 0x0C 8
  else if tgt = 0 && !s.backed frame then .bad 0x0C 1
  else
    let base := va / 2 ^ lg * 2 ^ lg
    .ok { part := p, va := base, lg := lg, tgt := leafTgt p base frame tgt rwin coh, w := bitOf e 2, x := bitOf e 3, d := bitOf e 5 } ea

/-- A WALK from the table of a level (R354): the entry, then the next table. -/
def State.walkFrom (s : State) (p va : Nat) : Nat → Nat → WalkR
  | lv, table =>
    let ea := table + 8 * levelIx lv va
    let e := s.num ea 8
    if (s.atom ea).psn then .bad 0x0F 0
    else if e % 2 = 0 then .fault lv
    else if bitOf e 1 then s.leafOf p va lv e ea
    else if bitsOf e 11 2 != 0 || bitsOf e 63 52 != 0 then .bad 0x0C 8
    else
      let next := bitsOf e 51 12 * 4096
      if !s.backed next then .bad 0x0C 1
      else
        match lv with
        | 0 => .bad 0x0C 8
        | l + 1 => s.walkFrom p va l next

/-- The entries that a walk reads from the table of a level on, each with its level (R354). -/
def State.walkPath (s : State) (va : Nat) : Nat → Nat → List (Nat × Nat)
  | lv, table =>
    let ea := table + 8 * levelIx lv va
    let e := s.num ea 8
    let next := bitsOf e 51 12 * 4096
    if (s.atom ea).psn || e % 2 = 0 || bitOf e 1 || bitsOf e 11 2 != 0 || bitsOf e 63 52 != 0 || !s.backed next then [(lv, ea)]
    else
      match lv with
      | 0 => [(lv, ea)]
      | l + 1 => (lv, ea) :: s.walkPath va l next

/-- The root table of a partition. -/
def State.rootOf (s : State) (p : Nat) : Nat := bitsOf (s.preg p 0x000) 51 16 * 65536

/-- The walk of an address of a partition from its root. -/
def State.walkPt (s : State) (p va : Nat) : WalkR :=
  if 2 ^ 52 ≤ va then .bad 0x0C 1 else s.walkFrom p va 3 (s.rootOf p)

/-- A pointer entry covers an address of a partition. -/
def PtrE.has (e : PtrE) (p va : Nat) : Bool := e.part == p && decide (e.va ≤ va) && decide (va < e.va + 2 ^ levelLg e.lv)

/-- Where a walk by a die starts: at the lowest table that its pointer cache names, else at the root (R356). -/
def State.walkStart (s : State) (d p va : Nat) : Nat × Nat :=
  match [1, 2, 3].findSome? (fun lv => (s.die d).ptrs.find? (fun e => e.lv == lv && e.has p va)) with
  | some e => (e.lv - 1, e.next)
  | none => (3, s.rootOf p)

/-- The walker sets A, and D on a store or atomic that is permitted, by an OR at the home (R356). -/
def State.setAD (s : State) (e : TlbE) (leaf : Nat) (acc : Acc) : TlbE × State :=
  let st := acc == .write || acc == .atomic
  let bits : Byte := 0x10 ||| (if st && e.w then 0x20 else 0)
  let new := s.byte leaf ||| bits
  ({ e with d := e.d || (st && e.w) }, if new = s.byte leaf then s else ((s.restamp leaf 1).setByte leaf new).touchFrame leaf true)

/-- Enter a translation into a list of them in place of one of the same page: the oldest leave (R356; notes/assumptions/15). -/
def tlbEnter (n : Nat) (l : List TlbE) (e : TlbE) : List TlbE :=
  (e :: l.filter (fun f => !(f.part == e.part && f.va == e.va && f.lg == e.lg))).take n

/-- Enter a translation into a hearth's TLB of 256 entries (R356). -/
def State.tlbPut (s : State) (h : Nat) (e : TlbE) : State := s.modHearth h (fun hh => { hh with tlb := tlbEnter 256 hh.tlb e })

/-- Entries of a die's last-level TLB, which its ATS translations share (R7, R356). -/
def lastLevel : Nat := 65536

/-- ATS translations that a die holds. -/
def State.atsCount (s : State) (d : Nat) : Nat := (s.atsCache.filter (fun (a : AtsE) => a.die == d)).length

/-- Enter a translation into the last-level TLB of a die (R356). -/
def State.llPut (s : State) (d : Nat) (e : TlbE) : State := s.modDie d (fun x => { x with tlb := tlbEnter (lastLevel - s.atsCount d) x.tlb e })

/-- Enter an ATS translation into the last-level TLB of a die: entries of pages leave for it first (R356, R359). -/
def State.atsPut (s : State) (e : AtsE) : State :=
  let mine := s.atsCache.filter (fun (a : AtsE) => a.die == e.die)
  let s := { s with atsCache := e :: (mine.take (lastLevel - 1) ++ s.atsCache.filter (fun (a : AtsE) => a.die != e.die)) }
  s.modDie e.die (fun x => { x with tlb := x.tlb.take (lastLevel - s.atsCount e.die) })

/-- The valid pointers that a walk has read enter the pointer cache of a die: 256 entries (R356). -/
def State.ptrsPut (s : State) (d p va : Nat) (path : List (Nat × Nat)) : State :=
  let new := (path.take (path.length - 1)).map (fun (q : Nat × Nat) =>
    ({ part := p, lv := q.1, va := va / 2 ^ levelLg q.1 * 2 ^ levelLg q.1, next := bitsOf (s.num q.2 8) 51 12 * 4096 } : PtrE))
  s.modDie d (fun x => { x with ptrs := (new ++ x.ptrs.filter (fun e => !new.any (fun f => f.part == e.part && f.lv == e.lv && f.va == e.va))).take 256 })

/-- A home takes an access that the hardware makes for a partition: its atom is there, the host does not hold it, nothing is being recalled, and
the partition's share has room (R354, R380, R385, R407; notes/assumptions/113). -/
def homeReady (p a : Nat) (write : Bool) (s : State) : Ans Unit :=
  if s.gated a || s.recalled (8, .nobody) a || !s.homeRoom a p then .wait s
  else (homeFill a s).bind fun _ s => if (s.atom a).psn then .ok () s else homeSnoop a write s

/-- The same for one after another. -/
def homesReady (p : Nat) (write : Bool) : List Nat → State → Ans Unit
  | [], s => .ok () s
  | a :: r, s => (homeReady p a write s).bind fun _ s => homesReady p write r s

/-- A table entry is read at its home at D scope (R354): its fill, the host's ownership, the lease, the frame. -/
def walkRead (p ea : Nat) (s : State) : Ans Unit :=
  (homeReady p ea false s).bind fun _ s => if (s.atom ea).psn then .ok () s else .ok () (s.seen p ea)

/-- The entries of a walk are read one after another. -/
def walkReads (p : Nat) : List (Nat × Nat) → State → Ans Unit
  | [], s => .ok () s
  | q :: r, s => (walkRead p q.2 s).bind fun _ s => walkReads p r s

/-! ## Accesses by the scheduler, the Sluice root and the station (R22, R25, R269) -/

/-- The place at which the hardware's reads of host and peer memory arrive. -/
def sysPlace : Nat := 1060

/-- Where a virtual address of a partition lands for hardware that walks for itself: a page that is not valid is protection,
subcause 1, since no replay is possible (R417). A host page with ATS on has its translation, of die 0, or asks for it (R359). -/
def State.sysXl (s : State) (p va : Nat) (acc : Acc) : Xl :=
  let st := acc == .write || acc == .atomic
  match s.walkPt p va with
  | .fault _ => .bad 0x0C 1
  | .bad c u => .bad c u
  | .ok e _ =>
    if st && !e.w then .bad 0x0C 2
    else
      match tgtAt e va with
      | .win q t a => (match s.place (.win q t a) st with
          | .at _ => .ok (.win q t a)
          | .fault .. => .bad 0x0C 1
          | .bad c u => .bad c u)
      | .peer q w o => (match s.sendCheck q w o with
          | some (c, u) => .bad c u
          | none => .ok (.peer q w o))
      | .host c q a _ =>
        if s.ats.any (fun r => r.sys && r.refused && r.part == q && r.iova / 4096 == a / 4096 && r.write == st) then .bad 0x0C 2
        else s.hostXl 0 c q a st
      | t => .ok t

/-- The atoms of `n` bytes from an address. -/
def atomsOf (a n : Nat) : List Nat := (natsFrom (a / 32) ((a + n + 31) / 32 - a / 32)).map (32 * ·)

/-- A target that its home serves: host memory is read as atoms of host and peer memory are, and written at the I/O stop's home where it is
coherent. -/
def State.homeAddr (s : State) (t : Tgt) (store : Bool) : Option Nat :=
  if (if store then t.external else t.far) then none else match s.place t store with | .at a => some a | _ => none

/-- Ask the host for a translation (R359). -/
def State.askAts (s : State) (r : AtsReq) : State := { s with ats := s.ats ++ [r] }

/-- The descriptor and the tile entry behind a target (R362, R364). -/
def State.tileAtoms (s : State) (t : Tgt) (store : Bool) : List Nat :=
  match t with
  | .win p tid va =>
    let d := bitsOf (s.preg p 0x008) 51 22 * 2 ^ 22 + 64 * tid
    (match s.tensor p tid with
     | some x => [d, d + 32, (if s.bindSet p tid store = 0 then x.tta else x.ttb) + 8 * ((va - x.vwin) / 2 ^ x.tpgLg)]
     | none => [d, d + 32])
  | _ => []

/-- The hardware's access of `n` bytes, within a page, may be made: its tables, the leaf whose A or D it sets, the descriptor and tile, and its
atoms are at their homes; bytes of host and peer memory have been read; else what is missing is asked for (R354, R359, R367). -/
def sysReady (p va n : Nat) (acc : Acc) (s : State) : Ans Unit :=
  let st : Bool := acc == .write || acc == .atomic
  (homesReady p false ((s.walkPath va 3 (s.rootOf p)).map (·.2)) s).bind fun _ s =>
  (match s.walkPt p va with
   | .ok e leaf => if (s.setAD e leaf acc).2.byte leaf = s.byte leaf then (.ok () s : Ans Unit) else homeReady p leaf true s
   | _ => .ok () s).bind fun _ s =>
  match s.sysXl p va acc with
  | .bad .. => .ok () s
  | .miss =>
    (match s.walkPt p va with
     | .ok e _ => (match tgtAt e va with
       | .host _ q a _ =>
         if s.ats.any (fun r => r.sys && r.part == q && r.iova / 4096 == a / 4096 && r.write == st) then .wait s
         else .wait (s.askAts { part := q, iova := a, write := st, sys := true })
       | _ => .wait s)
     | _ => .wait s)
  | .ok t =>
    (homesReady p false (s.tileAtoms t st) s).bind fun _ s =>
    match s.homeAddr t st with
    | some a => homesReady p st (atomsOf a n) s
    | none =>
      if st then .ok () s
      else
        match s.fetched sysPlace t n with
        | .absent u => .wait (s.askLine sysPlace p 0 u)
        | _ => .ok () s

/-- The same for several accesses. -/
def sysAllReady (p : Nat) (acc : Acc) : List (Nat × Nat) → State → Ans Unit
  | [], s => .ok () s
  | q :: r, s => (sysReady p q.1 q.2 acc s).bind fun _ s => sysAllReady p acc r s

/-- What has been read for such accesses is dropped with them: bytes of host and peer memory, and translations that were refused. -/
def State.sysDone (s : State) (p : Nat) : State :=
  let s := s.dropLines sysPlace p
  { s with ats := s.ats.filter (fun r => !(r.sys && r.refused && r.part == p)) }

/-- A step of the hardware for a partition that makes such accesses: it waits for them, and is made whole. -/
def sysGate (p : Nat) (ready : State → Ans Unit) (f : State → State) (s : State) : Res :=
  match ready s with
  | .ok _ s => .next ((f s).sysDone p)
  | .wait s => .next s
  | .trap _ s => .next s

/-- What the walk of such an access leaves behind: its table reads at their homes, A and D of its page, and the descriptor and tile entry
that it reads (R354, R356, R364, R367). -/
def State.sysWalked (s : State) (p va : Nat) (acc : Acc) : State :=
  let s := (s.walkPath va 3 (s.rootOf p)).foldl (fun s q => s.seen p q.2) s
  match s.walkPt p va with
  | .ok e leaf =>
    let s := (s.setAD e leaf acc).2
    (s.tileAtoms (tgtAt e va) (acc == .write || acc == .atomic)).foldl (fun s a => s.seen p a) s
  | _ => s

/-- What such a read of `n` bytes leaves behind. -/
def State.sysSeen (s : State) (p va n : Nat) : State :=
  match s.sysXl p va .read with
  | .ok t => (match s.homeAddr t false with
      | some a => (atomsOf a n).foldl (fun s b => s.seen p b) (s.sysWalked p va .read)
      | none => s.sysWalked p va .read)
  | _ => s.sysWalked p va .read

/-- Read bytes by virtual address, up to one page. -/
def State.sysRead (s : State) (p va n : Nat) : Option (List Byte) × Nat × Nat :=
  match s.sysXl p va .read with
  | .ok t =>
    (match s.homeAddr t false with
     | some a => if (atomsOf a n).any (fun b => (s.atom b).psn) then (none, 0x0F, 0) else (some (s.bytes a n), 0, 0)
     | none => (match s.fetched sysPlace t n with
        | .ok v => (some (bytesOf v n), 0, 0)
        | .bad c u => (none, c, u)
        | .absent _ => (none, 0x0C, 1)))
  | .bad c u => (none, c, u)
  | .miss => (none, 0x0C, 2)

/-- Write bytes at a home at D scope behind a time, as hardware does for itself; with the stamp of the write (R380). -/
def State.sysStoreAt (s : State) (a P : Nat) (bs : List Byte) : Nat × State :=
  let (w, s) := s.homeWrite a P (bs.map some)
  (w, s.breakResv (a / 16) .nobody)

/-- The same, where nobody acquires it. -/
def State.sysWrite (s : State) (a : Nat) (bs : List Byte) : State := (s.sysStoreAt a s.gcc bs).2

/-- Write bytes of one atom by virtual address behind a time: at their home, which counts the request, or as a posted write to host or peer memory
(R350, R380, R407). Answers the stamp, or `none` where the address does not translate. -/
def State.sysPut (s : State) (p va P : Nat) (bs : List Byte) : Option (Nat × State) :=
  match s.sysXl p va .write with
  | .ok t =>
    let s := s.sysWalked p va .write
    (match s.homeAddr t true with
     | some a => let (w, s) := s.sysStoreAt a P bs; some (w, s.countHome a p)
     | none =>
       let e : Ext := { tgt := t, va := va, kind := 1, len := bs.length, bytes := bs, h := 255, part := p, ctx := 1023, sentAt := s.gcc }
       some (P, { (s.countExt p e).sendSeen t with exts := s.exts ++ [{ e with rq := s.extRq e }] }))
  | _ => none

/-! ## PAGE_WALK (R354, R212, R245) -/

/-- A translation failure reaches the agent that waits for its walk. -/
def State.walkBad (s : State) (w : Who) (f : Xfault) : State :=
  match w with
  | .thread h t => s.modThread (tkey h t) (fun th => { th with walking := false, xf := some f })
  | .group h g => s.modGroup (ckey h g) (fun gr => { gr with walking := false, xfs := gr.xfs ++ [f] })
  | .window h g => s.modGroup (ckey h g) (fun gr => { gr with walking := false, xfs := gr.xfs ++ [f] })
  | .cmd q n => s.onCmd q n (fun c => { c with walking := false, xf := some f })
  | .script q => s.modEng q (fun e => { e with fetchWalking := false, fetchXf := some f })
  | _ => s

/-- A walk has ended for its agent, which tries again. -/
def State.walkDone (s : State) (w : Who) : State :=
  match w with
  | .thread h t => s.modThread (tkey h t) (fun th => { th with walking := false })
  | .group h g => s.modGroup (ckey h g) (fun gr => { gr with walking := false })
  | .window h g => s.modGroup (ckey h g) (fun gr => { gr with walking := false })
  | .cmd q n => s.onCmd q n (fun c => { c with walking := false })
  | .script q => s.modEng q (fun e => { e with fetchWalking := false })
  | _ => s

/-- No valid entry: a control thread and a window change park at once; a lane word and a command note the page and park with
their own step (R153, R212, R245, R310). -/
def State.walkFault (s : State) (w : Walk) (f : NoPage) : State :=
  let park (h c agent : Nat) : State × Nat := s.parkFault w.part h c agent w.who f.va (accCode w.acc) f.level f.reason f.tid f.tile
  match w.who with
  | .thread h t =>
    let (s, tok) := park h (s.thread (tkey h t)).ctx 0
    s.modThread (tkey h t) (fun th => { th with walking := false, fault := some tok })
  | .window h g =>
    let (s, tok) := park h g 6
    s.modGroup (ckey h g) (fun gr => { gr with walking := false, fault := some tok })
  | .group h g => s.modGroup (ckey h g) (fun gr => { gr with walking := false, nopage := gr.nopage ++ [f] })
  | .cmd q n => s.onCmd q n (fun c => { c with walking := false, nopage := some f })
  | .script q =>
    let (s, tok) := if q < 4096 then park (engHearth q) (engCtx q) (2 + engCode q) else park (q - 4096) 0 3
    s.modEng q (fun e => { e with fetchWalking := false, fetchFault := some tok })
  | _ => s

/-- The frame set that an agent's access binds: that of a command's launch for its loads (R73, R74). -/
def State.setFor (s : State) (w : Who) (p tid : Nat) (store : Bool) : Nat :=
  match w with
  | .cmd q n => if store then 1 - s.activeSet p tid else Map.get 0 (s.cmd q n).sets tid
  | _ => s.bindSet p tid store

/-- The descriptor and the tile entry that an agent's address of a window names are read at their homes (R73, R362, R364, R367). -/
def State.tileSeen (s : State) (w : Who) (p tid va : Nat) (store : Bool) : State :=
  match s.tensor p tid with
  | some d => s.tileRead p tid (s.setFor w p tid store) ((va - d.vwin) / 2 ^ d.tpgLg)
  | none => s.tileRead p tid 0 0

/-- A translation is ready: its tile, when it names a window, must be valid too (R364). -/
def State.walkReady (s : State) (w : Walk) (e : TlbE) : State :=
  let st := w.acc == .write || w.acc == .atomic
  let s := s.tlbPut w.h e
  match tgtAt e w.va with
  | .win p t a =>
    let s := s.tileSeen w.who p t a st
    (match s.placeOf w.who (.win p t a) st with
     | .fault r l v i tl => s.walkFault w { va := v, level := l, reason := r, tid := i, tile := tl }
     | _ => s.walkDone w.who)
  | _ => s.walkDone w.who

/-- A walk has found a leaf: a host page whose ATS translation is wanted and not held asks the host for it (R359). -/
def State.walkLeaf (s : State) (w : Walk) (e : TlbE) : State :=
  let st := w.acc == .write || w.acc == .atomic
  match tgtAt e w.va with
  | .host _ p a _ =>
    if bitOf (s.preg p 0x010) 0 && (s.atsFind (dieOf w.h) p a st).isNone then
      { s with ats := s.ats ++ [{ part := p, iova := a, write := st, walk := w, tlb := e }] }
    else s.walkReady w e
  | _ => s.walkReady w e

/-- PAGE_WALK: walk n ends in a translation, a fault or a protection. The last-level TLB of the die answers it; else its tables are read at
their homes, from the lowest that the pointer cache names, and it waits for a home that cannot answer yet (R354, R356, R359). -/
def execPageWalk (n : Nat) (s : State) : Res :=
  match s.walks[n]? with
  | none => .next s
  | some w =>
    let st := w.acc == .write || w.acc == .atomic
    let d := dieOf w.h
    let gone (s : State) : State := { s with walks := dropAt s.walks n }
    match (tlbFind (s.die d).tlb w.part w.va).filter (fun e => !(st && e.w && !e.d)) with
    | some e => .next ((gone s).walkLeaf w e)
    | none =>
      if 2 ^ 52 ≤ w.va then .next ((gone s).walkBad w.who { cause := 0x0C, sub := 1, va := w.va })
      else
        let (lv, table) := s.walkStart d w.part w.va
        match walkReads w.part (s.walkPath w.va lv table) s with
        | .wait s => .next s
        | .trap _ s => .next s
        | .ok _ s =>
          match s.walkFrom w.part w.va lv table with
          | .bad c u => .next ((gone s).walkBad w.who { cause := c, sub := u, va := w.va })
          | .fault l => .next (((gone s).ptrsPut d w.part w.va (s.walkPath w.va lv table)).walkFault w { va := w.va, level := l, reason := 0 })
          | .ok e leaf =>
            let (e', t) := s.setAD e leaf w.acc
            match (if t.byte leaf = s.byte leaf then .ok () s else homeSnoop leaf true s : Ans Unit) with
            | .ok _ _ => .next ((((gone t).ptrsPut d w.part w.va (s.walkPath w.va lv table)).llPut d e').walkLeaf w e')
            | .wait s => .next s
            | .trap _ s => .next s

/-! ## The host's answers (R359-R361) -/

/-- Page Requests that the package may have outstanding (R348). -/
def priRoom : Nat := 1024

/-- Two requests share a PRG index: one die, one PASID, one page and access (R360; notes/assumptions/97). -/
def State.prgSame (s : State) (a b : AtsReq) : Bool :=
  dieOf a.walk.h == dieOf b.walk.h && s.pasid a.part == s.pasid b.part && a.iova / 4096 == b.iova / 4096 && a.write == b.write

/-- A denied request asks for its page: with the request of its group that is out, or under an index that no other holds (R348, R360). -/
def State.prgIndex (s : State) (r : AtsReq) : Option Nat :=
  match s.ats.find? (fun q => q.prg && s.prgSame q r) with
  | some q => some q.ix
  | none => (natsFrom 0 priRoom).find? (fun i => !s.ats.any (fun q => q.prg && q.ix == i))

/-- The denied requests ask for their pages in order, as far as the capacity goes. -/
def State.prgSend (s : State) : State :=
  (natsFrom 0 s.ats.length).foldl (fun s i =>
    match s.ats[i]? with
    | some r =>
      if !r.denied || r.prg then s
      else
        match s.prgIndex r with
        | some x => { s with ats := modAt (fun r => { r with prg := true, ix := x }) s.ats i }
        | none => s
    | none => s) s

/-- ATS_COMPLETION: the translation is cached at the granted size, which every access of the page uses, or the access is denied and leads to
a page request or to protection (R359, R360). -/
def execAtsCompletion (n : Nat) (read write : Bool) (frame size : Nat) (s : State) : Res :=
  match s.ats[n]? with
  | none => .next s
  | some r =>
    if r.denied || r.refused then .next s
    else
      let ok := if r.write then write else read
      if ok then
        let s : State := { s with ats := dropAt s.ats n }
        let s := s.atsPut { die := dieOf r.walk.h, pasid := s.pasid r.part, iova := r.iova / 2 ^ size * 2 ^ size, lg := size,
                            frame := frame / 2 ^ size * 2 ^ size, w := write }
        .next (if r.sys then s else s.walkReady r.walk r.tlb)
      else if r.sys then .next { s with ats := modAt (fun r => { r with refused := true }) s.ats n }
      else if bitOf (s.preg r.part 0x010) 1 then .next (State.prgSend { s with ats := modAt (fun r => { r with denied := true }) s.ats n })
      else .next (({ s with ats := dropAt s.ats n }).walkBad r.walk.who { cause := 0x0C, sub := 2, va := r.walk.va })

/-- A target is a host page of a PASID and range, reached by a translated request. -/
def State.atsMeets (s : State) (pasid addr len : Nat) : Tgt → Bool
  | .host _ p a (some _) => s.pasid p == pasid && decide (a < addr + len) && decide (addr < a + 128)
  | _ => false

/-- The accesses translated under an entry of a PASID and range that hold back its Invalidate Completion: a read without its data, on the
link or at the I/O stop, and a translated access that has not been sent (R361). -/
def State.atsWaits (s : State) (pasid addr len : Nat) : List Who :=
  let hit := s.atsMeets pasid addr len
  ((s.exts.filter (fun e => e.kind == 0 && hit e.tgt)).map (·.who))
    ++ ((s.reqs.filter (fun r => r.src == 0 && hit r.tgt)).map (·.who))
    ++ (s.groups.map (fun q => (q.2.ops.map (fun o => (o.acc.filter (fun a => a.ready && !a.done && !a.x.out && hit a.tgt)).map (fun a =>
      Who.lane (q.1 / 4) (q.1 % 4) o.id a.lane))).flatten)).flatten

/-- An access that an Invalidate Completion waits for is still to come: it is on the link or on its way to the I/O stop or back, or has not
been sent. -/
def State.whoBusy (s : State) (w : Who) : Bool :=
  s.exts.any (fun e => e.who == w && e.kind == 0) || s.reqs.any (fun r => r.src == 0 && r.who == w) || s.reps.any (fun r => r.src == 0 && r.who == w)
    || (match w with
        | .lane h g op l => (s.group (ckey h g)).ops.any (fun o => o.id == op && o.acc.any (fun a => a.lane == l && a.ready && !a.done && !a.x.out))
        | _ => false)

/-- The Invalidate Completions that nothing holds back any more are sent (R361). -/
def State.atsSettle (s : State) : State :=
  let invs := s.atsInvs.map (fun v => { v with waits := v.waits.filter s.whoBusy })
  { s with atsInvs := invs.filter (fun v => !v.waits.isEmpty), atsDone := s.atsDone + (invs.filter (fun v => v.waits.isEmpty)).length }

/-- Invalidate Requests that the function holds at a time (R348). -/
def invDepth : Nat := 32

/-- ATS_INVALIDATE: every cached translation of the PASID and range is dropped; the request is kept, and its completion is sent once the
reads made under them have their data and the other accesses are on the link (R361). -/
def execAtsInvalidate (pasid addr len : Nat) (s : State) : Res :=
  if invDepth ≤ s.atsInvs.length then .next s
  else
    let waits := s.atsWaits pasid addr len
    .next (State.atsSettle { s with
      atsInvs := s.atsInvs ++ [{ waits := waits }]
      atsCache := s.atsCache.filter (fun a => !(a.pasid == pasid && decide (a.iova < addr + len) && decide (addr < a.iova + 2 ^ a.lg))) })

/-- The requests of a response's PRG index (R360). -/
def State.prgGroup (s : State) (n : Nat) : AtsReq → Bool :=
  match s.ats[n]? with
  | some r => fun q => r.prg && q.prg && q.ix == r.ix
  | none => fun _ => false

/-- PRG_SUCCESS: the translations of the group are requested again (R360). -/
def execPrgSuccess (n : Nat) (s : State) : Res :=
  let mine := s.prgGroup n
  .next (State.prgSend { s with ats := s.ats.map (fun r => if mine r then { r with prg := false, denied := false } else r) })

/-- PRG_INVALID_REQUEST: a fault entry with reason 2 for each access of the group, and its agent parks (R360, R365). -/
def execPrgInvalidRequest (n : Nat) (s : State) : Res :=
  let mine := s.prgGroup n
  let rs := s.ats.filter mine
  let s := rs.foldl (fun s r => s.walkFault r.walk { va := r.walk.va, level := 0, reason := 2 }) { s with ats := s.ats.filter (fun r => !mine r) }
  .next s.prgSend

/-- PRG_RESPONSE_FAILURE: protection at every waiting agent of the partition, and PRI is cleared (R360). -/
def execPrgResponseFailure (n : Nat) (s : State) : Res :=
  match s.ats[n]? with
  | none => .next s
  | some r =>
    if !r.prg then .next s
    else
      let p := r.part
      let mine := s.ats.filter (fun q => q.part == p && q.denied)
      let s := { s with ats := s.ats.filter (fun q => !(q.part == p && q.denied)) }
      let s := mine.foldl (fun s q => s.walkBad q.walk.who { cause := 0x0C, sub := 2, va := q.walk.va }) s
      let o := 0x10000 * p + 0x010
      .next ((s.setBar 0 o ((s.bar 0 o) &&& ~~~2#64)).prgSend)

/-- The accesses that travel in the request of access n, with the first address of the request (R350). -/
def State.extGroup (s : State) (n : Nat) : List Ext × Nat :=
  match s.exts[n]? with
  | none => ([], 0)
  | some e =>
    let es := s.exts.filter (fun f => f.rq == e.rq)
    (es, es.foldl (fun m f => min m (tgtKey f.tgt * 32 + tgtOff f.tgt)) (tgtKey e.tgt * 32 + tgtOff e.tgt))

/-- What an access has left in host memory outside the package: where the I/O stop holds no copy of the line, these bytes stand there (R350, R386). -/
def State.hostHas (s : State) (e : Ext) (bs : List Byte) : State :=
  match e.tgt with
  | .host _ p a x =>
    let k := hostKey p a x
    if (match Map.find? s.atoms (k / 32) with | some t => t.gone | none => true) then s.setBytes k bs else s
  | _ => s

/-- The request of access n on the link completes: with its data, from its first address up, or with its failure; what it has written stands in
host memory (R350, R359). -/
def State.extDone (s : State) (n : Nat) (ok : Bool) (cause sub : Nat) (data : List Byte) : State :=
  let (es, a) := s.extGroup n
  let s := { s with exts := s.exts.filter (fun f => !es.any (fun e => e.rq == f.rq)) }
  es.foldl (fun s e =>
    let d := sliceOf data (tgtKey e.tgt * 32 + tgtOff e.tgt - a) e.len
    let s := if ok && e.kind == 1 then s.hostHas e e.bytes else s
    s.deliver e.who { ok := ok, data := d, val := natOfBytes d, cause := cause, sub := sub }) s

/-- The answer to access n may enter its partition's data-reply network (R113). -/
def State.extOpen (s : State) (n : Nat) : Bool := match s.exts[n]? with | some e => !s.phaseOpen e.part | none => false

/-- PCIE_COMPLETION: a read or write of a host page completes; Unsupported Request from the host IOMMU is protection
(R59, R79, R113, R359). -/
def execPcieCompletion (n : Nat) (ok : Bool) (data : List Byte) (s : State) : Res :=
  match s.exts[n]? with
  | some { tgt := .host .., kind := k, .. } => .next (if k = 2 || !s.extOpen n then s else s.extDone n ok 0x0C 2 data)
  | _ => .next s

/-- PCIE_ATOMIC_COMPLETION: the AtomicOp, or the CAS loop, has been performed on the host's unit and answers the old value; Unsupported
Request or Completer Abort (`none`) traps with "atomic unsupported" (R350). -/
def execPcieAtomicCompletion (n : Nat) (ok : Option Nat) (s : State) : Res :=
  match s.exts[n]? with
  | some e =>
    if e.kind != 2 || (match e.tgt with | .host .. => false | _ => true) || !s.extOpen n then .next s
    else
      let m := ok.getD 0 % 2 ^ (8 * e.len)
      let s := if ok.isSome then s.hostHas e (bytesOf (atNew homeAdd e.op e.len m e.a e.b) e.len) else s
      .next (s.extDone n ok.isSome 0x0C 3 (bytesOf m e.len))
  | none => .next s

/-! ## Invalidation (R357) -/

/-- A command of INVCMD is accepted; before start-up has ended no page answers it (R352, R425). -/
def State.invPush (s : State) (p : Nat) (c : InvC) : State :=
  if !s.boot.up then s
  else s.modPart p (fun q => { q with invIssued := (q.invIssued + 1) % 2 ^ 32, invs := q.invs ++ [c] })

/-- INVCMD kind 00: a range from INVADDR; a count of 0 breaks the limit and is dropped (R352, R357). -/
def execInvcmdRange (p count : Nat) (s : State) : Res :=
  if count = 0 || 2 ^ 32 ≤ count then .next s
  else .next (s.invPush p { kind := 0, a := bitsOf (s.preg p 0x018) 51 12 * 4096, n := count })
/-- INVCMD kind 01: the whole partition (R357). -/
def execInvcmdPartition (p : Nat) (s : State) : Res := .next (s.invPush p { kind := 1 })
/-- INVCMD kind 10: a tensor; an argument beyond its 16 bits breaks the limit and is dropped (R352, R357). -/
def execInvcmdTensor (p tid : Nat) (s : State) : Res := .next (if tid < 2 ^ 16 then s.invPush p { kind := 2, a := tid } else s)

/-- A translation that an invalidation covers. -/
def InvC.covers (c : InvC) (p : Nat) (e : TlbE) : Bool :=
  e.part == p && (if c.kind = 0 then decide (e.va < c.a + 4096 * c.n) && decide (c.a < e.va + 2 ^ e.lg)
    else if c.kind = 1 then true
    else match e.tgt with | .win _ t _ => t == c.a | _ => false)

/-- A pointer entry that an invalidation covers. -/
def InvC.coversPtr (c : InvC) (p : Nat) (e : PtrE) : Bool :=
  e.part == p && (if c.kind = 0 then decide (e.va < c.a + 4096 * c.n) && decide (c.a < e.va + 2 ^ levelLg e.lv) else c.kind == 1)

/-- A target lies in what an entry maps. -/
def TlbE.maps (e : TlbE) (t : Tgt) : Bool :=
  match e.tgt, t with
  | .dev f, .dev a => decide (f ≤ a) && decide (a < f + 2 ^ e.lg)
  | .win p i _, .win q j a => p == q && i == j && decide (e.va ≤ a) && decide (a < e.va + 2 ^ e.lg)
  | .host _ p f _, .host _ q a _ => p == q && decide (f ≤ a) && decide (a < f + 2 ^ e.lg)
  | .peer p r f, .peer q w a => p == q && r == w && decide (f ≤ a) && decide (a < f + 2 ^ e.lg)
  | _, _ => false

/-- A lane access is held back by an engine command of its task that is suspended on a fault (R68, R357). -/
def State.suspendedFor (s : State) (k : Nat) : Bool := (natsFrom 0 4).any (fun e => (s.eng (4 * k + e)).cmds.any (fun (_, m) => m.fault.isSome && !m.done))

/-- Lane accesses that are not sent wait for a fault: of an engine command of the task, or of their own group, which is parked (R357). -/
def State.parkedFor (s : State) (k : Nat) (g : Group) : Bool := g.fault.isSome || s.suspendedFor k

/-- An address that an invalidation covers. -/
def InvC.coversVa (c : InvC) (va : Nat) : Bool := c.kind == 1 || (c.kind == 0 && decide (c.a ≤ va) && decide (va < c.a + 4096 * c.n))

/-- A lane access was translated under an entry that an invalidation covers, be the entry held still or not. -/
def InvC.under (c : InvC) (a : LaneAcc) : Bool :=
  c.coversVa a.va || c.dropped.any (fun e => e.maps a.tgt) || (c.kind == 2 && (match a.tgt with | .win _ t _ => t == c.a | _ => false))

/-- An access of a partition made under a dropped entry is under way: sent and not performed at its home, or translated by a lane word and not
sent; one that a fault holds back translates again instead. A request does not name the entry that translated it: each one that may have been
made under a covered entry is waited for (R357). -/
def State.inFlight (s : State) (p : Nat) (c : InvC) : Bool :=
  s.reqs.any (fun r => r.src == 0 && r.part == p
      && (c.kind != 2 || forEngine r.who || (match r.tgt with | .win _ t _ => t == c.a | _ => false)))
    || s.groups.any (fun (k, g) => (s.ctx k).part == p && g.ops.any (fun o => o.acc.any (fun a =>
        a.ready && !a.done && !a.again && !a.x.out && c.under a && !s.parkedFor k g)))

/-- The lane accesses that a fault holds back lose a translation that has been dropped (R357). -/
def State.loseHeld (s : State) (p : Nat) (c : InvC) : State :=
  { s with groups := s.groups.map (fun (k, g) =>
      (k, if (s.ctx k).part == p && s.parkedFor k g then
            { g with ops := g.ops.map (fun o => { o with acc := o.acc.map (fun a =>
                if a.ready && !a.done && !a.x.out && c.under a then { a with again := true } else a) }) }
          else g)) }

/-- The dirty atoms of the L1s that a partition's stores have left under translations that an invalidation covers: these stores have not been
performed at their homes (R357, R376). -/
def State.invDirty (s : State) (p : Nat) (c : InvC) : List Nat :=
  (s.l1.filter (fun (_, e) => e.dirty != 0 && e.part == p && (c.kind == 1
    || (c.kind == 0 && decide (e.va < c.a + 4096 * c.n) && decide (c.a < e.va + 32))))).map (·.1)

/-- The TLBs, pointer caches and, for a whole partition, ATS translations drop what an invalidation covers; a request to the host that holds
such an entry walks again (R357). -/
def State.invDrop (s : State) (p : Nat) (c : InvC) : State :=
  { s with
    hearths := s.hearths.map (fun (k, hh) => (k, { hh with tlb := hh.tlb.filter (fun e => !c.covers p e) }))
    dies := s.dies.map (fun (k, d) => (k, { d with tlb := d.tlb.filter (fun e => !c.covers p e), ptrs := d.ptrs.filter (fun e => !c.coversPtr p e) }))
    atsCache := if c.kind = 1 then s.atsCache.filter (fun a => a.pasid != s.pasid p) else s.atsCache
    ats := s.ats.filter (fun r => r.sys || !c.covers p r.tlb)
    walks := s.walks ++ (s.ats.filter (fun r => !r.sys && c.covers p r.tlb)).map (·.walk) }

/-- The entries that TLBs hold and an invalidation covers. -/
def State.invEntries (s : State) (p : Nat) (c : InvC) : List TlbE :=
  let mine (l : List TlbE) : List TlbE := l.filter (fun e => c.covers p e)
  ((s.hearths.map (fun q => mine q.2.tlb)).flatten ++ (s.dies.map (fun q => mine q.2.tlb)).flatten).eraseDups

/-- INVALIDATION_COMPLETE: the oldest command drops the entries it covers, has the dirty data under them written back, and completes once no
access made under them is on its way (R357). -/
def execInvalidationComplete (p : Nat) (s : State) : Res :=
  match (s.part p).invs with
  | [] => .next s
  | c :: r =>
    let c := { c with dropped := c.dropped ++ (s.invEntries p c).filter (fun e => !c.dropped.contains e) }
    let s := (s.invDrop p c).loseHeld p c
    let ds := s.invDirty p c
    if !ds.isEmpty then .next ((ds.foldl State.writeBack s).modPart p (fun q => { q with invs := c :: r }))
    else if s.inFlight p c then .next (s.modPart p (fun q => { q with invs := c :: r }))
    else .next (s.modPart p (fun q => { q with invs := r, invDone := (q.invDone + 1) % 2 ^ 32 }))

/-! ## The fault ring and its service (R365, R366) -/

/-- FAULT_ENTRY_WRITE: the oldest waiting entry goes to the ring while it has room (R365). -/
def execFaultEntryWrite (p : Nat) (s : State) : Res :=
  match (s.part p).faults with
  | [] => .next s
  | f :: r =>
    let size := 2 ^ bitsOf (s.preg p 0x038) 4 0
    let hd := (s.part p).fqHead
    if size ≤ hd - s.preg p 0x048 then .next s
    else
      let s := s.hwWords (bitsOf (s.preg p 0x030) 51 12 * 4096 + 32 * (hd % size)) f.words
      .next (s.modPart p (fun q => { q with faults := r, fqHead := hd + 1 }))

/-- A token that is outstanding. -/
def State.faultTok (s : State) (p token : Nat) : Option FaultTok := (s.part p).faultToks.find? (fun f => f.token == token)

/-- The agent of a token holds no fault any more. -/
def State.unpark (s : State) (p : Nat) (f : FaultTok) : State :=
  let s := s.modPart p (fun q => { q with faultToks := q.faultToks.filter (fun t => t.token != f.token) })
  match f.who with
  | .thread h t => s.modThread (tkey h t) (fun th => { th with fault := none })
  | .group h g => s.modGroup (ckey h g) (fun gr => { gr with fault := none })
  | .window h g => s.modGroup (ckey h g) (fun gr => { gr with fault := none })
  | .cmd q n => s.onCmd q n (fun c => { c with fault := none, nopage := none })
  | .script q => s.modEng q (fun e => { e with fetchFault := none })
  | _ => s

/-- The agent of a token still holds its fault in the machine: its context has not been saved (R366). -/
def State.holdsFault (s : State) (f : FaultTok) : Bool :=
  match f.who with
  | .thread h t => (s.thread (tkey h t)).fault == some f.token
  | .group h g => (s.group (ckey h g)).fault == some f.token
  | .window h g => (s.group (ckey h g)).fault == some f.token
  | .cmd q n => (s.cmd q n).fault == some f.token
  | .script q => (s.eng q).fetchFault == some f.token
  | _ => false

/-- A refusal traps the agent with 0x0C, subcause 5, naming the address (R366). -/
def State.refuseAgent (s : State) (p : Nat) (f : FaultTok) : State :=
  let s := s.unpark p f
  let i : Trap := { cause := 0x0C, sub := 5, d8 := f.va }
  match f.who with
  | .thread h t => s.trapCc h t i
  | .group h g => s.trapLane h g { i with mask := ((s.group (ckey h g)).unfinished.getD 0).toNat }
  | .window h g => s.takeTrap h g { i with agent := 6, pos := some (s.group (ckey h g)).winSeq }
  | .cmd q n =>
    let c := s.cmd q n
    ((s.leafFail q n).onCmd q n (fun c => { c with dead := true })).engFail q c.pc (.cmd q n) i
  | .script q => s.engFail q (match (s.eng q).fetch with | some (_, _, pc, _) => pc | none => 0) (.script q) i
  | _ => s

/-- What the driver wrote for a token while its context was saved takes effect at the restore (R366). -/
def State.lateReplay (s : State) (p token : Nat) : State :=
  match s.faultTok p token with
  | some f => if f.refused then s.refuseAgent p f else if f.replayed then s.unpark p f else s
  | none => s

/-- REPLAY with REFUSE = 0: the agent that holds the token resumes; that of a saved context resumes when it is restored (R366). -/
def execReplay (p token : Nat) (s : State) : Res :=
  match s.faultTok p token with
  | none => .next s
  | some f =>
    if s.holdsFault f then .next (s.unpark p f)
    else .next (s.modPart p (fun q => { q with faultToks := q.faultToks.map (fun t => if t.token = token then { t with replayed := true } else t) }))

/-- REPLAY with REFUSE = 1: the agent traps (R366). -/
def execReplayRefuse (p token : Nat) (s : State) : Res :=
  match s.faultTok p token with
  | none => .next s
  | some f =>
    if s.holdsFault f then .next (s.refuseAgent p f)
    else .next (s.modPart p (fun q => { q with faultToks := q.faultToks.map (fun t => if t.token = token then { t with refused := !t.replayed } else t) }))

end Sys2Proof.Machine
end

