-- ==== Sys2Proof/Machine/Sluice.lean ====
section
/-! DEFINITION. Sluice streams and reduction trees: the format of a stream, the check at a leaf, merging, the root's store
(spec/05 R118-R122; spec/04 R99-R102; spec/10 R269; spec/13 R295; spec/20 R405). -/

namespace Sys2Proof.Machine

/-! ## Streams (R118, R119, R121) -/

/-- Trailer flags: SAT 1, OVF 2, NAN 4 (R118). -/
def sfSat : Nat := 1
def sfOvf : Nat := 2
def sfNan : Nat := 4

/-- Values in a word of a dense body: four BF16, else two (R119). -/
def perWord (ty : Nat) : Nat := if ty = 1 then 4 else 2
/-- Value i of a dense word. -/
def denseVal (ty : Nat) (w i : Nat) : Nat := if ty = 1 then w / 2 ^ (16 * i) % 2 ^ 16 else w / 2 ^ (32 * i) % 2 ^ 32

/-- A value as it enters a node: BF16 widened to FP32, the rest unchanged (R99). -/
def sluiceWiden (ty v : Nat) : Nat := if ty = 1 then (narrow f32 .rne false (bf16.unpack false v)).1 else v

/-- The entries of a sparse body, in rising order, BF16 values with zero upper halves (R119); else the position of the word that
breaks the format. -/
def sparseBody (ty : Nat) : Nat → Nat → Nat → List Nat → Except Nat (Map Word × List Nat)
  | 0, _, _, ws => .ok ([], ws)
  | n + 1, lo, pos, w :: r =>
    let o := bitsOf w 43 32
    if w / 2 ^ 44 != 0 || o < lo || (ty == 1 && bitsOf w 31 16 != 0) then .error pos
    else (match sparseBody ty n (o + 1) (pos + 1) r with
      | .ok (m, r) => .ok ((o, BitVec.ofNat 32 (sluiceWiden ty (w % 2 ^ 32))) :: m, r)
      | .error e => .error e)
  | _ + 1, _, pos, [] => .error pos

/-- The values of a dense body (R119). -/
def denseBody (ty : Nat) (ws : List Nat) : Map Word :=
  let vs := (ws.map (fun w => (natsFrom 0 (perWord ty)).map (denseVal ty w))).flatten
  (natsFrom 0 4096).foldl (fun m o => Map.set 0 m o (BitVec.ofNat 32 (sluiceWiden ty (vs.getD o 0)))) []

/-- A segment's trailer: number, type, count of leaf values; a leaf's flags are 0 (R118, R119), and other flags break
the format, though R121 does not list them (DEDUCED, notes/assumptions/40). -/
def segTrailer (seg ty cnt t : Nat) : Bool :=
  bitsOf t 63 48 == seg && bitsOf t 47 46 == 3 && bitsOf t 45 44 == ty && bitsOf t 43 32 == 0 && bitsOf t 31 0 == cnt

/-- A leaf's stream, or the position of the first word that breaks the format (R121); a stream that ends early breaks it past its
last word. `next` is the least segment number that may come. -/
def parseStream (ty : Nat) : Nat → Nat → Nat → List Nat → Except Nat Strm
  | 0, _, pos, _ => .error pos
  | _ + 1, _, pos, [] => .error pos
  | f + 1, next, pos, h :: r =>
    let seg := bitsOf h 63 48
    let enc := bitsOf h 47 46
    let cnt := bitsOf h 43 32
    if bitsOf h 45 44 != ty then .error pos
    else if enc = 3 then
      (if seg = 0xFFFF && cnt = 0 && bitsOf h 31 0 = 1 then
        (if r.isEmpty then .ok { trail := some { flags := 0, count := 1 } } else .error (pos + 1))
       else .error pos)
    else if seg = 0xFFFF || seg < next || h % 2 ^ 32 != 0 || (enc == 0 && cnt == 0) || (enc != 0 && cnt != 0) then .error pos
    else
      let n := 4096 / perWord ty
      let body : Except Nat (Map Word × List Nat × Bool × Nat) :=
        if enc = 0 then
          (match sparseBody ty cnt 0 (pos + 1) r with | .ok (m, r) => .ok (m, r, false, cnt) | .error e => .error e)
        else if enc = 1 then
          (if n ≤ r.length then .ok (denseBody ty (r.take n), r.drop n, true, 4096) else .error (pos + 1 + r.length))
        else .ok ([], r, false, 0)
      match body with
      | .error e => .error e
      | .ok (m, rest, dn, c) =>
        let tp := pos + 1 + (r.length - rest.length)
        match rest with
        | [] => .error tp
        | t :: r' =>
          if !segTrailer seg ty c t then .error tp
          else (match parseStream ty f (seg + 1) (tp + 1) r' with
            | .ok st => .ok { st with segs := { seg := seg, dense := dn, vals := m, flags := 0, count := c } :: st.segs }
            | .error e => .error e)

/-! ## Merging (R99-R101, R122) -/

/-- One addition at a node, with its flags (R99, R101). -/
def sluiceAdd (ty a b : Nat) : Nat × Nat :=
  if ty = 2 then
    let x := (BitVec.ofNat 32 a).toInt + (BitVec.ofNat 32 b).toInt
    let y := sats x 32
    ((BitVec.ofInt 32 y).toNat, if x = y then 0 else sfSat)
  else
    let ta := f32.unpack false a
    let tb := f32.unpack false b
    let (v, fl) := rndSum f32 .rne false [ta, tb]
    let inf (x : Nat) : Bool := x % 2 ^ 31 == 0x7F800000
    let nan := (f32.unpack false v).isNan
    (v, (if nan then sfNan else 0) ||| (if bitOf fl 2 && !inf a && !inf b && !nan then sfOvf else 0))

/-- The port-order sum of the contributions to one index (R99). -/
def sluiceSum (ty : Nat) : List Nat → Nat × Nat
  | [] => (0, 0)
  | a :: r =>
    let first : Nat × Nat := if ty != 2 && (f32.unpack false a).isNan then (f32.canon, sfNan) else (a, 0)
    r.foldl (fun (acc : Nat × Nat) (b : Nat) => let (v, f) := sluiceAdd ty acc.1 b; (v, acc.2 ||| f)) first

/-- A segment's contribution at an offset. -/
def segAt (g : Seg) (o : Nat) : Option Nat :=
  if g.dense then some (Map.get 0 g.vals o).toNat else (Map.find? g.vals o).map (·.toNat)

/-- Distinct offsets of sparse segments, in rising order. -/
def offsetsOf (l : List Seg) : List Nat :=
  ((l.foldl (fun (m : Map Unit) (g : Seg) => g.vals.foldl (fun m q => Map.put m q.1 ()) m) []).map (·.1))

/-- A merged segment: the children's segments of one number, in port order (R122). -/
def segMerge (ty thr : Nat) (l : List Seg) : Seg :=
  let dense := l.any (·.dense) || decide (thr < (offsetsOf l).length)
  let os := if l.any (·.dense) then natsFrom 0 4096 else offsetsOf l
  let vs := os.map (fun o => (o, sluiceSum ty (l.filterMap (fun g => segAt g o))))
  let vals := vs.foldl (fun (m : Map Word) v => if dense then Map.set 0 m v.1 (BitVec.ofNat 32 v.2.1) else Map.put m v.1 (BitVec.ofNat 32 v.2.1)) []
  { seg := (l.headD {}).seg, dense := dense, vals := vals
    flags := vs.foldl (fun a v => a ||| v.2.2) (l.foldl (fun a g => a ||| g.flags) 0)
    count := min (2 ^ 32 - 1) (l.foldl (fun a g => a + g.count) 0) }

/-- The next segment number that a node may emit: every child has delivered one above it, or its trailer (R122). -/
def nextSeg (l : List Strm) : Option Nat :=
  let heads := l.filterMap (fun st => st.segs.head?.map (·.seg))
  match heads with
  | [] => none
  | h :: r =>
    let m := r.foldl min h
    if l.all (fun st => st.trail.isSome || st.segs.any (fun g => decide (m < g.seg))) then some m else none

/-- SLUICE_SEGMENT_EMIT: a merge node emits its next segment, or its trailer once every child's has come (R122, R101). -/
def execSluiceSegmentEmit (p tree node : Nat) (s : State) : Res :=
  match Map.find? (s.part p).trees tree with
  | none => .next s
  | some t =>
    match t.nodes[node]? with
    | none => .next s
    | some nd =>
      let rk := redKey p tree
      let cs := t.children node
      -- an ingress node's other children are packages (R440)
      let far := if nd.kind = 2 then Config.childPorts tree node else 0
      let ports := ((natsFrom 0 4).filter (fun i => cs.any (fun c => c.port == i) || far.testBit i)).map (portKey node)
      let r := s.reduc rk
      let ins := ports.map (fun k => Map.get {} r.ports k)
      let out (f : Strm → Strm) (s : State) : State :=
        if nd.parent = 127 then s.modReduc rk (fun r => { r with out := f r.out })
        else s.modReduc rk (fun r => { r with ports := Map.mod {} r.ports (portKey nd.parent nd.port) f })
      -- a node's packets wait while a transfer phase of the partition holds the mesh (R113)
      if nd.kind = 0 || ports.isEmpty || s.phaseOpen p then .next s
      else
        match nextSeg ins with
        | some m =>
          let here := (ins.filterMap (fun st => st.segs.head?)).filter (fun g => g.seg == m)
          let full := here.filter (fun g => g.dense || !g.vals.isEmpty)
          let pop (st : Strm) : Strm := if (st.segs.head?.map (·.seg)) = some m then { st with segs := st.segs.tail } else st
          let s := s.modReduc rk (fun r => { r with ports := ports.foldl (fun (ps : Map Strm) (k : Nat) => Map.mod {} ps k pop) r.ports })
          .next (if full.isEmpty then s else out (fun st => { st with segs := st.segs ++ [segMerge t.inTy t.thr full] }) s)
        | none =>
          if ins.all (fun st => st.segs.isEmpty && st.trail.isSome) then
            let ts := ins.filterMap (·.trail)
            let tr : STrail := { flags := ts.foldl (fun a x => a ||| x.flags) 0, count := ts.foldl (fun a x => a + x.count) 0 }
            let s := s.modReduc rk (fun r => { r with ports := ports.foldl (fun (ps : Map Strm) (k : Nat) => Map.erase ps k) r.ports })
            .next (out (fun st => { st with trail := some tr }) s)
          else .next s

/-! ## The root's store (R102, R118, R269) -/

/-- A header word. -/
def segHead (seg enc ty cnt : Nat) : Nat := seg * 2 ^ 48 + enc * 2 ^ 46 + ty * 2 ^ 44 + cnt * 2 ^ 32

/-- A value at the root in the output type: BF16 is narrowed once (R102). -/
def rootVal (ty v : Nat) : Nat × Nat :=
  if ty = 1 then let (x, f) := narrow bf16 .rne false (f32.unpack false v); (x, if bitOf f 2 then sfOvf else 0) else (v, 0)

/-- Join the values of a dense body into words. -/
def packWords (ty : Nat) : Nat → List Nat → List Nat
  | 0, _ => []
  | n + 1, vs =>
    let k := perWord ty
    let w := if ty = 1 then 2 ^ 16 else 2 ^ 32
    ((vs.take k).foldr (fun v a => a * w + v) 0) :: packWords ty n (vs.drop k)

/-- The words of a segment in the output type, with the flags that the root raises. -/
def segWords (ty : Nat) (g : Seg) : List Nat × Nat :=
  if g.dense then
    let vs := (natsFrom 0 4096).map (fun o => rootVal ty (Map.get 0 g.vals o).toNat)
    let fl := vs.foldl (fun a v => a ||| v.2) g.flags
    (segHead g.seg 1 ty 0 :: packWords ty (4096 / perWord ty) (vs.map (·.1)) ++ [segHead g.seg 3 ty 0 + fl * 2 ^ 32 + g.count], fl)
  else
    let vs := g.vals.map (fun (o, v) => (o, rootVal ty v.toNat))
    let fl := vs.foldl (fun a v => a ||| v.2.2) g.flags
    (segHead g.seg 0 ty vs.length :: vs.map (fun v => v.1 * 2 ^ 32 + v.2.1) ++ [segHead g.seg 3 ty 0 + fl * 2 ^ 32 + g.count], fl)

/-- The words of a merged stream. -/
def rootWords (ty : Nat) (st : Strm) : List Nat :=
  let segs := st.segs.map (segWords ty)
  let t := st.trail.getD {}
  let fl := segs.foldl (fun a q => a ||| q.2) t.flags
  (segs.map (·.1)).flatten ++ [segHead 0xFFFF 3 ty 0 + fl * 2 ^ 32 + t.count]

/-- The SLREDs of a reduction complete, and their queues take the timestamps of the root's stores (R65, R269, R380); or they end without
completing (R269). -/
def State.endReduc (s : State) (p tree : Nat) (fail : Option (Nat × Nat × Nat)) : State :=
  let ls := (s.reduc (redKey p tree)).leaves
  let pts := (s.reduc (redKey p tree)).pts
  let s := { s with reducs := Map.erase s.reducs (redKey p tree) }
  ls.foldl (fun s (q, n) =>
    let pc := (s.cmd q n).pc
    match fail with
    | none => ((s.onCmd q n (fun c => { c with done := true })).modEng q (fun e => { e with pts := max e.pts pts })).settleQueue q
    | some (c, u, va) => (s.onCmd q n (fun m => { m with dead := true })).engFail q pc (.cmd q n) { cause := c, sub := u, d8 := va }) s

/-- The address of a tree's PTREE entry (R440). -/
def State.ptreeAt (s : State) (tree : Nat) : Nat := bitsOf (s.bar 0 0x190018).toNat 51 12 * 4096 + 16 * tree

/-- The pod's parent of a tree, by its PTREE entry: the merged stream leaves for the parent's ingress (R440). -/
def State.podParent (s : State) (tree : Nat) : Option (Nat × Nat) :=
  let e := s.num (s.ptreeAt tree) 16
  if e / 2 ^ 14 = 0 && bitOf e 11 && !bitOf e 10 then some (e % 1024, bitsOf e 13 12) else none

/-- A package that is not the pod root sends its merged stream, and its SLREDs end as the pod root's store does: what the station hears of
that, and when, is free (R269, R440; notes/assumptions/35). -/
def State.awaitRoot (s : State) (p tree : Nat) (t : Tree) (parent : Nat × Nat) : State :=
  let k := redKey p tree
  let f (i : Nat) : Nat := Config.freeNat s.tick (92 + i)
  if !(s.reduc k).sent then
    -- a merged stream carries 32-bit values (R118, R120)
    ((s.touchFrame (s.ptreeAt tree) false).modReduc k (fun r => { r with sent := true })).wired
      { kind := .stream, unit := tree, addr := parent.1, n := parent.2, words := rootWords (if t.inTy = 2 then 2 else 0) (s.reduc k).out }
  else if f 0 % 3 = 0 then s
  else if f 0 % 3 = 1 then s.endReduc p tree none
  else s.endReduc p tree (some (if f 1 % 2 = 0 then (0x0D, 0, f 3) else (0x0C, f 2 % 256, f 3)))

/-- An earlier-issued access of a leaf's task holds the root's store back (R68, R269). -/
def State.rootWaits (s : State) (p tree : Nat) (t : Tree) (va : Nat) : Bool :=
  (s.reduc (redKey p tree)).leaves.any (fun (q, n) => s.aliasCmd q (s.cmd q n) { va := va, n := 8, cls := t.cls, st := true })

/-- SLUICE_ROOT_STORE: a package that is not the pod root sends the stream to its parent (R440); else the next word of the merged stream
goes to the root's destination, at D scope and in the class of the tree's entry; after the last, or at a store that fails, the reduction
ends (R269, R405). -/
def execSluiceRootStore (p tree : Nat) (s : State) : Res :=
  match Map.find? (s.part p).trees tree with
  | none => .next s
  | some t =>
    let r := s.reduc (redKey p tree)
    if r.out.trail.isNone || s.phaseOpen p then .next s
    else match s.podParent tree with
    | some parent => .next (s.awaitRoot p tree t parent)
    | none =>
      let ws := rootWords t.outTy r.out
      let va := t.dest + 8 * r.stored
      match ws[r.stored]? with
      | none => .next (s.endReduc p tree none)
      | some w =>
        if va % 8 != 0 then .next (s.endReduc p tree (some (0x0D, 0, va)))
        else if s.rootWaits p tree t va then .next s
        else
          sysGate p (sysReady p va 8 .write) (fun s =>
            -- the PTREE entry is read with the first word (R367)
            let s := if r.stored = 0 then s.touchFrame (s.ptreeAt tree) false else s
            match s.sysPut p va s.gcc (bytesOf w 8) with
            | some (st, s) =>
              let s := s.modReduc (redKey p tree) (fun r => { r with stored := r.stored + 1, pts := max r.pts st })
              if ws.length ≤ r.stored + 1 then s.endReduc p tree none else s
            | none =>
              let (c, u) := (match s.sysXl p va .write with | .bad c u => (c, u) | _ => (0x0C, 1))
              s.endReduc p tree (some (c, u, va))) s

end Sys2Proof.Machine
end

