-- ==== Sys2Proof/Machine/EngineSteps.lean ====
section
/-! DEFINITION. What one element of each engine command does: accumulator rows, linear and tensor copies, gathers and scatters,
exchange writes, leaf streams, value tables, rules, sparse products, and the elements of open streams (spec/10 R254-R274). Each
answers how many elements it has made; an element is made in stages, and an answer `wait` keeps the stages made. -/

namespace Sys2Proof.Machine

/-- Operand i of a command. -/
def Cmd.arg (c : Cmd) (i : Nat) : Nat := c.args.getD i 0

/-- A rounding code of an engine's MODE (R82, R246). -/
def rmOfCode (n : Nat) : Rm := if n = 0 then .rne else if n = 1 then .rtz else if n = 2 then .rdn else .rup

/-- Raise flags of a command: they are collected while it runs (R87). -/
def State.cmdFlags (s : State) (q n fl : Nat) : State := s.onCmd q n (fun c => { c with flags := c.flags ||| fl })

/-- Pitch and class of a pitch word (R254, R258). -/
def pitchOf (v : Nat) : Nat × Nat := (v % 2 ^ 32, v / 2 ^ 32 % 4)

/-- Count and class of a size word (R262). -/
def sizeOf' (v : Nat) : Nat × Nat := (v % 2 ^ 40, v / 2 ^ 40 % 4)

/-! ## Accumulator commands (R253, R254) -/

/-- Format of an accumulator command. -/
def accFmtOf (n : Nat) : AccFmt := if n = 0 then .f32 else if n = 1 then .bf16 else .f16

/-- Address of the row and bytes of a cell of an accumulator command. -/
def accRow (c : Cmd) : Nat := (c.arg 0 + c.elem / 32 * (pitchOf (c.arg 1)).1) % 2 ^ 64

/-- ACCST: one cell (R254). -/
def accstElem (q n bank fmt : Nat) (s : State) : Ans Nat :=
  let c := s.cmd q n
  let f := accFmtOf fmt
  if s.aliasCmd q c (bankSpan bank false) then .wait s
  else
    (eAlign (accRow c) 16 s).bind fun _ s =>
      let (v, fl) := accNarrow f (rmOfCode c.rm) c.ftz ((s.group (engKey q)).accAt bank (c.elem / 32) (c.elem % 32))
      -- the flags of the narrowing are raised before the store, which may trap (R288)
      (eStores q n (pitchOf (c.arg 1)).2 0 [(accRow c + c.elem % 32 * accWidth f, accWidth f)] (bytesOf v (accWidth f)) (s.cmdFlags q n fl)).bind
        fun _ s => .ok 1 s

/-- The FP32 pattern that ACCLD gives a cell (R254). -/
def accWiden (f : AccFmt) (z : Bool) (v : Nat) : Nat :=
  match f with
  | .f32 => flushBits z v
  | .bf16 => (narrow f32 .rne z (bf16.unpack z v)).1
  | .f16 => (narrow f32 .rne z (f16.unpack z v)).1

/-- ACCLD: one cell (R254). -/
def accldElem (q n bank fmt : Nat) (s : State) : Ans Nat :=
  let c := s.cmd q n
  let f := accFmtOf fmt
  if s.aliasCmd q c (bankSpan bank true) then .wait s
  else
    (eAlign (accRow c) 16 s).bind fun _ s =>
      (eLoads q n (pitchOf (c.arg 1)).2 0 [(accRow c + c.elem % 32 * accWidth f, accWidth f)] s).bind fun _ s =>
        .ok 1 (s.modGroup (engKey q) (fun g => g.setAcc bank (c.elem / 32) (c.elem % 32) (accWiden f c.ftz (natOfBytes (s.held q n)))))

/-- ACCCLR: every cell of the bank (R254). -/
def accclrElem (q n bank : Nat) (s : State) : Ans Nat :=
  if s.aliasCmd q (s.cmd q n) (bankSpan bank true) then .wait s
  else .ok 1 (s.modGroup (engKey q) (fun g =>
    (natsFrom 0 32).foldl (fun (g : Group) (r : Nat) => (natsFrom 0 32).foldl (fun (g : Group) (k : Nat) => g.setAcc bank r k 0) g) g))

/-! ## Linear copies (R264) -/

/-- Key of a copy engine's use of its partition's BCOPY (R407). -/
def copyUse (q : Nat) : Nat := 2 ^ 20 + engNo q

/-- A copy engine may move n more bytes in this period (R407, R408). -/
def State.copyRoom (s : State) (q n : Nat) : Bool :=
  let b := s.budget (s.engPart q) 1
  b == 0 || decide (Map.get 0 (s.part (s.engPart q)).used (copyUse q) + n ≤ 64 * b)

/-- Count the bytes of an element that has been made. -/
def State.copied (s : State) (q n len : Nat) : State :=
  (s.modPart (s.engPart q) (fun p => { p with used := Map.put p.used (copyUse q) (Map.get 0 p.used (copyUse q) + len) })).onCmd q n
    (fun c => { c with count := c.count + len })

/-- The bytes that a store of a command is about to replace. -/
def State.oldBytes (s : State) (q va n : Nat) : List Byte :=
  match s.xlate (engHearth q) (s.engPart q) va .read with
  | .ok t => (match s.place t true with | .at a => s.bytes a n | _ => [])
  | _ => []

/-- The bytes that a CPY reads where its own stores race with the load: each 16-byte unit as it is now, or as it was before the
command (R69, R264). -/
def raceBytes (c : Cmd) (seed va : Nat) (d : List Byte) : List Byte :=
  d.zipIdx.map (fun (b, i) => match Map.find? c.vals (va + i) with
    | some old => if Config.freeNat seed ((va + i) / 16) % 2 = 0 then b else old.setWidth 8
    | none => b)

/-- Length of the element at byte o of a linear copy: up to the next 16-byte unit of the destination (R70). -/
def unitLen (dst o cnt : Nat) : Nat := min (16 - (dst + o) % 16) (cnt - o)

/-- CPY: the bytes of one unit of the destination (R264). -/
def cpyElem (q n : Nat) (s : State) : Ans Nat :=
  let c := s.cmd q n
  let (cnt, cl) := sizeOf' (c.arg 2)
  let o := c.elem
  let len := unitLen (c.arg 0) o cnt
  let src := (c.arg 1 + o) % 2 ^ 64
  let dst := (c.arg 0 + o) % 2 ^ 64
  let race := meets (c.arg 0) cnt (c.arg 1) cnt
  if !s.copyRoom q len then .wait s
  else
    let ps := pieces src len
    (eLoads q n cl 0 ps s).bind fun _ s =>
      let d := if race then raceBytes c s.tick src (s.held q n) else s.held q n
      let old := if race then s.oldBytes q dst len else []
      (eStores q n cl ps.length [(dst, len)] d s).bind fun _ s =>
        let s := s.onCmd q n (fun c => { c with vals := (old.zipIdx).foldl (fun (m : Map Word) (b, i) =>
          if (Map.find? m (dst + i)).isSome then m else Map.put m (dst + i) (b.setWidth 32)) c.vals })
        .ok len (s.copied q n len)

/-- ZERO: the bytes of one unit (R264). -/
def zeroElem (q n : Nat) (s : State) : Ans Nat :=
  let c := s.cmd q n
  let (cnt, cl) := sizeOf' (c.arg 1)
  let len := unitLen (c.arg 0) c.elem cnt
  if !s.copyRoom q len then .wait s
  else
    (eStores q n cl 0 [((c.arg 0 + c.elem) % 2 ^ 64, len)] (List.replicate len 0) s).bind fun _ s => .ok len (s.copied q n len)

/-- Write bytes of the B store: they can be read again (notes/assumptions/66). -/
def Hearth.setBst (hh : Hearth) (b : Nat) (d : List Byte) : Hearth :=
  { hh with bst := (d.zipIdx).foldl (fun (m : Map Byte) (v, i) => Map.set 0 m (b + i) v) hh.bst
            badBst := if hh.badBst.isEmpty then [] else hh.badBst.filter (fun a => !(decide (b ≤ a) && decide (a < b + d.length))) }

/-- BLOADB: one 16-byte unit of the B store (R264). -/
def bloadbElem (q n : Nat) (s : State) : Ans Nat :=
  let c := s.cmd q n
  let (cnt, cl) := sizeOf' (c.arg 2)
  let b := c.arg 0 + c.elem
  if c.arg 0 % 16 != 0 || cnt % 16 != 0 then .trap (trapVa 0x0D 0 (c.arg 0)) s
  else if 2 ^ 24 < b + 16 then .trap (trapVa 0x0C 1 b) s
  else if !s.copyRoom q 16 || s.aliasCmd q c { sp := .bst, va := b, n := 16, cls := 0, st := true } || s.rowHeld (engHearth q) false [b] then .wait s
  else
    (eLoads q n cl 0 (pieces ((c.arg 1 + c.elem) % 2 ^ 64) 16) s).bind fun _ s =>
      let d := s.held q n
      .ok 16 ((s.modHearth (engHearth q) (fun hh => hh.setBst b d)).copied q n 16)

/-- An exchange write of 4 bytes, sent once and acknowledged (R76, R264). -/
def xchSend (q n target o : Nat) (v : Word) (s : State) : Ans (List Byte) :=
  let c := s.cmd q n
  match c.xact.got with
  | some g =>
    let s := s.onCmd q n (fun c => { c with xact := {} })
    if g.ok then .ok [] s else .trap (trapVa 0x0C 1 o) s
  | none =>
    if c.xact.out then .wait s
    else .wait ((s.sendStx { t := target, o := o, src := engHearth q, v := v, who := .cmd q n }).onCmd q n (fun c => { c with xact := { out := true } }))

/-- XCH: 4 bytes to the shadow half of another hearth's exchange window; the whole range is checked first (R217, R264). -/
def xchElem (q n : Nat) (s : State) : Ans Nat :=
  let c := s.cmd q n
  let (cnt, cl) := sizeOf' (c.arg 2)
  let target := c.arg 0 / 2 ^ 32 % 256
  let o := c.arg 0 % 2 ^ 32
  if o % 4 != 0 || cnt % 4 != 0 then .trap (trapVa 0x0D 0 o) s
  else if c.elem = 0 && c.part = 0 && s.badXTarget (engHearth q) (s.engPart q) target o cnt then .trap (trapVa 0x0C 1 o) s
  else if !s.copyRoom q 4 then .wait s
  else
    let ps := pieces ((c.arg 1 + c.elem) % 2 ^ 64) 4
    (eLoads q n cl 0 ps s).bind fun _ s =>
      let v := BitVec.ofNat 32 (natOfBytes ((s.held q n).take 4))
      (if c.xact.out || c.xact.got.isSome || !s.aliasCmd q c winSpan then eStage q n ps.length (xchSend q n target (o + c.elem) v) s else .wait s).bind fun _ s => .ok 4 (s.copied q n 4)

/-! ## Tensor copies (R265-R268) -/

/-- The coordinates of position e of a box, dimension 0 fastest (R266). -/
def boxPos : List Nat → Nat → List Nat
  | [], _ => []
  | x :: r, e => e % x :: boxPos r (e / x)

/-- Sums of coordinates. -/
def addCoord (a b : List Nat) : List Nat := (natsFrom 0 4).map (fun i => a.getD i 0 + b.getD i 0)

/-- Set coordinate i. -/
def setCoord (c : List Nat) (i v : Nat) : List Nat := (natsFrom 0 4).map (fun j => if j = i then v else c.getD j 0)

/-- The floating format of a tensor format (R362). -/
def tenFmt (f : Nat) : Fmt := if f = 0 then f32 else if f = 1 then f16 else bf16

/-- conv of an element, with flags (R266). -/
def convElem (c : Cmd) (a b : TenDesc) (d : List Byte) : List Byte × Nat :=
  if a.fmt = b.fmt then (d, 0)
  else
    let (v, fl) := narrow (tenFmt b.fmt) (rmOfCode c.rm) c.ftz ((tenFmt a.fmt).unpack c.ftz (natOfBytes d))
    (bytesOf v (fmtSize b.fmt 0), fl)

/-- The box of a tensor command in positions: a BPI tensor moves whole blocks of 384 (R266). -/
def boxExt (c : Cmd) (d : TenDesc) : List Nat :=
  let x := (c.box.map (·.2)).getD []
  if fmtBpi d.fmt then setCoord x 0 (x.getD 0 0 / 384) else x

/-- The coordinates of a position in elements. -/
def unitCoord (d : TenDesc) (c : List Nat) : List Nat := if fmtBpi d.fmt then setCoord c 0 (384 * c.getD 0 0) else c

/-- A skipped store of a scatter whose index has been used before leaves the earlier slice (R69, R267). -/
def lostRace (seed : Nat) : Bool := Config.freeNat seed 0 % 2 == 1

/-- One element from source to destination coordinates, in stages from k0 with `drop` bytes held before it; out of bounds it is
skipped (R265, R266). -/
def tenElem (q n k0 drop : Nat) (sc dc : List Nat) (dup : Bool) (s : State) : Ans Unit :=
  let c := s.cmd q n
  let p := s.engPart q
  match c.src, c.dst with
  | some so, some d =>
    (match s.tensor p so.tid, s.tensor p d.tid with
     | some a, some b =>
       if !inBounds a sc || !inBounds b dc then .ok () s
       else if !s.copyRoom q (fmtSize b.fmt b.p) then .wait s
       else
         let k1 := k0 + tenStages a sc
         let bpi := fmtBpi a.fmt
         (eTenLoad q n so.cls k0 a so.tid sc s).bind fun _ s =>
         (if bpi then eScaleLoad q n so.cls k1 (scaleAddr a sc) s else .ok () s).bind fun _ s =>
           let raw := (s.held q n).drop drop
           let sz := fmtSize a.fmt a.p
           let (out, fl) := convElem c a b (raw.take sz)
           let k2 := k1 + boolNat bpi
           let len := fmtSize b.fmt b.p + boolNat bpi
           let s := s.cmdFlags q n fl
           if dup && c.part ≤ k2 && lostRace s.tick then .ok () (s.copied q n len)
           else
             (eTenStore q n d.cls k2 b d.tid dc out s).bind fun _ s =>
             (if bpi then eScaleStore q n d.cls (k2 + tenStages b dc) (scaleAddr b dc) (raw.drop sz) s else .ok () s).bind fun _ s =>
               .ok () (s.copied q n len)
     | _, _ => .trap confTrap s)
  | _, _ => .trap wordTrap s

/-- The count report of a tensor command (R268). -/
def reportElem (q n : Nat) (o : TenOp) (s : State) : Ans Nat :=
  (eAlign o.raddr 8 s).bind fun _ s => (eStores q n o.cls 0 [(o.raddr, 8)] (bytesOf (s.cmd q n).count 8) s).bind fun _ s => .ok 1 s

/-- TCPY: one position (R266). -/
def tcpyElem (q n : Nat) (s : State) : Ans Nat :=
  let c := s.cmd q n
  match c.src, c.dst with
  | some so, some d =>
    if c.total ≤ c.elem then reportElem q n d s
    else
      (match s.tensor (s.engPart q) so.tid with
       | some a =>
         let pos := unitCoord a (boxPos (boxExt c a) c.elem)
         (tenElem q n 0 0 (addCoord so.c pos) (addCoord d.c pos) false s).bind fun _ s => .ok 1 s
       | none => .trap confTrap s)
  | _, _ => .trap wordTrap s

/-- The highest box dimension (R267). -/
def Cmd.dimG (c : Cmd) : Nat := (c.box.map (·.1)).getD 1 - 1

/-- Positions of one slice (R267). -/
def slicePos (c : Cmd) (d : TenDesc) : Nat := (setCoord (boxExt c d) c.dimG 1).foldl (· * ·) 1

/-- TGATH and TSCAT: one position of a slice; its first reads the index (R267). Of a BPI tensor sliced along dimension 0 the indices count blocks
(DESIGN CHOICE, notes/assumptions/111). -/
def sliceElem (q n : Nat) (scat wide : Bool) (s : State) : Ans Nat :=
  let c := s.cmd q n
  match c.src, c.dst with
  | some so, some d =>
    if c.total ≤ c.elem then reportElem q n d s
    else
      (match s.tensor (s.engPart q) so.tid with
       | none => .trap confTrap s
       | some a =>
         let sp := slicePos c a
         let i := c.elem / sp
         let e := c.elem % sp
         let w := if wide then 8 else 4
         let ia := (c.arg 0 + w * i) % 2 ^ 64
         let first : Ans Nat :=
           if e = 0 then
             (eAlign ia w s).bind fun _ s => (eLoads q n (if scat then d.cls else so.cls) 0 [(ia, w)] s).bind fun _ s =>
               .ok (natOfBytes ((s.held q n).take w)) s
           else .ok c.idx s
         first.bind fun j s =>
           let used := c.words.contains (BitVec.ofNat 64 j)
           let s := s.onCmd q n (fun c => { c with idx := j })
           let note (s : State) : State :=
             if scat && e + 1 = sp then s.onCmd q n (fun c => { c with words := if used then c.words else c.words ++ [BitVec.ofNat 64 j] }) else s
           if 2 ^ 32 - 1 ≤ j then .ok (sp - e) s
           else
             let pos := unitCoord a (boxPos (setCoord (boxExt c a) c.dimG 1) e)
             let moved (o : TenOp) (by' : Bool) : List Nat :=
               let x := addCoord o.c pos
               let u := if fmtBpi a.fmt && c.dimG = 0 then 384 else 1
               setCoord x c.dimG (if by' then u * j else o.c.getD c.dimG 0 + u * i)
             let k0 := if e = 0 then 1 else 0
             (tenElem q n k0 (if e = 0 then w else 0) (moved so (!scat)) (moved d scat) (scat && used) s).bind fun _ s => .ok 1 (note s))
  | _, _ => .trap wordTrap s

/-! ## Leaf streams (R121, R269, R295) -/

/-- A format error of the words read so far, at a word that has been read. -/
def leafBad (ty : Nat) (ws : List Word64) : Option Nat :=
  match parseStream ty (ws.length + 1) 0 0 (ws.map BitVec.toNat) with
  | .error e => if e < ws.length then some e else none
  | .ok _ => none

/-- SLRED: one word of the stream, then its check and its sending; the command completes with the root's store (R121, R269). -/
def slredElem (q n : Nat) (s : State) : Ans Nat :=
  let c := s.cmd q n
  let p := s.engPart q
  let (cnt, cl) := sizeOf' (c.arg 1)
  let tr := c.arg 2
  match Map.find? (s.part p).trees tr with
  | none => .trap confTrap s
  | some t =>
    match t.leafOf (engNo q) with
    | none => .trap confTrap s
    | some (i, _) =>
      let bad (e : Nat) : Trap := { cause := 0x01, d8 := engPos c.pos e }
      if c.elem = cnt / 8 + 1 || (s.reduc (redKey p tr)).joined.contains i then .wait s
      else if c.arg 0 % 8 != 0 then .trap (trapVa 0x0D 0 (c.arg 0)) s
      else if c.elem < cnt / 8 then
        (if !s.copyRoom q 8 then .wait s
         else
           match eLoads q n cl 0 [((c.arg 0 + 8 * c.elem) % 2 ^ 64, 8)] s with
           | .ok _ s => .ok 1 ((s.onCmd q n (fun c => { c with words := c.words ++ [BitVec.ofNat 64 (natOfBytes (s.held q n))] })).copied q n 8)
           | .wait s => .wait s
           | .trap i s => (match leafBad t.inTy c.words with | some e => .trap (bad e) s | none => .trap i s))
      else
        match parseStream t.inTy (c.words.length + 1) 0 0 (c.words.map BitVec.toNat) with
        | .error e => .trap (bad e) s
        | .ok st =>
          if cnt % 8 != 0 then .trap (bad (cnt / 8)) s
          else
            if s.phaseOpen p then .wait s
            else
            let s := s.leafSend p tr (engNo q) st
            .ok 1 (s.modReduc (redKey p tr) (fun r => { r with leaves := r.leaves ++ [(q, n)] }))

/-! ## The rule engine (R97, R258-R261) -/

/-- RVTAB: four entries of the value table (R258). -/
def rvtabElem (q n : Nat) (s : State) : Ans Nat :=
  let c := s.cmd q n
  let a := (c.arg 0 + 16 * c.elem) % 2 ^ 64
  (eAlign (c.arg 0) 16 s).bind fun _ s => (eLoads q n 0 0 [(a, 16)] s).bind fun _ s =>
    let d := s.held q n
    .ok 1 (s.modEng q (fun e => { e with vt := (natsFrom 0 4).foldl (fun (m : Map Word) (i : Nat) =>
      Map.set 0 m (4 * c.elem + i) (BitVec.ofNat 32 (natOfBytes (sliceOf d (4 * i) 4)))) e.vt }))

/-- Fields of a header (R259). -/
def ruleDepth (h : Nat) : Nat := bitsOf h 27 22
def ruleLen (h : Nat) : Nat := bitsOf h 21 14
def ruleRow (h : Nat) : Bool := bitOf h 13

/-- A rule's failed check: cause, subcause, the position of the word in the rule (R261). -/
abbrev RuleBad := Nat × Nat × Nat

/-- Steps 1 and 2, on the header (R261). -/
def ruleHead (h lim : Nat) : Option RuleBad :=
  if bitsOf h 31 28 != 15 || ruleLen h == 0 || bitsOf h 12 0 != 0 then some (0x01, 0, 0)
  else if lim < ruleDepth h then some (0x05, 2, 0)
  else none

/-- A nonterminal's rule, if a symbol is one. -/
def symRef (w : Nat) : Option Nat := if bitsOf w 31 30 = 1 then some (bitsOf w 29 0) else none

/-- Step 4 of a symbol (R261). -/
def symBad (cols w : Nat) : Bool := bitOf w 31 || (!bitOf w 30 && (bitsOf w 29 28 != 0 || decide (cols ≤ bitsOf w 19 0)))

/-- The first position from i whose word meets a condition. -/
def findPos (f : Nat → Bool) : Nat → List Nat → Option Nat
  | _, [] => none
  | i, w :: r => if f w then some i else findPos f (i + 1) r

/-- Steps 4 to 8 on the symbols present; `off` is the position of the first, `whole` tells that the stream does not end inside the
rule (R261). -/
def ruleBody (cols id d off : Nat) (whole : Bool) (depthOf : Nat → Nat) (syms : List Nat) : Option RuleBad :=
  let ref (f : Nat → Bool) (w : Nat) : Bool := match symRef w with | some r => f r | none => false
  match findPos (symBad cols) off syms with
  | some i => some (0x01, 0, i)
  | none =>
    match findPos (ref (fun r => decide (id ≤ r))) off syms with
    | some i => some (0x04, 0, i)
    | none =>
      match findPos (ref (fun r => decide (32767 < id - r))) off syms with
      | some i => some (0x06, 0, i)
      | none =>
        if !whole then some (0x01, 0, off + syms.length)
        else if d != 1 + ((syms.filterMap symRef).map depthOf).foldl max 0 then some (0x05, 1, 0)
        else none

/-- The words of a rule that have been read: header, row word, symbols. -/
def ruleSyms (ws : List Nat) : List Nat := ws.drop (1 + boolNat (ruleRow (ws.headD 0)))

/-- The trap of a rule's failed check: stream word index and rule id (R261, R417). -/
def ruleTrap (c : Cmd) (b : RuleBad) : Trap :=
  { cause := b.1, sub := b.2.1, d8 := engPos c.pos (c.rule.start + b.2.2), d9 := c.rule.start + b.2.2, d10 := c.rule.id }

/-- Addresses and pitches of REVAL that are not aligned (R258): found before its first stream word, whether or not a row is stored (DESIGN CHOICE,
notes/assumptions/111). -/
def revalMis (c : Cmd) : Option Nat :=
  match c.rxin, c.rprog, c.ryout with
  | some (xa, xp, _, bf), some (pa, _, _, _), some (ya, yp, _) =>
    let w := if bf then 2 else 4
    if xa % w != 0 || (pitchOf xp).1 % w != 0 then some xa
    else if pa % 4 != 0 then some pa
    else if ya % 4 != 0 || (pitchOf yp).1 % 4 != 0 then some ya
    else none
  | _, _, _ => none

/-- The x loads of a rule: for each terminal in order, its column in every batch column (R97, R258). -/
def xLoads (xa xp w b : Nat) (syms : List Nat) : List (Nat × Nat) :=
  (syms.map (fun y => if (symRef y).isSome then [] else (natsFrom 0 b).map (fun i => ((xa + i * xp + w * bitsOf y 19 0) % 2 ^ 64, w)))).flatten

/-- The terms of a rule in batch column i; `xs` are the loaded x values of the terminals still to come (R97). -/
def ruleTerms (z : Bool) (xf : Fmt) (vt vals : Map Word) (b i : Nat) : List Nat → List Nat → List Term
  | [], _ => []
  | y :: r, xs =>
    match symRef y with
    | some k => f32.unpack z (Map.get 0 vals (k % 32768 * 8 + i)).toNat :: ruleTerms z xf vt vals b i r xs
    | none =>
      (f32.unpack z (Map.get 0 vt (bitsOf y 27 20)).toNat).mul (xf.unpack z (xs.getD i 0)) :: ruleTerms z xf vt vals b i r (xs.drop b)

/-- Split bytes into numbers of w bytes. -/
def splitNums (w : Nat) : Nat → List Byte → List Nat
  | 0, _ => []
  | n + 1, d => natOfBytes (d.take w) :: splitNums w n (d.drop w)

/-- The end of a rule: its x values are loaded, V is computed for every column, y is stored (R97, R260). -/
def ruleEnd (q n b : Nat) (ws : List Nat) (s : State) : Ans Unit :=
  let c := s.cmd q n
  let h := ws.headD 0
  let syms := ruleSyms ws
  match c.rxin, c.ryout with
  | some (xa, xp, _, bf), some (ya, yp, _) =>
    let w := if bf then 2 else 4
    let ls := xLoads xa (pitchOf xp).1 w b syms
    (eLoads q n (pitchOf xp).2 1 ls s).bind fun _ s =>
      let xs := splitNums w ls.length ((s.held q n).drop 4)
      let vs := (natsFrom 0 b).map (fun i =>
        rndSum f32 .rne c.ftz (ruleTerms c.ftz (if bf then bf16 else f32) (s.eng q).vt c.vals b i syms xs))
      let row := (natsFrom 0 b).map (fun i => ((ya + i * (pitchOf yp).1 + 4 * ws.getD 1 0) % 2 ^ 64, 4))
      let out := (vs.map (fun v => bytesOf v.1 4)).flatten
      let s := s.cmdFlags q n (vs.foldl (fun a v => a ||| v.2) 0)
      (if ruleRow h then eStores q n (pitchOf yp).2 (1 + ls.length) row out s else .ok () s).bind fun _ s =>
        .ok () (s.onCmd q n (fun c => { c with
          vals := (vs.zipIdx).foldl (fun (m : Map Word) (v, i) => Map.put m (c.rule.id % 32768 * 8 + i) (BitVec.ofNat 32 v.1)) c.vals
          depths := Map.put c.depths (c.rule.id % 32768) (ruleDepth h)
          words := []
          rule := { id := c.rule.id + 1, start := c.elem + 1 } }))
  | _, _ => .trap wordTrap s

/-- A failed check of the words of a rule that have been read, when the next one cannot be read: the lower element is reported (R245, R261). -/
def ruleSoFar (cols id : Nat) (depthOf : Nat → Nat) (ws : List Nat) : Option RuleBad :=
  match ruleBody cols id (ruleDepth (ws.headD 0)) (1 + boolNat (ruleRow (ws.headD 0))) false depthOf (ruleSyms ws) with
  | some x => if x.2.2 < ws.length then some x else none
  | none => none

/-- REVAL: one word of the rule stream (R260, R261). -/
def revalElem (q n b : Nat) (s : State) : Ans Nat :=
  let c := s.cmd q n
  match revalMis c, c.rprog, c.rxin, c.ryout with
  | some va, _, _, _ => .trap (trapVa 0x0D 0 va) s
  | none, some (pa, _, cl, _), some (_, _, cols, _), some (_, _, m) =>
    let word : Ans Unit := match eLoads q n cl 0 [((pa + 4 * c.elem) % 2 ^ 64, 4)] s with
      | .trap i s =>
        (match ruleSoFar cols c.rule.id (fun r => Map.get 0 c.depths (r % 32768)) (c.words.map BitVec.toNat) with
         | some x => .trap (ruleTrap c x) s
         | none => .trap i s)
      | a => a
    word.bind fun _ s =>
      let ws := c.words.map BitVec.toNat ++ [natOfBytes ((s.held q n).take 4)]
      let h := ws.headD 0
      let keep (s : State) : State := s.onCmd q n (fun c => { c with words := ws.map (BitVec.ofNat 64) })
      let last := decide (c.total ≤ c.elem + 1)
      let cut : Option RuleBad := ruleBody cols c.rule.id (ruleDepth h) (1 + boolNat (ruleRow h)) false
        (fun r => Map.get 0 c.depths (r % 32768)) (ruleSyms ws)
      -- a stream that ends with the header of a rule that has a row word lacks that word
      let cutAt : RuleBad := match cut with | some (x, y, i) => (x, y, min i ws.length) | none => (0x01, 0, ws.length)
      let go : Ans Nat := if last then .trap (ruleTrap c cutAt) s else .ok 1 (keep s)
      if ws.length = 1 then
        (match ruleHead h c.rdlim with
         | some x => .trap (ruleTrap c x) s
         | none => go)
      else if ws.length = 2 && ruleRow h then
        (if m ≤ ws.getD 1 0 then .trap (ruleTrap c (0x01, 0, 1)) s else go)
      else if ws.length < 1 + boolNat (ruleRow h) + ruleLen h then go
      else
        match ruleBody cols c.rule.id (ruleDepth h) (1 + boolNat (ruleRow h)) true (fun r => Map.get 0 c.depths (r % 32768)) (ruleSyms ws) with
        | some x => .trap (ruleTrap c x) s
        | none => (ruleEnd q n b ws s).bind fun _ s => .ok 1 s
  | _, _, _, _ => .trap wordTrap s

/-! ## The sparse product (R255-R257) -/

/-- Distinct columns of a row's products, in rising order. -/
def rowCols (l : List (Nat × Nat × Nat)) : List Nat :=
  (l.foldl (fun (m : Map Unit) (q : Nat × Nat × Nat) => Map.put m q.1 ()) []).map (·.1)

/-- A row of C: column and value, with the flags (R257). -/
def rowOut (z : Bool) (l : List (Nat × Nat × Nat)) : List (Nat × Nat) × Nat :=
  let vs := (rowCols l).map (fun j => (j, rndSum f32 .rne z
    ((l.filter (fun q => q.1 == j)).map (fun q => (f32.unpack z q.2.1).mul (f32.unpack z q.2.2)))))
  (vs.map (fun v => (v.1, v.2.1)), vs.foldl (fun a v => a ||| v.2.2) 0)

/-- Change the progress of a sparse product. -/
def State.onSp (s : State) (q n : Nat) (f : SpSt → SpSt) : State := s.onCmd q n (fun c => { c with sp := f c.sp })

/-- The Gustavson unit caches fibres in its region: one access of its, at a place that is free (R255, R343; notes/assumptions/93). -/
def State.fibreAsk (s : State) (q n : Nat) : State :=
  let (base, size) := (s.cmd q n).fibre
  if size = 0 then s else s.modHearth (engHearth q) (fun hh => hh.bankAsk 11 [base + Config.freeNat s.tick 95 % size])

/-- Bytes of the fibre region are left with open contents, by writes of the unit as any other's (R15, R17, R255; notes/assumptions/5). -/
def State.scramble (s : State) (q n : Nat) : State :=
  let (base, size) := (s.cmd q n).fibre
  (s.fibreAsk q n).modHearth (engHearth q) (fun hh =>
    if size = 0 then hh else hh.setPad base ((natsFrom base size).map (Config.freeByte s.tick)))

/-- SPGEMM: its next piece: the descriptor, an entry of A or of B, an entry or offset of C, the header (R256, R257). The element that a record of
cause 0x01 names is the row (DESIGN CHOICE, notes/assumptions/111). -/
def spElem (q n : Nat) (s : State) : Ans Nat :=
  let c := s.cmd q n
  let d (i : Nat) : Nat := (c.sp.desc.getD i 0).toNat
  let (cap, cl) := pitchOf (c.arg 2)
  let first := c.arg 1 % 2 ^ 32
  let nrow := c.arg 1 / 2 ^ 32
  let out := d 6
  let ents := (out + 8 + 4 * (nrow + 1) + 7) / 8 * 8
  let p := c.sp
  let bad : Trap := { cause := 0x01, d8 := engPos c.pos p.row }
  let load (l : List (Nat × Nat)) (f : List Byte → State → Ans Nat) : Ans Nat :=
    (eLoads q n cl 0 ((l.map (fun (a, w) => pieces (a % 2 ^ 64) w)).flatten) s).bind fun _ s => f (s.held q n) s
  let store (a : Nat) (bs : List Byte) (f : State → Ans Nat) : Ans Nat :=
    (eStores q n cl 0 (pieces (a % 2 ^ 64) bs.length) bs s).bind fun _ s => f s
  let w4 (l : List Byte) (i : Nat) : Nat := natOfBytes (sliceOf l (4 * i) 4)
  if p.ph = 0 then
    (eAlign (c.arg 0) 64 s).bind fun _ _ =>
      load [(c.arg 0, 64)] (fun l s =>
        let ws := (splitNums 8 8 l).map (BitVec.ofNat 64)
        if bitsOf (ws.getD 7 0).toNat 63 32 != 0 then .trap bad s
        else if (ws.getD 6 0).toNat % 8 != 0 then .trap (trapVa 0x0D 0 (ws.getD 6 0).toNat) s
        else .ok 0 ((s.scramble q n).onSp q n (fun p => { p with desc := ws, ph := 1 })))
  else if p.ph = 1 then store (out + 8) (bytesOf 0 4) (fun s => .ok 0 (s.onSp q n (fun p => { p with ph := 2 })))
  else if p.ph = 2 then
    (if nrow ≤ p.row then .ok 0 (s.onSp q n (fun p => { p with ph := 6 }))
     else load [(d 0 + 4 * (first + p.row), 8)] (fun l s =>
       if w4 l 1 < w4 l 0 then .trap bad s
       else .ok 0 (s.onSp q n (fun p => { p with ph := 3, e := w4 l 0, e1 := w4 l 1, prods := [] }))))
  else if p.ph = 3 then
    (if p.e1 ≤ p.e then
       let (o, fl) := rowOut c.ftz p.prods
       if cap < p.total + o.length then .ok 0 (s.onSp q n (fun p => { p with ph := 6 }))
       else .ok 0 ((s.cmdFlags q n fl).onSp q n (fun p => { p with ph := 5, outs := o }))
     else
       let ps := pieces ((d 1 + 4 * p.e) % 2 ^ 64) 4 ++ pieces ((d 2 + 4 * p.e) % 2 ^ 64) 4
       (eLoads q n cl 0 ps s).bind fun _ s =>
         let k := w4 (s.held q n) 0
         -- the offsets of B's row are read once its number is known to be in range
         if (d 7) % 2 ^ 32 ≤ k then .trap bad s
         else
           (eLoads q n cl ps.length (pieces ((d 3 + 4 * k) % 2 ^ 64) 8) s).bind fun _ s =>
             let l := s.held q n
             if w4 l 3 < w4 l 2 then .trap bad s
             else .ok 0 (s.onSp q n (fun p => { p with ph := 4, a := w4 l 1, f := w4 l 2, f1 := w4 l 3 })))
  else if p.ph = 4 then
    (if p.f1 ≤ p.f then .ok 0 (s.onSp q n (fun p => { p with ph := 3, e := p.e + 1 }))
     else load [(d 4 + 4 * p.f, 4), (d 5 + 4 * p.f, 4)] (fun l s =>
       .ok 0 ((s.fibreAsk q n).onSp q n (fun p => { p with prods := p.prods ++ [(w4 l 0, p.a, w4 l 1)], f := p.f + 1 }))))
  else if p.ph = 5 then
    (match p.outs with
     | [] => store (out + 8 + 4 * (p.row + 1)) (bytesOf p.total 4) (fun s => .ok 0 (s.onSp q n (fun p => { p with ph := 2, row := p.row + 1 })))
     | (j, v) :: r => store (ents + 8 * p.total) (bytesOf j 4 ++ bytesOf v 4) (fun s =>
         .ok 0 (s.onSp q n (fun p => { p with outs := r, total := p.total + 1 }))))
  else store out (bytesOf p.row 4 ++ bytesOf p.total 4) (fun s => .ok 1 ((s.scramble q n).onSp q n (fun p => { p with ph := 7 })))

/-! ## Stream elements (R270-R274) -/

/-- The value of a stream element of a width code (R271). -/
def strmVal (ctl v : Nat) : Word := if ctl / 4 % 4 = 2 then (BitVec.ofNat 16 v).signExtend 32 else BitVec.ofNat 32 v

/-- An element enters the queue's entry; a full or last entry enters the iq (R270). -/
def State.iqElem (s : State) (q n i : Nat) (v : Word) : State :=
  let c := s.cmd q n
  let b := c.buf ++ [v]
  if b.length = 32 || decide (c.total ≤ c.elem + 1) then (s.modGroup (engKey q) (fun g => g.pushIq i b)).onCmd q n (fun c => { c with buf := [] })
  else s.onCmd q n (fun c => { c with buf := b })

/-- An iq takes another entry (R270). -/
def State.iqRoom (s : State) (q i : Nat) : Bool := decide ((Map.get [] (s.group (engKey q)).iq i).length < 16)

/-- STRM: one element (R271). -/
def strmElem (q n i : Nat) (s : State) : Ans Nat :=
  let c := s.cmd q n
  let a := strmAddr c.args c.elem
  let w := strmWidth (c.arg 3)
  if !s.iqRoom q i then .wait s
  else
    (eAlign a w s).bind fun _ s => (eLoads q n (c.arg 3 % 4) 0 [(a, w)] s).bind fun _ s =>
      .ok 1 (s.iqElem q n i (strmVal (c.arg 3) (natOfBytes (s.held q n))))

/-- STRMT: one position of the box; one out of bounds delivers 0 (R272). -/
def strmtElem (q n i : Nat) (s : State) : Ans Nat :=
  let c := s.cmd q n
  if !s.iqRoom q i then .wait s
  else
    match c.src with
    | none => .trap wordTrap s
    | some o =>
      match s.tensor (s.engPart q) o.tid with
      | none => .trap confTrap s
      | some d =>
        let pos := addCoord o.c (boxPos ((c.box.map (·.2)).getD []) c.elem)
        if !inBounds d pos then .ok 1 (s.iqElem q n i 0)
        else (eTenLoad q n o.cls 0 d o.tid pos s).bind fun _ s => .ok 1 (s.iqElem q n i (BitVec.ofNat 32 (natOfBytes (s.held q n))))

/-- OSTRM: one element, from its position of the entry at the head of the oq (R273). -/
def ostrmElem (q n i : Nat) (s : State) : Ans Nat :=
  let c := s.cmd q n
  let a := strmAddr c.args c.elem
  let w := strmWidth (c.arg 3)
  match Map.get [] (s.group (engKey q)).oq i with
  | [] => .wait s
  | e :: r =>
    (eAlign a w s).bind fun _ s => (eStores q n (c.arg 3 % 4) 0 [(a, w)] (bytesOf (e.getD (c.elem % 32) 0).toNat w) s).bind fun _ s =>
      .ok 1 (if c.elem % 32 = 31 || decide (c.total ≤ c.elem + 1) then s.modGroup (engKey q) (fun g => { g with oq := Map.put g.oq i r }) else s)

/-- THE NEXT ELEMENT OF A COMMAND. -/
def cmdElem (q n : Nat) (s : State) : Ans Nat :=
  match (s.cmd q n).kind with
  | .accst b f => accstElem q n b f s
  | .accld b f => accldElem q n b f s
  | .accclr b => accclrElem q n b s
  | .spgemm => spElem q n s
  | .cpy => cpyElem q n s
  | .zero => zeroElem q n s
  | .bloadb => bloadbElem q n s
  | .xch => xchElem q n s
  | .tcpy => tcpyElem q n s
  | .tgath w => sliceElem q n false w s
  | .tscat w => sliceElem q n true w s
  | .slred => slredElem q n s
  | .strm i => strmElem q n i s
  | .strmt i => strmtElem q n i s
  | .ostrm i => ostrmElem q n i s
  | .rvtab => rvtabElem q n s
  | .reval b => revalElem q n b s

end Sys2Proof.Machine
end

