-- ==== Sys2Proof/Machine/Commands.lean ====
section
/-! DEFINITION. The engines' own steps: whose turn it is, the script fetcher, the start, progress, fault and completion of commands,
markers and streams (spec/07 R171; spec/10 R243-R245, R251, R263, R268-R275). -/

namespace Sys2Proof.Machine

/-! ## Turns (R243) -/

/-- The queue of participant i of engine e of a hearth: contexts 0-3, then the copy record of a copy engine. -/
def engPlace (h e i : Nat) : Option Nat :=
  if i < 4 then (if h < 1000 then some (qkey h i e) else none)
  else if e = 1 then some (if h < 1000 then crecKey (64 * (h / 48) + h % 48) else crecKey (h - 1000))
  else none

/-- A participant whose queue holds words and may go on. -/
def State.engReady (s : State) (h e i : Nat) : Bool :=
  match engPlace h e i with
  | some q => !(s.eng q).words.isEmpty && s.engFree q
  | none => false

/-- The participant that has the turn: the one noted, or the next after it that holds words; an empty queue is passed over. -/
def State.turnOf (s : State) (h e : Nat) : Option Nat :=
  let me := Map.get 0 (s.hearth h).turn e
  match ((natsFrom 0 5).map (fun i => (me + i) % 5)).find? (s.engReady h e) with
  | some i => engPlace h e i
  | none => none

/-- The engine that an engine word belongs to: 0 matrix, 1 copy, 2 stream, 3 rule, 4 every engine (R148). -/
def engineOf : Instr → Option Nat
  | .litPush _ => some 4 | .litContinue _ => some 4 | .engineNop => some 4 | .dup => some 4 | .drop => some 4 | .swap => some 4
  | .over => some 4 | .neg => some 4 | .shli _ => some 4 | .add => some 4 | .gccp _ => some 4 | .post _ => some 4 | .arrive _ => some 4
  | .mode _ _ => some 4 | .efenceWord => some 4
  | .accst _ _ => some 0 | .accld _ _ => some 0 | .accclr _ => some 0 | .vmode _ => some 0 | .spgemm => some 0 | .fibre => some 0
  | .cpy => some 1 | .srct => some 1 | .dstt => some 1 | .box _ => some 1 | .tcpy => some 1 | .tgath _ => some 1 | .tscat _ => some 1
  | .bloadb => some 1 | .slred => some 1 | .zero => some 1 | .xch => some 1
  | .strm _ => some 2 | .strmt _ => some 2 | .ostrm _ => some 2 | .scloseIq _ => some 2 | .scloseOq _ => some 2
  | .rvtab => some 3 | .rxin _ => some 3 | .rprog => some 3 | .ryout => some 3 | .rdlim _ => some 3 | .reval _ => some 3
  | _ => none

/-- A word that its engine takes: assigned to it, argument valid (R149). -/
def engTakes (q : Nat) (w : BitVec 16) : Option Instr :=
  match decodeEngine w with
  | .ok i => (match engineOf i with | some e => if e = 4 || e = engCode q then some i else none | none => none)
  | .error _ => none

/-- The meaning of an engine word. -/
def engRun (i : Instr) (s : State) : Res :=
  match i with
  | .litPush i => execLitPush i s | .litContinue i => execLitContinue i s | .engineNop => execEngineNop s
  | .dup => execDup s | .drop => execDrop s | .swap => execSwap s | .over => execOver s | .neg => execNeg s
  | .shli n => execShli n s | .add => execAdd s | .gccp n => execGccp n s | .post n => execPost n s | .arrive n => execArrive n s
  | .mode r z => execMode r z s | .efenceWord => execEfenceWord s
  | .accst b f => execAccst b f s | .accld b f => execAccld b f s | .accclr b => execAccclr b s | .vmode o => execVmode o s
  | .spgemm => execSpgemm s | .fibre => execFibre s
  | .cpy => execCpy s | .srct => execSrct s | .dstt => execDstt s | .box d => execBox d s | .tcpy => execTcpy s
  | .tgath w => execTgath w s | .tscat w => execTscat w s | .bloadb => execBloadb s | .slred => execSlred s | .zero => execZero s
  | .xch => execXch s | .strm q => execStrm q s | .strmt q => execStrmt q s | .ostrm q => execOstrm q s
  | .scloseIq q => execScloseIq q s | .scloseOq q => execScloseOq q s
  | .rvtab => execRvtab s | .rxin f => execRxin f s | .rprog => execRprog s | .ryout => execRyout s | .rdlim d => execRdlim d s
  | .reval b => execReval b s
  | _ => .next s

/-- Words of one queue, up to and including its next launch word, or every word present (R243): a launch word leaves one command
more. -/
def State.takeWords (s : State) (q : Nat) : Nat → State
  | 0 => s
  | f + 1 =>
    match (s.eng q).words with
    | [] => s
    | w :: _ =>
      if !s.engFree q then s
      else
        match engTakes q w.w with
        | none => s.badWord q
        | some i =>
          let n := (s.eng q).nextCmd
          let left := (s.eng q).words.length
          match engRun i s with
          | .next t =>
            -- a word that waits stays at the head, and a launch word ends the turn
            if (t.eng q).words.length = left || (t.eng q).nextCmd != n then t else t.takeWords q f
          | _ => s

/-- ENGINE_TURN: the engine takes words from the next queue that holds words, up to its next launch word (R243). -/
def execEngineTurn (h e : Nat) (s : State) : Res :=
  match s.turnOf h e with
  | none => .next s
  | some q =>
    let s := { s with focus := { h := h, t := e, q := q } }
    let t := s.takeWords q (s.eng q).words.length
    .next (if (t.eng q).words.isEmpty && (t.eng q).nextCmd == (s.eng q).nextCmd then t.passTurn q else t)

/-! ## The script fetcher (R171) -/

/-- SCRIPT_FETCH_APPEND: the next word of the script enters the queue while it has room (R169, R171). -/
def execScriptFetchAppend (q : Nat) (s : State) : Res :=
  let e := s.eng q
  let h := engHearth q
  match e.fetch with
  | none => .next s
  | some (a, n, pc, ip) =>
    if n = 0 && !e.fetchHead then .next (s.modEng q (fun e => { e with fetch := none }))
    else if 128 ≤ e.words.length || e.fetchFault.isSome || !s.engFree q then .next s
    else
      match e.fetchXf with
      | some f => .next ((s.modEng q (fun e => { e with fetchXf := none })).engFail q pc (.script q) { cause := f.cause, sub := f.sub, d8 := f.va })
      | none =>
        match s.reach h (s.engPart q) a .read with
        | .bad c u => .next (s.engFail q pc (.script q) { cause := c, sub := u, d8 := a })
        | .miss =>
          if e.fetchWalking then .next s
          else .next ((s.askWalk h (s.engPart q) a .read (.script q)).modEng q (fun e => { e with fetchWalking := true }))
        | .ok t =>
          let p := s.engPart q
          match s.fetched h t (if e.fetchHead then 4 else 2) with
          | .absent t => .next (s.askLine h p (engCtx q) t)
          | .bad c u => .next ((s.dropLines h p).engFail q pc (.script q) { cause := c, sub := u, d8 := a })
          | .ok v =>
            let s := (s.dropLines h p).touchTgt t
            if e.fetchHead then
              -- the header of a copy record's script (R26, R150)
              if badScript a v then .next (s.engFail q pc (.script q) { wordTrap with d8 := engPos e.taken 0 })
              else .next (s.modEng q (fun e => { e with fetchHead := false, fetch := some (a + 4, v % 2 ^ 16, pc, ip) }))
            else
              .next (s.modEng q (fun e => { e with
                words := e.words ++ [{ w := BitVec.ofNat 16 v, pc := pc, ipos := ip }], fetch := if n = 1 then none else some (a + 2, n - 1, pc, ip) }))

/-! ## Start (R243, R263, R275) -/

/-- A command waits behind an EFENCE in front of it while a command ahead of the EFENCE has not completed (R172). -/
def fenced (cmds : Map Cmd) (n : Nat) : List Item → Bool → Bool → Bool
  | [], _, _ => false
  | .cmd m :: r, ahead, f => if m = n then f else fenced cmds n r (ahead || !(Map.get {} cmds m).done) f
  | .fence :: r, ahead, f => fenced cmds n r ahead (f || ahead)
  | _ :: r, ahead, f => fenced cmds n r ahead f

/-- A command of a queue that may start: its task runs, and no EFENCE holds it. -/
def State.startable (s : State) (q n : Nat) : Bool :=
  let c := s.cmd q n
  c.pending && !c.started && s.engLive q && !fenced (s.eng q).cmds n (s.eng q).items false false

/-- A command starts: it has launched, and is bound to the active sets of the shadowed tensors (R73, R263). -/
def State.startCmd (s : State) (q n : Nat) : State :=
  let p := s.engPart q
  let sets := (s.part p).shadow.map (fun (t, _) => (t, s.activeSet p t))
  let pts := ((s.part p).shadow.map (fun (t, _) => s.pubPts p t)).foldl max 0
  s.onCmd q n (fun c => { c with started := true, sets := sets, since := s.gcc, startAt := s.gcc + 1, setPts := pts })

/-- A started command still runs. -/
def Cmd.running (c : Cmd) : Bool := c.started && c.pending

/-- COPY_COMMAND_START: of the eligible commands the one with the least not-before time, then the first decoded, while fewer than
four run (R263). -/
def execCopyCommandStart (e : Nat) (s : State) : Res :=
  let l := s.copyCmds (engHearth (crecKey e))
  if 4 ≤ (l.filter (fun c => c.2.2.running)).length then .next s
  else
    let ok := l.filter (fun (q, n, c) => decide (c.t ≤ s.gcc) && s.startable q n)
    let less (a b : Nat × Nat × Cmd) : Bool := decide (a.2.2.t < b.2.2.t) || (a.2.2.t == b.2.2.t && decide (a.2.2.no < b.2.2.no))
    match ok with
    | [] => .next s
    | c0 :: r =>
      let (q, n, _) := r.foldl (fun a b => if less b a then b else a) c0
      .next (s.startCmd q n)

/-- The commands of the same engine of a hearth's four tasks. -/
def State.sameEngine (s : State) (q : Nat) : List (Nat × Nat × Cmd) :=
  ((natsFrom 0 4).map (fun c =>
    let k := qkey (engHearth q) c (engCode q)
    (s.eng k).cmds.map (fun (n, m) => (k, n, m)))).flatten

/-- A matrix or rule command starts in decode order once none runs on the engine; commands of stopped tasks are passed over
(R243). -/
def State.inOrder (s : State) (q n : Nat) : Bool :=
  let l := s.sameEngine q
  !l.any (fun (_, _, m) => m.running) && s.startable q n
    && !l.any (fun (k, _, m) => m.pending && s.engLive k && decide (m.no < (s.cmd q n).no))

/-- The kind of a stream command and its queue number. -/
def CmdK.stream : CmdK → Option (Bool × Nat)
  | .strm i => some (false, i)
  | .strmt i => some (false, i)
  | .ostrm i => some (true, i)
  | _ => none

/-- STREAM_OPEN: the next stream named on a queue opens once the one before it on that queue has completed; one with no element
completes at once (R243, R272, R275). -/
def execStreamOpen (q n : Nat) (s : State) : Res :=
  let c := s.cmd q n
  match c.kind.stream with
  | none => .next s
  | some k =>
    let before := (s.eng q).cmds.any (fun (m, d) => decide (m < n) && d.pending && d.kind.stream == some k)
    if before || !s.startable q n then .next s
    else
      let s := s.startCmd q n
      .next (if c.total = 0 then (s.onCmd q n (fun c => { c with done := true })).settleQueue q else s)

/-! ## Progress -/

/-- The number of elements of a command; 0 elements complete at once (R243). -/
def State.cmdTotal (s : State) (q : Nat) (c : Cmd) : Nat :=
  let rpt := boolNat ((c.dst.map (·.rpt)).getD false)
  let desc := match c.src with | some o => (s.tensor (s.engPart q) o.tid).getD {} | none => {}
  match c.kind with
  | .cpy => (sizeOf' (c.arg 2)).1
  | .zero => (sizeOf' (c.arg 1)).1
  | .bloadb => (sizeOf' (c.arg 2)).1
  | .xch => (sizeOf' (c.arg 2)).1
  | .tcpy => (boxExt c desc).foldl (· * ·) 1 + rpt
  | .tgath _ => c.arg 1 * slicePos c desc + rpt
  | .tscat _ => c.arg 1 * slicePos c desc + rpt
  | .slred => (sizeOf' (c.arg 1)).1 / 8 + 2
  | _ => c.total

/-- A command starts with the number of its positions noted: tensor commands count them, a report element follows (R266-R268). -/
def State.sizeCmd (s : State) (q n : Nat) : State :=
  let c := s.cmd q n
  let rpt := boolNat ((c.dst.map (·.rpt)).getD false)
  match c.kind with
  | .tcpy => s.onCmd q n (fun d => { d with total := s.cmdTotal q c - rpt })
  | .tgath _ => s.onCmd q n (fun d => { d with total := s.cmdTotal q c - rpt })
  | .tscat _ => s.onCmd q n (fun d => { d with total := s.cmdTotal q c - rpt })
  | _ => s

/-- An element has been made: its stages end and k elements are counted. -/
def State.elemDone (s : State) (q n k : Nat) : State :=
  s.onCmd q n (fun c => { c with elem := c.elem + k, part := 0, hold := [], xact := {}, since := s.gcc })

/-- A command completes: its flags reach %fflags, an accumulator bank's version rises, what waits behind it is settled
(R72, R87, R251). -/
def State.completeCmd (s : State) (q n : Nat) : State :=
  let c := s.cmd q n
  -- a result that is due by now comes first, so that an OR of the same cycle is not lost (R87)
  let s := if q < 4096 then (s.settleGroup (engHearth q) (engCtx q)).modGroup (engKey q) (fun g =>
      let g := { g with fflags := g.fflags ||| c.flags }
      match c.kind with
      | .accld b _ => g.bump b
      | .accclr b => g.bump b
      | _ => g)
    else s
  (s.onCmd q n (fun c => { c with done := true })).settleQueue q

/-- The task or copy record of a queue lets started commands run on: also while it is stopped for a debugger, a trap or a
pre-emption, but not while it is killed (R330, R412, R419, R421). -/
def State.cmdGo (s : State) (q : Nat) : Bool :=
  if q < 4096 then (let t := (s.ctx (engKey q)).st; t == .running || t == .stopping) else (s.eng q).crec.isSome

/-- A started command that can try its next element. -/
def State.cmdTry (s : State) (q n : Nat) : Bool :=
  let c := s.cmd q n
  c.running && c.fault.isNone && s.cmdGo q
    && (c.kind.stream.isNone || decide (4096 ≤ q) || (s.ctx (engKey q)).st == .running)

/-- Every element of a command has been made. -/
def State.allMade (s : State) (q n : Nat) : Bool :=
  let c := s.cmd q n
  if c.kind == .spgemm then c.sp.ph == 7 else decide (s.cmdTotal q c ≤ c.elem)

/-- The completion of a command that has accessed host or peer memory is a release at S scope: it waits until pts + 8 ≤ the local GCC (R65, R72,
R379). -/
def State.relReady (s : State) (q n : Nat) : Bool := !(s.cmd q n).ext || decide ((s.eng q).pts + 8 ≤ s.localGcc (engHearth q))

/-- A command whose elements have all been made completes when it may. -/
def State.endCmd (s : State) (q n : Nat) : State := if s.relReady q n then s.completeCmd q n else s

/-- ENGINE_COMMAND_COMPLETE: a command makes its next element, and completes once the last is made (R72, R245). -/
def execEngineCommandComplete (q n : Nat) (s : State) : Res :=
  let c := s.cmd q n
  let s := if !c.started && engCode q != 1 && c.kind.stream.isNone && s.inOrder q n then s.startCmd q n else s
  if !s.cmdTry q n || c.kind.stream.isSome then .next s
  else
    let s := s.sizeCmd q n
    if s.allMade q n then .next (s.endCmd q n)
    else
      match cmdElem q n s with
      | .ok k s =>
        let s := s.elemDone q n k
        .next (if s.allMade q n then s.endCmd q n else s)
      | .wait s => .next s
      | .trap _ _ => .next s

/-- STREAM_ELEMENT: an open stream delivers or stores its next element; after the last the command completes (R271-R275). -/
def execStreamElement (q n : Nat) (s : State) : Res :=
  let c := s.cmd q n
  if !s.cmdTry q n || c.kind.stream.isNone then .next s
  else if c.total ≤ c.elem then .next (s.endCmd q n)
  else
    match cmdElem q n s with
    | .ok k s =>
      let s := s.elemDone q n k
      let c := s.cmd q n
      .next (if c.total ≤ c.elem then s.endCmd q n else s)
    | .wait s => .next s
    | .trap _ _ => .next s

/-- A command parks on a replayable fault (R245, R366). -/
def State.parkCmd (s : State) (q n : Nat) (i : Trap) : State :=
  let f := ((s.cmd q n).nopage).getD { va := i.d8 }
  let (h, c) := if q < 4096 then (engHearth q, engCtx q) else (q - 4096, 0)
  let (s, tok) := s.parkFault (s.engPart q) h c (2 + engCode q) (.cmd q n) f.va i.d9 f.level f.reason f.tid f.tile
  s.onCmd q n (fun c => { c with fault := some tok, nopage := none, walking := false })

/-- The flags that a command has raised before a trap ends it reach %fflags as the trap is recorded (R288); a copy record has no
%fflags (R27). -/
def State.trapFlags (s : State) (q n : Nat) : State :=
  if q < 4096 then (s.settleGroup (engHearth q) (engCtx q)).modGroup (engKey q) (fun g => { g with fflags := g.fflags ||| (s.cmd q n).flags }) else s

/-- COMMAND_ELEMENT_FAULT: the element at which a command stands fails a check: it suspends at a page that is not valid, or ends
there with a trap (R245). -/
def execCommandElementFault (q n : Nat) (s : State) : Res :=
  let s := if s.cmdTry q n then s.sizeCmd q n else s
  if !s.cmdTry q n || s.allMade q n then .next s
  else
    match cmdElem q n s with
    | .trap i s =>
      if i.cause = 0x0B then .next (s.parkCmd q n i)
      else
        let pc := (s.cmd q n).pc
        let known := (Map.find? (s.part (s.engPart q)).trees ((s.cmd q n).arg 2)).isSome
        let s := if known then s.leafFail q n else s
        .next (((s.trapFlags q n).onCmd q n (fun c => { c with dead := true })).engFail q pc (.cmd q n) i)
    | _ => .next s

/-- MARKER_PERFORM: the markers of a queue that nothing is ahead of are performed (R244). -/
def execMarkerPerform (q : Nat) (s : State) : Res := .next (s.settleQueue q)

end Sys2Proof.Machine
end

