-- ==== Sys2Proof/Machine/Turns.lean ====
section
/-! DEFINITION. What a turn of the schedule does: which instruction or word an agent is about to execute, and on which state
(spec/07 R145, R158, R333; spec/06 R138, R149; spec/10 R243). -/

namespace Sys2Proof.Machine

/-- A turn runs an instruction, or has been made. -/
inductive Act where
  | run (i : Instr) (s : State)
  | done (s : State)

/-! ## Control threads -/

/-- A thread stands inside an instruction that does not wait: a halt lets it reach the boundary (R330). -/
def Thread.midway (th : Thread) : Bool := th.wait.isNone && (th.part != 0 || th.xact.bound.isSome)

/-- A thread may execute: it runs, holds no fault, and its context is neither stopped, trapped nor halted; of one that is stopping or about
to halt it goes on to the next instruction boundary (R330, R366, R412, R419). -/
def State.threadFree (s : State) (h t : Nat) : Bool :=
  let th := s.thread (tkey h t)
  let x := s.ctx (ckey h th.ctx)
  th.st == .running && th.fault.isNone && (x.st == .running || (x.st == .stopping && th.midway)) && !x.stopped s.gcc 0 && !x.halted
    && (!x.haltReq || th.midway)

/-- The first BPPC comparator that is not suppressed and that matches the instruction at a thread's pc (R333). -/
def State.bppcHit (s : State) (h t : Nat) : Option Nat :=
  let th := s.thread (tkey h t)
  (natsFrom 0 4).find? (fun i => !th.suppress.contains (8 + i) &&
    let w := s.dbg (s.ctx (ckey h th.ctx)).part h (0x40 + 8 * i)
    bitOf w 63 && bitOf w (59 + th.ctx) && bitsOf w 51 2 == bitsOf th.pc.toNat 51 2)

/-- A halfword of the instruction stream. -/
def fetchHalf (va : Nat) (s : State) : Ans (BitVec 16) :=
  (ccXlate va .fetch s).bind fun t s =>
    match s.fetched s.focus.h t 2 with
    | .ok v => .ok (BitVec.ofNat 16 v) (s.touchTgt t)
    | .absent t => .wait (s.askLine s.focus.h s.cx.part s.th.ctx t)
    | .bad c u => .trap (trapVa c u va) (s.dropLines s.focus.h s.cx.part)

/-- Fetch the instruction at the executing thread's pc: a 16-bit form is read alone (R145, R151, R153). -/
def ccFetch (s : State) : Ans Nat :=
  let pc := s.th.pc.toNat
  (fetchHalf pc s).bind fun lo s =>
    if isCompressed lo then .ok lo.toNat s
    else (fetchHalf ((pc + 2) % 2 ^ 64) s).bind fun hi s => .ok (lo.toNat + 2 ^ 16 * hi.toNat) s

/-- Decode an instruction as fetched, with its length (R145). -/
def ccDecode (w : Nat) : Instr × Nat := decodeCcAt (BitVec.ofNat 16 w) (BitVec.ofNat 16 (w / 2 ^ 16))

/-- An instruction of a thread has begun: it has been fetched. -/
def Thread.begun (th : Thread) : Bool := th.held || th.wait.isSome || th.part != 0 || th.xact.bound.isSome

/-- A split of a higher slot has acted in the present cycle: this one comes in the next, so that the operations of one cycle are ordered by
slot (R159, R339). -/
def State.slotPassed (s : State) (h t : Nat) : Bool :=
  let th := s.thread (tkey h t)
  let x := s.ctx (ckey h th.ctx)
  x.slotAt.1 == s.gcc + 1 && decide (th.slot < x.slotAt.2)

/-- The lane word due in the present cycle is a TMARK of a lower slot in a traced task: its packet goes first (R339). -/
def State.markFirst (s : State) (h t : Nat) : Bool :=
  let th := s.thread (tkey h t)
  let k := ckey h th.ctx
  (s.ctx k).trace.on && (match (s.group k).blk with
    | some b => b.inPass && !b.fin && decide (b.slot < th.slot) && decide ((s.group k).nextIssue ≤ s.cycle h)
        && (match decodeLane (b.body.getD b.w 0) with | .ok (.tmarkLane ..) => true | _ => false)
    | none => false)

/-- A turn of a thread: its slot has acted in the present cycle; an instruction tried for the first time may wait from now on (R418). -/
def State.enter (s : State) (h t : Nat) : State :=
  let s := { s with focus := { h := h, t := t, len := 4 } }
  (s.onTh (fun th => { th with since := if th.since = 0 then s.gcc + 1 else th.since })).onCx (fun x => { x with slotAt := (s.gcc + 1, s.th.slot) })

/-- The next instruction of a control thread, at an edge of its hearth's clock: one that has begun goes on as it was fetched. -/
def ccTurn (h t : Nat) (s : State) : Act :=
  if !s.threadFree h t || !s.atEdge h || s.slotPassed h t || s.markFirst h t then .done s
  else
    let s := s.enter h t
    let run (w : Nat) (s : State) : Act := .run (ccDecode w).1 { s with focus := { h := h, t := t, len := (ccDecode w).2 } }
    if s.th.begun then run s.th.ir s
    else
      match s.bppcHit h t with
      | some j => .done (s.trapCc h t { cause := 0x17, sub := 1, d8 := j })
      | none =>
        match ccFetch s with
        | .ok w s => run w ((s.dropLines h s.cx.part).onTh (fun th => { th with ir := w, held := true, ys := s.cx.yscope, yb := s.cx.ybbase }))
        | .wait s => .done s
        | .trap i s => .done (s.trapCc h t i)

/-! ## Lane groups -/

/-- A group's context lets it issue: a word of the pass that it has begun, also while it is stopping or about to halt, and the
pass of a debug step (R330, R332, R412, R419). -/
def State.groupIssues (s : State) (h g : Nat) : Bool :=
  let x := s.ctx (ckey h g)
  (x.st == .running || x.st == .stopping) && !x.stopped s.gcc 1 && (s.group (ckey h g)).fault.isNone

/-- The next word of a lane group (R41, R138). -/
def laneTurn (h g : Nat) (s : State) : Act :=
  match (s.group (ckey h g)).blk with
  | none => .done s
  | some b =>
    if !b.inPass || !s.groupIssues h g || !s.atEdge h then .done s
    else
      let w := b.body.getD b.w 0
      let s := { s with focus := { h := h, t := g } }
      match decodeLane w with
      | .ok i => .run i s
      | .error _ => .run (.unassignedLaneOpcode w) s

/-! ## Engines -/

/-- The next word of an engine: that of the queue whose turn it is; the turn passes with a queue's last word (R243). -/
def engineTurn (h e : Nat) (s : State) : Act :=
  if !s.atEdge h then .done s
  else
  match s.turnOf h e with
  | none => .done s
  | some q =>
    match (s.eng q).words with
    | [] => .done s
    | w :: r =>
      let s := { s with focus := { h := h, t := e, q := q } }
      match engTakes q w.w with
      | some i => .run i (if r.isEmpty then s.passTurn q else s)
      | none => .done (s.badWord q)

end Sys2Proof.Machine
end

