-- ==== Sys2Proof/Machine/Clock.lean ====
section
/-! DEFINITION. Clock steps and re-sync instants (spec/18 R370, R371; spec/01 R18; spec/23 R451). -/

namespace Sys2Proof.Machine

/-! ## Re-sync instants (R18, R370, R371, R451) -/

/-- The step that a partition's PSTEP registers ask of a hearth (R400). -/
def State.pstep (s : State) (p h : Nat) : Nat := bitsOf (s.preg p (0x210 + 8 * (h / 32))) (2 * (h % 32) + 1) (2 * (h % 32))

/-- The throttle ceiling of a die as a step code: the power limit's, and 0.8 GHz while it is hot (R451, R452). -/
def State.ceiling (s : State) (d : Nat) : Nat := max (s.die d).throttle (if (s.die d).hot then 2 else 0)

/-- Bytes of the selected configuration record as a number (R423). -/
def State.recNum (s : State) (o n : Nat) : Nat := natOfBytes (sliceOf s.boot.record o n)

/-- Step s is disabled on a die: its VBIN code is 0 (R423, R424). -/
def State.stepOff (s : State) (d step : Nat) : Bool := s.recNum (48 + 4 * d + step) 1 == 0

/-- The step of a hearth that its partition asks for; a hearth of no partition runs at 1.6 GHz. -/
def State.ownStep (s : State) (h : Nat) : Nat := match s.partOfHearth h with | some p => s.pstep p h | none => 0

/-- The fastest enabled step of a die that is not above a ceiling; where the ceiling and all below it are disabled, the slowest that is enabled: no
disabled step is chosen for a hearth (R424, R451; notes/assumptions/115). -/
def State.stepUnder (s : State) (d c : Nat) : Nat :=
  match (natsFrom c (4 - c)).find? (fun k => !s.stepOff d k) with
  | some k => k
  | none => ((natsFrom 0 c).reverse.find? (fun k => !s.stepOff d k)).getD 0

/-- The step that a hearth is to run at: its partition's, or the ceiling where that is lower (R18, R451). -/
def State.stepWanted (s : State) (h : Nat) : Nat :=
  if s.ceiling (h / 48) ≤ s.ownStep h then s.ownStep h else max (s.ownStep h) (s.stepUnder (h / 48) (s.ceiling (h / 48)))

/-- A partition with hearths on a die has a transfer phase open (R451). -/
def State.diePhase (s : State) (d : Nat) : Bool :=
  s.chans.any (fun (_, c) => c.inPhase && (match c.part with
    | some p => decide (0 < (s.part p).hset / 2 ^ (48 * d) % 2 ^ 48)
    | none => false))

/-- A change of a hearth's step is due: at a re-sync instant, once no transfer phase of its partition is open, nor any on the die where a
ceiling comes or goes (R18, R451). -/
def State.stepDue (s : State) (h : Nat) : Bool :=
  s.gcc % 1024 == 0 && s.stepWanted h != (s.hearth h).step
    && !(match s.partOfHearth h with | some p => s.phaseOpen p | none => false)
    && !((decide (s.ownStep h < s.stepWanted h) || (s.hearth h).capped) && s.diePhase (h / 48))

/-- Something that the spec places at this re-sync instant is still to be made: a correction of the taps, a change of step. -/
def State.resyncDue (s : State) : Bool :=
  s.gcc % 1024 == 0 && (s.dies.any (fun (_, d) => d.gccLag != 0) || (natsFrom 0 192).any s.stepDue)

end Sys2Proof.Machine
end

