-- ==== Sys2Proof/Machine/Images.lean ====
section
/-! DEFINITION. Context images: what a pre-emption writes to its slot and what a restore reads (spec/20 R412-R415). The areas of
R413 are written to and read from device memory; what the spec names no place for is kept beside the slot (notes/assumptions/10). -/

namespace Sys2Proof.Machine

/-- Address of image slot n of a partition (R413). -/
def State.imgAddr (s : State) (p n : Nat) : Nat := bitsOf (s.preg p 0x168) 51 16 * 65536 + 0x440000 * n

/-- Write several numbers of n bytes each, one behind another. -/
def State.setNums (s : State) (a n : Nat) : List Nat → State
  | [] => s
  | v :: r => (s.hwNum a n v).setNums (a + n) n r

/-- The 128 bytes of an element of a lane queue. -/
def elemBytes (e : List Word) : List Byte := ((natsFrom 0 32).map (fun l => bytesOf (e.getD l 0).toNat 4)).flatten

/-- Write the elements of a queue to its 2 KiB. -/
def State.setElems (s : State) (a : Nat) : List (List Word) → State
  | [] => s
  | e :: r => (s.hwBytes a (elemBytes e)).setElems (a + 128) r

/-- Read n elements of a queue. -/
def State.getElems (s : State) (a : Nat) : Nat → List (List Word)
  | 0 => []
  | n + 1 => (natsFrom 0 32).map (fun l => BitVec.ofNat 32 (s.num (a + 4 * l) 4)) :: s.getElems (a + 128) n

/-- The 1 KiB of a physical chunk (R413). -/
def Group.chunkBytes (g : Group) (ch : Nat) : List Byte :=
  ((natsFrom 0 256).map (fun i => bytesOf (g.vAt (8 * ch + i / 32) (i % 32)).toNat 4)).flatten

/-- The 128 bytes of an accumulator row. -/
def Group.rowBytes (g : Group) (i : Nat) : List Byte :=
  ((natsFrom 0 32).map (fun c => bytesOf (g.accAt (i / 32) (i % 32) c) 4)).flatten

/-- The numbers below n whose bits are set. -/
def bitsSet (m n : Nat) : List Nat := (natsFrom 0 n).filter (fun i => m.testBit i)

/-! ### The fields of an image below 0x6000

R413 gives the areas and what each holds; the order and the widths within an area are the model's (DESIGN CHOICE, notes/assumptions/10). A field is
an offset in the slot, a width in bytes and a value. -/

/-- Eight-byte fields one behind another. -/
def fields8 : Nat → List Nat → List (Nat × Nat × Nat)
  | _, [] => []
  | o, v :: r => (o, 8, v) :: fields8 (o + 8) r

/-- Numbers of `w` bits packed with the first lowest. -/
def packBits (w : Nat) (l : List Nat) : Nat := l.foldr (fun v a => a * 2 ^ w + v % 2 ^ w) 0

/-- Tokens of the faults on which a context's agents are parked (R366). -/
def State.ctxTokens (s : State) (h c : Nat) : List Nat :=
  (s.liveThreads h c).filterMap (fun t => (s.thread (tkey h t)).fault) ++ (s.group (ckey h c)).fault.toList
    ++ ((natsFrom 0 4).map (fun e => (s.eng (qkey h c e)).fetchFault.toList
      ++ (s.eng (qkey h c e)).cmds.filterMap (fun (q : Nat × Cmd) => q.2.fault))).flatten

/-- Header: record, hearth, dispatch, image count, live slots, block position, window, exited set, flags, versions, VMODE, RDLIM, tokens. -/
def State.imgHead (s : State) (h c : Nat) : List (Nat × Nat × Nat) :=
  let x := s.ctx (ckey h c)
  let g := s.group (ckey h c)
  let b := g.blk.getD {}
  let live := (s.liveThreads h c).foldl (fun a t => a ||| 2 ^ (s.thread (tkey h t)).slot) 0
  fields8 0 ([x.task.addr, h, x.disp, x.images + 1, live, b.seq, b.k, b.w, b.n, b.tab.s, boolNat b.inPass, g.wa, g.lo, g.exited.toNat, g.fflags,
    packBits 16 ((natsFrom 0 4).map g.verOf), boolNat (s.eng (qkey h c 0)).vmode, (s.eng (qkey h c 2)).rdlim] ++ (s.ctxTokens h c).take 14)

/-- The place of split slot j, and the fields of its thread: x1-x31, PC, mask, signature, cycle, instret, state. -/
def slotAt (j : Nat) : Nat := 0x100 + 0x200 * j

/-- The state of a thread as its slot has it. -/
def ThSt.code : ThSt → Nat
  | .free => 0 | .running => 1 | .parked => 2

/-- The fields of a split. -/
def State.imgSplit (s : State) (h t : Nat) : List (Nat × Nat × Nat) :=
  let th := s.thread (tkey h t)
  fields8 (slotAt th.slot) ((natsFrom 1 31).map (fun i => (Map.get 0 th.x i).toNat)
    ++ [th.pc.toNat, th.mask.toNat, th.sig, s.cycle h % 2 ^ 64, th.instret % 2 ^ 64, th.st.code])

/-- Open merges, 24 bytes each; the signatures of the stack's entries; ybbase, yxwin, the window's halves, and generations, yscope and depth. -/
def State.imgOpen (s : State) (h c : Nat) : List (Nat × Nat × Nat) :=
  let x := s.ctx (ckey h c)
  let m (q : Merge) : List Nat := [q.pc, q.sig, q.mask.toNat + 2 ^ 32 * q.parked.foldl (fun a t => a ||| 2 ^ (s.thread (tkey h t)).slot) 0]
  let half : Nat := match (s.hearth h).xwin with | some w => if w.ctx = c then 2 + boolNat w.swapped else 0 | none => 0
  fields8 0x900 (((x.merges.take 4).map m).flatten) ++ fields8 0x960 (x.stackSigs.take 16)
    ++ fields8 0x9E0 [x.ybbase.toNat, x.yxwin.toNat, half,
      packBits 4 ((natsFrom 0 4).map (Map.get 0 x.gens)) + 2 ^ 16 * (x.yscope.toNat % 16) + 2 ^ 20 * x.depth]

/-- Engine words, 128 of two bytes for each queue; stacks, 16 elements for each engine, then its rounding mode, flush mode and depth. -/
def State.imgEngines (s : State) (h c : Nat) : List (Nat × Nat × Nat) :=
  ((natsFrom 0 4).map (fun e =>
    let q := s.eng (qkey h c e)
    ((q.words.take 128).zipIdx).map (fun (w, i) => (0x2200 + 256 * e + 2 * i, 2, w.w.toNat))
      ++ fields8 (0x2600 + 256 * e) ((q.stack.take 16).map BitVec.toNat)
      ++ fields8 (0x2680 + 256 * e) [q.rm, boolNat q.ftz, q.stack.length, q.fibre.1, q.fibre.2])).flatten

/-- Commands that have not started and open streams, 64 bytes each: position, sender's PC, progress, bytes, and operands. -/
def State.imgCmds (s : State) (h c : Nat) : List (Nat × Nat × Nat) :=
  let cs := ((natsFrom 0 4).map (fun e => (s.eng (qkey h c e)).cmds.map (·.2))).flatten
  let kept := cs.filter (fun m => !m.done && !m.dead && (!m.started || m.kind.stream.isSome))
  (((kept.take 64).zipIdx).map (fun (m, i) => fields8 (0x3000 + 64 * i) (([m.pos, m.pc, m.elem, m.count] ++ m.args).take 8))).flatten

/-- cmp0-cmp7; nb0-nb15, 8 bytes each; and the values in the receive buffers. -/
def State.imgSync (s : State) (h c : Nat) : List (Nat × Nat × Nat) :=
  let x := s.ctx (ckey h c)
  let nb (b : Nb) : Nat := packBits 12 [(match b.st with | .invalid => 0 | .armed => 1 | .draining => 2), b.e, b.a, b.i, b.p]
  fields8 0x4000 ((natsFrom 0 8).map (fun i => (BitVec.ofInt 64 (Map.get 0 x.cmp i)).toNat))
    ++ fields8 0x4040 ((natsFrom 0 16).map (fun i => nb (Map.get {} x.nb i)))
    ++ fields8 0x40C0 ((x.rx.filter (·.full)).take 8 |>.map (fun r => r.v.toNat))

/-- p1-p7, k0-k15, the performance counters. -/
def Group.imgRegs (g : Group) : List (Nat × Nat × Nat) :=
  (natsFrom 1 7).map (fun i => (0x4100 + 4 * (i - 1), 4, (Map.get 0 g.p i).toNat))
    ++ fields8 0x4120 ((natsFrom 0 16).map (fun i => (Map.get 0 g.k i).toNat))
    ++ fields8 0x41A0 ((natsFrom 0 16).map (fun i => (Map.get 0 g.perf i).toNat))

/-- Every field of an image of a context. -/
def State.imgFields (s : State) (h c : Nat) : List (Nat × Nat × Nat) :=
  s.imgHead h c ++ ((s.liveThreads h c).map (s.imgSplit h)).flatten ++ s.imgOpen h c ++ s.imgEngines h c ++ s.imgCmds h c ++ s.imgSync h c
    ++ (s.group (ckey h c)).imgRegs

/-- Write fields at an address. -/
def State.putFields (s : State) (a : Nat) (l : List (Nat × Nat × Nat)) : State := l.foldl (fun s f => s.hwNum (a + f.1) f.2.1 f.2.2) s

/-- WRITE AN IMAGE of a context to slot n: the fields and queues, then exactly the chunks, accumulator rows and scratchpad granules written since
the dispatch or the last restore, and the granule map of every image so far (R413, R414). -/
def State.writeImage (s : State) (h c n : Nat) : State :=
  let k := ckey h c
  let x := s.ctx k
  let g := s.group k
  let a := s.imgAddr x.part n
  let map := x.imgGran ++ x.wrGran.filter (fun q => !x.imgGran.contains q)
  let s := s.putFields a (s.imgFields h c)
  let s := s.setNums (a + 0x1000) 16 (x.bq.map (fun e => e.bits.toNat))
  let s := s.setNums (a + 0x2000) 8 (x.prq.map (fun e => e.w.toNat))
  let s := (natsFrom 0 8).foldl (fun s q => s.setElems (a + 0x6000 + 2048 * q) (Map.get [] g.iq q)) s
  let s := (natsFrom 0 4).foldl (fun s q => s.setElems (a + 0x6000 + 2048 * (8 + q)) (Map.get [] g.oq q)) s
  let s := (bitsSet g.wrAcc 128).foldl (fun s i => s.hwBytes (a + 0xC000 + 128 * i) (g.rowBytes i)) s
  let s := (bitsSet g.wrV 64).foldl (fun s ch => s.hwBytes (a + 0x10000 + 1024 * ch) (g.chunkBytes ch)) s
  let s := s.hwNum (a + 0x20000) 128 (map.foldl (fun m q => m ||| 2 ^ q) 0)
  let pad := (s.hearth h).pad
  let s := x.wrGran.foldl (fun s q =>
    s.hwBytes (a + 0x40000 + 4096 * q) ((natsFrom (4096 * q) 4096).map (fun i => Map.get 0 pad i))) s
  s.modCtx k (fun x => { x with imgGran := map, images := x.images + 1 })

/-- The instruction of a thread waits for a barrier or a counter, and restarts after an interruption (R158). -/
def Thread.restarts (th : Thread) : Bool := match th.wait with | some w => (w.kind == .nbwait && w.a == 0) || w.kind == .cmpwait | none => false

/-- A thread as its image keeps it: an instruction that waits for a barrier or a counter restarts (R158). -/
def Thread.saved (th : Thread) : Thread :=
  { th with wait := if th.restarts then none else th.wait, resv := none, xact := {}, walking := false, since := 0, held := false }

/-- A group as its image keeps it: a word that waits stalls afresh, unless its barrier has let it go. -/
def Group.saved (g : Group) : Group :=
  { g with winX := {}, wait := match g.wait with | some w => if w.kind == .nbwait && w.a == 1 then some w else none | none => none }

/-- The context as its image keeps it: barrier and counter waits restart. -/
def Ctx.saved (x : Ctx) : Ctx :=
  { x with signal := none, step1 := false, cmpQ := [], stackBy := none, slotAt := (0, 0), nb := x.nb.map (fun (n, b) => (n, { b with waiters := [] })) }

/-- Keep what the areas of the slot do not hold whole. -/
def State.keepImage (s : State) (h c n : Nat) : State :=
  let k := ckey h c
  let x := s.ctx k
  let im : Image := {
    h := h
    ctx := x.saved
    threads := (s.liveBySlot h c).map (fun t => (t, (s.thread (tkey h t)).saved))
    grp := (s.group k).saved
    engines := (natsFrom 0 4).map (fun e => s.eng (qkey h c e))
    xwin := (match (s.hearth h).xwin with | some w => if w.ctx = c then some w else none | none => none) }
  s.modPart x.part (fun q => { q with slots := Map.put q.slots n im })

/-- What remains of a context that holds no task: its epoch, its halt request, its trace ring, its channel entries' buffers are
empty (R112, R330, R421). -/
def Ctx.idle (x : Ctx) : Ctx :=
  { epoch := x.epoch, haltReq := x.haltReq, trace := { x.trace with on := false } }

/-- The context falls idle after its image is written (R412 step 5). -/
def State.leave (s : State) (h c : Nat) : State :=
  let k := ckey h c
  let s := (s.liveThreads h c).foldl (fun s t => s.modThread (tkey h t) (fun _ => {})) s
  let s := (natsFrom 0 4).foldl (fun s e => s.modEng (qkey h c e) (fun _ => {})) s
  let s := match (s.hearth h).xwin with
    | some w => if w.ctx = c then s.setXwin h none else s
    | none => s
  let s := { s with l1 := dropPriv k s.l1 }
  let s := s.modGroup k (fun g => { g with blk := none, winTo := none, fault := none, unfinished := none, wait := none })
  s.modCtx k Ctx.idle

/-! ## Restore -/

/-- The thread that a saved thread takes: the first split the context's own, the others pool threads in slot order (R44, R410). -/
def threadMap (c : Nat) (free : List Nat) : List (Nat × Thread) → List (Nat × Nat)
  | [] => []
  | (t, _) :: r => if t < 4 then (t, c) :: threadMap c free r else (t, free.headD 0) :: threadMap c free.tail r

/-- Pool threads of a hearth that are free. -/
def State.poolFree (s : State) (h : Nat) : List Nat := (natsFrom 4 4).filter (fun t => (s.thread (tkey h t)).st == .free)

/-- The thread that stands for a saved one. -/
def mapThread (m : List (Nat × Nat)) (t : Nat) : Nat := ((m.find? (fun q => q.1 == t)).map (·.2)).getD t

/-- An agent of a saved context as it stands after the restore. -/
def mapWho (h c0 c : Nat) (m : List (Nat × Nat)) (w : Who) : Who :=
  match w with
  | .thread g t => if g = h then .thread h (mapThread m t) else w
  | .group g i => if g = h && i = c0 then .group h c else w
  | .window g i => if g = h && i = c0 then .window h c else w
  | .cmd q n => if q < 4096 && q / 4 = ckey h c0 then .cmd (qkey h c (q % 4)) n else w
  | .script q => if q < 4096 && q / 4 = ckey h c0 then .script (qkey h c (q % 4)) else w
  | w => w

/-- The context number that an image was taken on. -/
def Image.home (im : Image) : Nat := ((im.threads.find? (fun q => decide (q.1 < 4))).map (·.1)).getD 0

/-- The tokens of faults that a saved context holds (R366). -/
def Image.tokens (im : Image) : List Nat :=
  im.threads.filterMap (fun q => q.2.fault) ++ im.grp.fault.toList
    ++ (im.engines.map (fun e => e.fetchFault.toList ++ e.cmds.filterMap (fun q => q.2.fault))).flatten

/-- Registers of w bytes as the slot holds them, listed from number i. -/
def State.slotRegs {n : Nat} (s : State) (a w i m : Nat) : Map (BitVec n) :=
  (natsFrom 0 m).foldl (fun r j => Map.set 0 r (i + j) (BitVec.ofNat n (s.num (a + w * j) w))) []

/-- The group of a restored context: what the slot gives, and what is kept beside it (R414). -/
def State.restoreGroup (s : State) (a : Nat) (old : Group) (im : Group) : Group :=
  let qs (o n : Nat) (m : Map (List (List Word))) : Map (List (List Word)) :=
    (natsFrom 0 n).foldl (fun r q => Map.set [] r q (s.getElems (a + 0x6000 + 2048 * (o + q)) (Map.get [] m q).length)) []
  let g : Group := { im with v := old.v, acc := [], iq := qs 0 8 im.iq, oq := qs 8 4 im.oq, nextIssue := old.nextIssue }
  let chunks := ((natsFrom im.lo (im.wa + 16 - im.lo)).map (· % 64)).eraseDups
  let g := chunks.foldl (fun (g : Group) (ch : Nat) => (natsFrom 0 256).foldl (fun (g : Group) (i : Nat) =>
    g.setV (8 * ch + i / 32) (i % 32) (BitVec.ofNat 32 (s.num (a + 0x10000 + 1024 * ch + 4 * i) 4))) g) g
  let g := (natsFrom 0 4096).foldl (fun (g : Group) (i : Nat) =>
    g.setAcc (i / 1024) (i / 32 % 32) (i % 32) (s.num (a + 0xC000 + 4 * i) 4)) g
  { g with
    wrV := 0, wrAcc := 0, exited := BitVec.ofNat 32 (s.num (a + 104) 8), fflags := s.num (a + 112) 8 % 32
    p := s.slotRegs (a + 0x4100) 4 1 7, k := s.slotRegs (a + 0x4120) 8 0 16, perf := s.slotRegs (a + 0x41A0) 8 0 16 }

/-- Read n numbers of w bytes. -/
def State.getNums (s : State) (a w : Nat) : Nat → List Nat
  | 0 => []
  | n + 1 => s.num a w :: s.getNums (a + w) w n

/-- Replace the bits of queue entries by those that the slot holds. -/
def zipBq : List BqE → List Nat → List BqE
  | e :: r, v :: vs => { e with bits := BitVec.ofNat 128 v } :: zipBq r vs
  | l, _ => l
/-- Replace the words of PRQ entries by those that the slot holds. -/
def zipPrq : List PrqE → List Nat → List PrqE
  | e :: r, v :: vs => { e with w := BitVec.ofNat 64 v } :: zipPrq r vs
  | l, _ => l

/-- A thread with what its slot holds: x1-x31, PC, mask, signature, instret (R413, R414). -/
def State.slotThread (s : State) (a : Nat) (th : Thread) : Thread :=
  let b := a + slotAt th.slot
  { th with x := s.slotRegs b 8 1 31, pc := BitVec.ofNat 64 (s.num (b + 248) 8), mask := BitVec.ofNat 32 (s.num (b + 256) 8)
            sig := s.num (b + 264) 8, instret := s.num (b + 280) 8 }

/-- An engine queue with the words and the stack that the slot holds. -/
def State.slotEngine (s : State) (a e : Nat) (q : EngQ) : EngQ :=
  { q with words := q.words.zipIdx.map (fun (w, i) => if i < 128 then { w with w := BitVec.ofNat 16 (s.num (a + 0x2200 + 256 * e + 2 * i) 2) } else w)
           stack := q.stack.zipIdx.map (fun (v, i) => if i < 16 then BitVec.ofNat 64 (s.num (a + 0x2600 + 256 * e + 8 * i) 8) else v) }

/-- A wait counts from the restore on (R418; notes/assumptions/104). -/
def Wait.afresh (gcc : Nat) (w : Option Wait) : Option Wait := w.map (fun w => { w with since := gcc })

/-- RESTORE the image of slot n to context c of hearth h (R414): queues, chunks LO … WA + 15, every accumulator row, every marked
granule; tracking is cleared; the trace resumes; then the replays and refusals that came while the context was saved (R366). -/
def State.restoreImage (s : State) (p h c n : Nat) : State :=
  let im := Map.get {} (s.part p).slots n
  let k := ckey h c
  let c0 := im.home
  let a := s.imgAddr p n
  let m := threadMap c (s.poolFree h) im.threads
  let old := s.ctx k
  let grp := { s.restoreGroup a (s.group k) im.grp with wait := Wait.afresh s.gcc im.grp.wait }
  let map := s.num (a + 0x20000) 128
  let x : Ctx := { im.ctx with
    st := .running, part := p, slot := some n, epoch := old.epoch, haltReq := old.haltReq, halted := false
    trace := { old.trace with on := im.ctx.trace.on, lost := im.ctx.trace.lost }
    merges := im.ctx.merges.map (fun b => { b with parked := b.parked.map (mapThread m) })
    bq := zipBq im.ctx.bq (s.getNums (a + 0x1000) 16 im.ctx.bq.length)
    prq := zipPrq im.ctx.prq (s.getNums (a + 0x2000) 8 im.ctx.prq.length)
    cmp := (natsFrom 0 8).map (fun i => (i, (BitVec.ofNat 64 (s.num (a + 0x4000 + 8 * i) 8)).toInt))
    ybbase := BitVec.ofNat 64 (s.num (a + 0x9E0) 8), yxwin := BitVec.ofNat 64 (s.num (a + 0x9E8) 8)
    wrGran := [] }
  let pad := (bitsSet map 1024).foldl (fun pd q => (natsFrom 0 4096).foldl (fun pd i =>
    Map.set 0 pd (4096 * q + i) (s.byte (a + 0x40000 + 4096 * q + i))) pd) (s.hearth h).pad
  -- the feeder's tiles were of what the scratchpad held before (R17), what is written is poison no more (notes/assumptions/66), and the
  -- frames of the slot are accessed (R367)
  let s := (s.modHearth h (fun hh => { hh with
    pad := pad, feed := []
    badPad := if hh.badPad.isEmpty then [] else hh.badPad.filter (fun b => !map.testBit (b / 4096)) })).modGroup k (fun _ => grp)
  let s := (bitsSet map 1024).foldl (fun s q => s.touchFrame (a + 0x40000 + 4096 * q) false) (s.touchRange a 0x40000 false)
  let s := s.modCtx k (fun _ => x)
  let s := im.threads.foldl (fun s (t, th) => s.modThread (tkey h (mapThread m t)) (fun _ =>
    { s.slotThread a th with ctx := c, wait := Wait.afresh s.gcc th.wait })) s
  let s := (natsFrom 0 4).foldl (fun s e => s.modEng (qkey h c e) (fun _ =>
    let q := s.slotEngine a e (im.engines.getD e {})
    { q with since := 0, cmds := q.cmds.map (fun (n, m) => (n, { m with since := s.gcc })) })) s
  let s := match im.xwin with | some w => s.setXwin h (some { w with ctx := c }) | none => s
  let toks := im.tokens
  let s := s.modPart p (fun q => { q with faultToks := q.faultToks.map (fun f =>
    if toks.contains f.token then { f with who := mapWho h c0 c m f.who, since := s.gcc } else f) })
  let s := { s with chans := s.chans.map (fun (i, ch) => (i, { ch with arr := Map.erase ch.arr k })) }
  let s := if x.trace.on then s.syncAll h c 3 else s
  toks.foldl (fun s t => s.lateReplay p t) s

end Sys2Proof.Machine
end

