-- ==== Sys2Proof/Machine/Tasks.lean ====
section
/-! DEFINITION. The scheduler: records and their checks, ready rings, join counters, fan-out walks, dispatch of compute and copy
records (spec/02 R20-R31; spec/20 R409, R410). -/

namespace Sys2Proof.Machine

/-! ## Records (R20-R22) -/

/-- The record in 64 bytes (R20). -/
def recordOf (a : Nat) (d : List Byte) : Record :=
  let f (o n : Nat) : Nat := natOfBytes (sliceOf d o n)
  { addr := a, code := f 0 8, frame := f 8 8, join := f 16 4, kind := f 20 1, prio := f 21 1, aff := f 22 2, succ0 := f 24 8, succ1 := f 32 8 }

/-- An affinity class that the partition has defined: class 0, or one with an entry (R22, R23). -/
def State.affOk (s : State) (p c : Nat) : Bool := c == 0 || (decide (c < 256) && (Map.find? (s.part p).aff c).isSome)

/-- The check of a record that was read (R22). -/
def State.recordBad (s : State) (p : Nat) (d : List Byte) : Bool :=
  let r := recordOf 0 d
  r.kind % 4 == 3 || r.kind / 8 != 0 || (sliceOf d 40 24).any (· != 0) || !s.affOk p r.aff || r.code % 8 != 0
    || (r.kind % 4 == 2 && (r.frame == 0 || decide (65535 < r.frame)))

/-- A record as the scheduler reads it: or the cause and subcause of its refusal. -/
inductive RecR where
  | ok (r : Record)
  | bad (cause sub : Nat)
deriving DecidableEq, Repr

/-- READ AND CHECK a record at D scope through the partition's page tables (R22). -/
def State.readRecord (s : State) (p a : Nat) : RecR :=
  match s.sysRead p a 64 with
  | (some d, _, _) => if s.recordBad p d then .bad 0x01 0 else .ok (recordOf a d)
  | (none, c, u) => .bad c u

/-- The refusal of a record: a trap record of the scheduler that names it and no context, and the address of the access that failed
(R22, R417). -/
def State.refuseRecord (s : State) (p a cause sub va : Nat) : State :=
  s.trapNoCtx p { cause := cause, sub := sub, agent := 7, d8 := if cause = 0x01 then 0 else va } 0 a

/-! ## Ready rings (R28, R409) -/

/-- Capacity of a ring. -/
def State.ringCap (s : State) (p : Nat) : Nat := 2 ^ (s.preg p 0x150)
/-- The records of a level, the oldest first. -/
def State.ring (s : State) (p l : Nat) : List ReadyE := Map.get [] (s.part p).ready l
/-- Address of position i of a level's ring (R409). -/
def State.ringAddr (s : State) (p l i : Nat) : Nat :=
  bitsOf (s.preg p 0x148) 51 12 * 4096 + 16 * s.ringCap p * l + 16 * (i % s.ringCap p)
/-- A ring entry: record address, image slot + 1 (R409). -/
def ReadyE.num (e : ReadyE) : Nat := e.addr + e.img * 2 ^ 64

/-- Append an entry to a ring that has room (R28, R409). -/
def State.ringPush (s : State) (p l : Nat) (e : ReadyE) : State :=
  let i := Map.get 0 (s.part p).rhead l + (s.ring p l).length
  (s.hwNum (s.ringAddr p l i) 16 e.num).modPart p (fun q => { q with ready := Map.put q.ready l (Map.get [] q.ready l ++ [e]) })

/-- The place, counted from the oldest, of the record that enters the head window next: its entry is in memory alone (R28, R409). -/
def headWin : Nat := 16

/-- Place an entry ahead of every record of its level (R412): the record that leaves the head window stands in memory alone again (R28). -/
def State.ringFront (s : State) (p l : Nat) (e : ReadyE) : State :=
  let i := Map.get 0 (s.part p).rhead l + s.ringCap p - 1
  let s := match (s.ring p l)[headWin - 1]? with
    | some o => s.hwNum (s.ringAddr p l (i + headWin)) 16 o.num
    | none => s
  (s.hwNum (s.ringAddr p l i) 16 e.num).modPart p (fun q => { q with
    ready := Map.put q.ready l (e :: Map.get [] q.ready l), rhead := Map.put q.rhead l (i % s.ringCap p) })

/-- The ring entry in memory at position i of a level (R409). -/
def State.ringMem (s : State) (p l i : Nat) : ReadyE :=
  let n := s.num (s.ringAddr p l i) 16
  { addr := bitsOf n 51 0, img := bitsOf n 76 64 }

/-- Take the i-th entry of a ring, out of its head window; the entry that enters the window is read from memory (R28, R409). -/
def State.ringTake (s : State) (p l i : Nat) : State :=
  let h := Map.get 0 (s.part p).rhead l
  let next := s.ringMem p l (h + headWin)
  s.modPart p (fun q => { q with
    ready := Map.set [] q.ready l (dropAt (modAt (fun _ => next) (Map.get [] q.ready l) headWin) i)
    rhead := Map.put q.rhead l ((h + 1) % s.ringCap p) })

/-- What the entry that enters the window waits for. -/
def ringReady (p l : Nat) (s : State) : Ans Unit :=
  if (s.ring p l).length ≤ headWin then .ok () s else homeReady p (s.ringAddr p l (Map.get 0 (s.part p).rhead l + headWin)) false s

/-- Drop the first push that a property names. -/
def dropPush (f : PushW → Bool) : List PushW → List PushW
  | [] => []
  | w :: r => if f w then r else w :: dropPush f r

/-- Change the first push that a property names. -/
def setPush (f : PushW → Bool) (g : PushW → PushW) : List PushW → List PushW
  | [] => []
  | w :: r => if f w then g w :: r else w :: setPush f g r

/-- The record of a launch window's push is read for its level; a fan-out record is walked at once, and counts as accepted (R325). The level of a
record whose PRIO cannot be read is free (notes/assumptions/5). -/
def State.readPush (s : State) (p : Nat) (w : PushW) : State :=
  let (kind, prio) : Nat × Nat := match s.sysRead p (w.addr + 20) 2 with
    | (some d, _, _) => ((d.getD 0 0).toNat, (d.getD 1 0).toNat)
    | _ => (0, Config.freeNat s.tick 0 % 256)
  (s.sysSeen p (w.addr + 20) 2).modPart p (fun q =>
    if kind % 4 = 2 then { q with
      pushes := dropPush (· == w) q.pushes, fans := q.fans ++ [{ addr := w.addr }], accepted := (q.accepted + 1) % 2 ^ 32 }
    else { q with pushes := setPush (· == w) (fun v => { v with level := prio }) q.pushes })

/-- READY_PUSH: the record of a launch window's push is read first (R325); then a push that waits takes a ring position while the ring has room: those at homes first, in the order in which they
began to wait, then those of the launch window (R28, R325). -/
def execReadyPush (p level : Nat) (s : State) : Res :=
  match (s.part p).pushes.find? (fun w => w.level == 256) with
  | some w => sysGate p (sysReady p (w.addr + 20) 2 .read) (fun s => s.readPush p w) s
  | none =>
  let ws := (s.part p).pushes.filter (fun w => w.level == level)
  if s.ringCap p ≤ (s.ring p level).length then .next s
  else
    match (match ws.find? (fun w => !w.window) with | some w => some w | none => ws.head?) with
    | none => .next s
    | some w =>
      let s := s.ringPush p level { addr := w.addr }
      .next (s.modPart p (fun q => { q with
        pushes := dropPush (fun v => v == w) q.pushes
        accepted := if w.window then (q.accepted + 1) % 2 ^ 32 else q.accepted }))

/-! ## Join counters and walks (R24, R25) -/

/-- A decrement fails at the TJOIN of a thread, or leaves a trap record that names the successor (R24, R177). -/
def State.decFail (s : State) (p : Nat) (d : Dec) (cause sub : Nat) : State :=
  match d.who, d.join with
  | .thread h t, true => s.modThread (tkey h t) (fun th => { th with xf := some { cause := cause, sub := sub, va := d.succ } })
  | _, _ => s.trapNoCtx p { cause := cause, sub := sub, agent := 7, d8 := d.succ } 0 d.succ

/-- The place at which the answer to a join counter's compare-and-swap arrives. -/
def casPlace : Nat := 1061

/-- The waiting decrement is no longer the oldest. -/
def State.popDec (s : State) (p : Nat) : State := s.modPart p (fun q => { q with decs := q.decs.drop 1 })

/-- What a decrement that has found n leaves to do: the one that takes it from 1 to 0 pushes the successor, or has it walked (R24, R25). -/
def State.decDone (s : State) (p : Nat) (d : Dec) (n : Nat) (b : List Byte) : State := if n = 1 then s.spawn p d.succ b .nobody else s

/-- A join counter in memory that has no home in the package: its unit is read, and a compare-and-swap sent until one succeeds (R24, R350). -/
def State.decFar (s : State) (p : Nat) (d : Dec) (t : Tgt) : State :=
  let fail (c u : Nat) (s : State) : State := (((s.dropLines casPlace p).sysDone p).popDec p).decFail p d c u
  match s.sysRead p (d.succ + 16) 16 with
  | (none, c, u) => fail c u s
  | (some b, _, _) =>
    let n := natOfBytes (b.take 4)
    if n = 0 then fail 0x0C 7 s
    else
      match s.lineAt casPlace t with
      | some l =>
        let s := (s.dropLines casPlace p).sysDone p
        (match l.bad with
         | some (c, u) => (s.popDec p).decFail p d c u
         | none => if natOfBytes (l.data.take 4) = n then (s.popDec p).decDone p d n b else s)
      | none =>
        if s.lineOut casPlace t then s
        else (s.sendExt { h := casPlace, p := p, who := .line casPlace t.atomBase, pts := s.gcc }
          { tgt := t, va := d.succ + 16, kind := 2, len := 4, op := .cas, a := n, b := n - 1 }).1

/-- The same at a home. -/
def State.decHome (s : State) (p : Nat) (d : Dec) (a : Nat) : State :=
  let s := s.popDec p
  if (s.atom a).psn then s.decFail p d 0x0F 0
  else
    let b := s.bytes a 16
    let n := natOfBytes (b.take 4)
    if n = 0 then s.decFail p d 0x0C 7
    else (((s.sysWalked p (d.succ + 16) .atomic).seen p a).sysWrite a (bytesOf (n - 1) 4)).decDone p d n b

/-- JOIN_DECREMENT: the join counter of the oldest waiting decrement falls by 1 at its home; the one that takes it from 1 to 0
pushes the successor, or has it walked; one that finds 0 is a failure (R24, R25). -/
def execJoinDecrement (p : Nat) (s : State) : Res :=
  match (s.part p).decs with
  | [] => .next s
  | d :: _ =>
    let va := d.succ + 16
    match sysReady p va 16 .read s with
    | .wait s => .next s
    | .trap _ s => .next s
    | .ok _ s =>
      match s.sysXl p va .atomic with
      | .bad c u => .next (((s.popDec p).decFail p d c u).sysDone p)
      | .miss => sysGate p (sysReady p va 16 .atomic) id s
      | .ok t =>
        match s.homeAddr t true with
        | none => .next (s.decFar p d t)
        | some a => sysGate p (sysReady p va 16 .atomic) (fun s => s.decHome p d a) s

/-- The pages of a successor list. -/
def listPages (code n : Nat) : List Nat := (natsFrom (code / 4096) ((code + 8 * n + 4095) / 4096 - code / 4096)).map (4096 * ·)

/-- The oldest waiting fan-out record is walked no longer. -/
def State.popFan (s : State) (p : Nat) : State := s.modPart p (fun q => { q with fans := q.fans.drop 1 })

/-- The check of a fan-out record: every page of its list is translated (R22, R25). -/
def State.fanCheck (s : State) (p : Nat) (f : Fan) : State :=
  let s := s.sysSeen p f.addr 64
  match s.readRecord p f.addr with
  | .bad c u => (s.popFan p).refuseRecord p f.addr c u f.addr
  | .ok r =>
    let lost := (listPages r.code r.frame).filterMap (fun va => match s.sysXl p va .read with
      | .ok _ => none
      | .bad c u => some (c, u, va)
      | .miss => some (0x0C, 2, va))
    match lost with
    | (c, u, va) :: _ => (s.popFan p).refuseRecord p r.addr c u va
    | [] => s.modPart p (fun q => { q with fans := modAt (fun f => { f with pos := some (r, 0) }) q.fans 0 })

/-- Listed successor i of a fan-out record is decremented; after the last come SUCC0 and SUCC1; where the read fails, the walk ends (R25). -/
def State.fanStep (s : State) (p : Nat) (f : Fan) (r : Record) (i : Nat) : State :=
  if r.frame ≤ i then (s.popFan p).completeRecord p r f.who
  else
    let a := r.code + 8 * i
    match s.sysRead p a 8 with
    | (some d, _, _) =>
      let v := natOfBytes d
      let s := (s.sysSeen p a 8).modPart p (fun q => { q with fans := modAt (fun f => { f with pos := some (r, i + 1) }) q.fans 0 })
      if v = 0 then s
      else if misRecord v then s.trapNoCtx p { cause := 0x0D, agent := 7, d8 := v } 0 r.addr
      else s.modPart p (fun q => { q with decs := q.decs ++ [{ succ := v, who := f.who }] })
    | (none, c, u) => (s.popFan p).refuseRecord p r.addr c u a

/-- FANOUT_WALK: the oldest waiting fan-out record is checked; every page of its list is translated; then its listed successors,
SUCC0 and SUCC1 are decremented, one at a step (R22, R25). -/
def execFanoutWalk (p : Nat) (s : State) : Res :=
  match (s.part p).fans with
  | [] => .next s
  | f :: _ =>
    match f.pos with
    | none =>
      sysGate p (fun s => (sysReady p f.addr 64 .read s).bind fun _ s =>
        match s.readRecord p f.addr with
        | .ok r => sysAllReady p .read ((listPages r.code r.frame).map (fun va => (va, 0))) s
        | .bad .. => .ok () s) (fun s => s.fanCheck p f) s
    | some (r, i) => sysGate p (fun s => if r.frame ≤ i then .ok () s else sysReady p (r.code + 8 * i) 8 .read s) (fun s => s.fanStep p f r i) s

/-! ## Admission (R23, R29, R30, R410) -/

/-- The affinity of a record admits a hearth of the partition (R23). -/
def State.admitsHearth (s : State) (p : Nat) (r : Record) (h : Nat) : Bool :=
  (s.part p).hset.testBit h && (r.aff == 0 || (Map.get {} (s.part p).aff r.aff).hset.testBit h)

/-- The engine number of a hearth's copy engine (R403). -/
def hearthEng (h : Nat) : Nat := 64 * (h / 48) + h % 48

/-- The copy engines of a partition: those of its hearths, and those that its affinity table names (R401). -/
def State.partEngines (s : State) (p : Nat) : Nat :=
  let own := (bitsSet (s.part p).hset 192).foldl (fun a h => a ||| 2 ^ hearthEng h) 0
  (s.part p).aff.foldl (fun a (_, c) => a ||| c.eset) own

/-- The affinity of a record admits a copy engine of the partition (R23). -/
def State.admitsEngine (s : State) (p : Nat) (r : Record) (e : Nat) : Bool :=
  (s.partEngines p).testBit e && (r.aff == 0 || (Map.get {} (s.part p).aff r.aff).eset.testBit e)

/-- A context that can take a record: idle, of a running partition, its lane group not retired (R29, R450). -/
def State.idleCtx (s : State) (p h c : Nat) : Bool :=
  (s.part p).hset.testBit h && (s.ctx (ckey h c)).st == .idle
    && !s.boot.retired.any (fun r => r.die == h / 48 && r.src == 4 && r.loc % 256 == h && r.loc / 256 % 256 == c)

/-- Whether an entry may go to a context: a compute record that admits its hearth; one with an image only on the image's hearth,
while enough pool threads are free and no other context holds a window there; a record that will be refused (R22, R29, R410). -/
def State.forCtx (s : State) (p h : Nat) (e : ReadyE) : Bool :=
  match s.readRecord p e.addr with
  | .bad .. => true
  | .ok r =>
    r.kind % 4 == 0 && s.admitsHearth p r h
      && (e.img == 0
        || (let im := Map.get {} (s.part p).slots (e.img - 1)
            im.h == h && decide (im.threads.length ≤ 1 + (s.poolFree h).length) && (im.xwin.isNone || (s.hearth h).xwin.isNone)))

/-- Whether an entry may go to a copy engine (R30). -/
def State.forEng (s : State) (p n : Nat) (e : ReadyE) : Bool :=
  match s.readRecord p e.addr with
  | .bad .. => true
  | .ok r => r.kind % 4 == 1 && s.admitsEngine p r n

/-- The first entry of a head window that a property admits, with its place (R28). -/
def firstIn (f : ReadyE → Bool) : List ReadyE → Nat → Option (Nat × ReadyE)
  | [], _ => none
  | e :: r, i => if f e then some (i, e) else firstIn f r (i + 1)

/-- The level, place and entry to dispatch: the oldest admitted entry of the highest level whose head window of 16 has one
(R28, R29). -/
def pickEntry (f : ReadyE → Bool) : List (Nat × List ReadyE) → Option (Nat × Nat × ReadyE)
  | [] => none
  | (l, es) :: r =>
    match firstIn f (es.take headWin) 0 with
    | some (i, e) => some (l, i, e)
    | none => pickEntry f r

/-- The levels of a partition, the highest first. -/
def State.levels (s : State) (p : Nat) : List (Nat × List ReadyE) := (s.part p).ready.reverse

/-- The records in the head windows, the highest level first. -/
def State.heads (s : State) (p : Nat) : List ReadyE := ((s.levels p).map (fun q => q.2.take headWin)).flatten

/-- The records of head windows are read until one that a property admits (R22, R28). -/
def headsReady (p : Nat) (f : State → ReadyE → Bool) : List ReadyE → State → Ans Unit
  | [], s => .ok () s
  | e :: r, s => (sysReady p e.addr 64 .read s).bind fun _ s => if f s e then .ok () s else headsReady p f r s

/-- What a dispatch waits for: the records that it looks at, and the entry that will enter the head window. -/
def dispatchReady (p : Nat) (f : State → ReadyE → Bool) (s : State) : Ans Unit :=
  (headsReady p f (s.heads p) s).bind fun _ s =>
    match pickEntry (f s) (s.levels p) with
    | some (l, _, _) => ringReady p l s
    | none => .ok () s

/-! ## Dispatch (R29-R31) -/

/-- The lane group at a dispatch (R31). -/
def Group.start (g : Group) (r : Record) (p pts : Nat) : Group :=
  { v := if bitOf r.kind 2 || g.lastPart != p || !g.everRan then [] else g.v
    acc := g.acc, pts := pts, everRan := true, lastPart := p, nextIssue := g.nextIssue }

/-- The context at a dispatch (R31, R154, R173, R180, R335): its receive buffers are empty, a value on its way to them included (R109,
R112). -/
def Ctx.start (x : Ctx) (r : Record) (p gcc : Nat) (traced : Bool) : Ctx :=
  { st := .running, part := p, task := r, disp := gcc, epoch := x.epoch, haltReq := x.haltReq
    trace := { x.trace with on := traced, prevBlk := 0, lost := 0 } }

/-- The context thread at a dispatch (R31, R44). -/
def Thread.start (r : Record) (c pts : Nat) : Thread :=
  { pc := BitVec.ofNat 64 r.code, x := Map.set 0 (Map.set 0 [] 10 (BitVec.ofNat 64 r.frame)) 11 (BitVec.ofNat 64 r.addr),
    mask := 0xFFFFFFFF#32, ctx := c, st := .running, pts := pts }

/-- START A TASK on an idle context (R31): the task's timestamps begin at the local GCC (R375), its arrivals on channels are
forgotten (R107, R112), and a traced task's stream begins with a SYNC (R336, R338). -/
def State.startTask (s : State) (p h c : Nat) (r : Record) : State :=
  let k := ckey h c
  let g := s.localGcc h
  let ctl := s.dbg p h 0xC0
  let traced := bitOf ctl 0 && (!bitOf ctl 1 || s.dbg p h 0xC8 == r.code)
  let s := s.modCtx k (fun x => x.start r p s.gcc traced)
  let s := s.modGroup k (fun gr => gr.start r p g)
  let s := s.modThread (tkey h c) (fun _ => Thread.start r c g)
  let s := (natsFrom 0 4).foldl (fun s e => s.modEng (qkey h c e) (fun _ => { pts := g })) s
  let s := { s with chans := s.chans.map (fun (i, ch) => (i, { ch with arr := Map.erase ch.arr k })) }
  if traced then s.syncPacket h c c 0 else s

/-- A lower-numbered idle context would take the entry first (R29). -/
def State.lowerCtx (s : State) (p k : Nat) (e : ReadyE) : Bool :=
  (natsFrom 0 k).any (fun j => s.idleCtx p (j / 4) (j % 4) && s.forCtx p (j / 4) e)

/-- Context c of hearth h takes entry i of a level: it starts or restores its task, or the record is refused (R22, R31, R410). -/
def State.dispatchTo (s : State) (p h c l i : Nat) (e : ReadyE) : State :=
  let s := (s.ringTake p l i).sysSeen p e.addr 64
  match s.readRecord p e.addr with
  | .bad cs u =>
    let s := s.modPart p (fun q => { q with slots := if e.img = 0 then q.slots else Map.erase q.slots (e.img - 1) })
    s.refuseRecord p e.addr cs u e.addr
  | .ok r => if e.img = 0 then s.startTask p h c r else s.restoreImage p h c (e.img - 1)

/-- DISPATCH: an idle context takes the oldest record that admits it of the highest level that holds one, and starts or restores
its task; a record that fails its check is refused (R22, R29, R31, R410). -/
def execDispatch (h c : Nat) (s : State) : Res :=
  match s.partOfHearth h with
  | none => .next s
  | some p =>
    if (s.part p).state != 1 || !s.idleCtx p h c then .next s
    else sysGate p (dispatchReady p (fun s => s.forCtx p h)) (fun s =>
      match pickEntry (s.forCtx p h) (s.levels p) with
      | none => s
      | some (l, i, e) => if s.lowerCtx p (ckey h c) e then s else s.dispatchTo p h c l i e) s

/-- A copy engine of a running partition that runs no copy record. -/
def State.idleEng (s : State) (p e : Nat) : Bool := (s.partEngines p).testBit e && (s.eng (crecKey e)).crec.isNone

/-- A copy engine takes entry i of a level (R22, R30). -/
def State.copyTo (s : State) (p e l i : Nat) (w : ReadyE) : State :=
  let s := (s.ringTake p l i).sysSeen p w.addr 64
  match s.readRecord p w.addr with
  | .bad cs u => s.refuseRecord p w.addr cs u w.addr
  | .ok r => s.modEng (crecKey e) (fun _ => {
      crec := some (p, r), stack := [BitVec.ofNat 64 r.frame], fetch := some (r.code, 0, 0, 0), fetchHead := true, pts := s.localGcc (engHearth (crecKey e)) })

/-- COPY_RECORD_DISPATCH: an idle copy engine takes a record as in R29, the lowest-numbered admitting engine first, and starts its
script with FRAME on the stack (R26, R30). -/
def execCopyRecordDispatch (p e : Nat) (s : State) : Res :=
  if (s.part p).state != 1 || !s.idleEng p e then .next s
  else sysGate p (dispatchReady p (fun s => s.forEng p e)) (fun s =>
    match pickEntry (s.forEng p e) (s.levels p) with
    | none => s
    | some (l, i, w) => if (natsFrom 0 e).any (fun j => s.idleEng p j && s.forEng p j w) then s else s.copyTo p e l i w) s

/-- COPY_RECORD_COMPLETE: the script has ended and its commands have completed: the successors are decremented and the engine is
free (R25, R65). -/
def execCopyRecordComplete (e : Nat) (s : State) : Res :=
  let q := s.eng (crecKey e)
  match q.crec with
  | none => .next s
  | some (p, r) =>
    if !q.quiet || decide (s.gcc < q.pts) then .next s
    else .next ((s.modEng (crecKey e) (fun _ => {})).completeRecord p r .nobody)

/-! ## Time (R370, R371, R375, R18, R451) -/

/-- GCC_RESYNC: at a multiple of 1,024 every tap of a die that disagrees takes the full count, and telemetry counts the corrections
(R370). -/
def execGccResync (die : Nat) (s : State) : Res :=
  if s.gcc % 1024 = 0 && (s.die die).gccLag != 0 then
    .next (s.modDie die (fun d => { d with gccLag := 0, gccFix := d.gccFix + d.gccLag }))
  else .next s

/-- CLOCK_STEP_CHANGE: at a re-sync instant a hearth takes its partition's step or the throttle ceiling (R18, R371, R451). -/
def execClockStepChange (h : Nat) (s : State) : Res :=
  if s.stepDue h then
    .next (s.modHearth h (fun hh => { hh with
      step := s.stepWanted h, sync := s.gcc, cycBase := s.cycle h, capped := decide (s.ownStep h < s.stepWanted h) }))
  else .next s

/-- PROGRAM_TIMESTAMP_WAIT_END: an access that was held until the local GCC caught up with its agent's timestamp is made: the
group's oldest operation, the engine's commands; a control thread's instruction is tried again at its own turn (R375, R379). -/
def execProgramTimestampWaitEnd (a : AgentId) (s : State) : Res :=
  match a with
  | .cc _ _ => .next s
  | .grp h g =>
    match (s.group (ckey h g)).ops.find? (fun o => o.cls != .t && !o.done) with
    | some o => .next (s.laneProgress h g o.id)
    | none => .next s
  | .eng q =>
    match List.find? (fun (c : Nat × Cmd) => c.2.running) (s.eng q).cmds with
    | some (n, c) => if c.kind.stream.isSome then execStreamElement q n s else execEngineCommandComplete q n s
    | none => .next s

end Sys2Proof.Machine
end

