-- ==== Sys2Proof/Machine/Preempt.lean ====
section
/-! DEFINITION. Pre-emption, trap records, the watchdog, the driver's answers to traps, dumps and kills (spec/20 R411-R422). -/

namespace Sys2Proof.Machine

/-! ## Pre-emption (R411, R412) -/

/-- A context whose task may not be a target (R111, R331, R411): an unreleased arrival of its own (R112), a pending contribution or a held broadcast;
halted; stopped by a trap; in a phase block. -/
def State.sheltered (s : State) (k : Nat) : Bool :=
  let x := s.ctx k
  x.halted || x.haltReq || x.trapped.isSome
    || (match (s.group k).blk with | some b => b.phase.isSome | none => false)
    || s.chans.any (fun (_, c) => (c.here.contains k && !c.oldHere.contains k) || (c.early.contains k && !c.oldEarly.contains k) || (Map.find? c.contrib k).isSome
        || (Map.find? c.contribE k).isSome || (c.held.isSome && c.cfg.sender == k))

/-- No idle context admits an entry (R411). -/
def State.noIdle (s : State) (p : Nat) (e : ReadyE) : Bool :=
  !(natsFrom 0 768).any (fun k => s.idleCtx p (k / 4) (k % 4) && s.forCtx p (k / 4) e)

/-- The compute record of an entry. -/
def State.computeOf (s : State) (p : Nat) (e : ReadyE) : Option Record :=
  match s.readRecord p e.addr with
  | .ok r => if r.kind % 4 = 0 then some r else none
  | .bad .. => none

/-- The record that a pre-emption would serve (R411): of the highest level that holds a record without an idle context, the first
such. -/
def State.hungry (s : State) (p : Nat) : Option Record :=
  match pickEntry (fun e => (s.computeOf p e).isSome && s.noIdle p e) (s.levels p) with
  | some (_, _, e) => s.computeOf p e
  | none => none

/-- The lower of two targets: less PRIO, then the later dispatch, then the higher hearth and context (R411). -/
def State.lowerTarget (s : State) (a b : Nat) : Bool :=
  let x := s.ctx a
  let y := s.ctx b
  decide (x.task.prio < y.task.prio)
    || (x.task.prio == y.task.prio && (decide (y.disp < x.disp) || (x.disp == y.disp && decide (b < a))))

/-- The target of a record among the running contexts that it admits (R411). -/
def State.preemptTarget (s : State) (p : Nat) (r : Record) : Option Nat :=
  let ks := (natsFrom 0 768).filter (fun k =>
    (s.ctx k).st == .running && (s.ctx k).part == p && s.admitsHearth p r (k / 4) && !s.sheltered k
      && decide ((s.ctx k).task.prio < r.prio))
  match ks with
  | [] => none
  | k :: l => some (l.foldl (fun a b => if s.lowerTarget b a then b else a) k)

/-- Image slots of a partition that are free (R400). -/
def State.freeSlots (s : State) (p : Nat) : Nat := s.preg p 0x170 - (s.part p).slots.length
/-- The lowest free image slot. -/
def State.freeImage (s : State) (p : Nat) : Nat :=
  ((natsFrom 0 (s.preg p 0x170)).find? (fun n => (Map.find? (s.part p).slots n).isNone)).getD 0

/-- Cycles that a signal takes: 24 while every hearth of the partition lies on one die, else 64 (R411). -/
def State.signalCost (s : State) (p : Nat) : Nat :=
  if ((natsFrom 0 4).filter (fun d => (bitsSet (s.part p).hset 192).any (fun h => h / 48 == d))).length ≤ 1 then 24 else 64

/-- The record and the target of a pre-emption that the test finds: none is in progress, and the priorities differ by PTH or more (R411). -/
def State.preemptPair (s : State) (p : Nat) : Option (Record × Nat) :=
  let q := s.part p
  if q.state != 1 || q.preempt.isSome then none
  else
    match s.hungry p with
    | none => none
    | some r =>
      match s.preemptTarget p r with
      | none => none
      | some k => if r.prio < (s.ctx k).task.prio + bitsOf (s.preg p 0x128) 23 16 then none else some (r, k)

/-- PREEMPT_SIGNAL: with no pre-emption in progress, the test raises a signal at the target when the priorities differ by PTH or
more and a slot is free; a signal withheld for want of a slot counts once for each pair of record and target (R411). -/
def execPreemptSignal (p : Nat) (s : State) : Res :=
  let q := s.part p
  match s.preemptPair p with
  | none => .next s
  | some (r, k) =>
    let x := s.ctx k
    if s.freeSlots p = 0 then
      .next (if q.suppPair = some (r.addr, k) then s
        else s.modPart p (fun q => { q with supp := q.supp + 1, suppPair := some (r.addr, k) }))
    else
      let n := x.slot.getD (s.freeImage p)
      let s := s.modPart p (fun q => { q with
        preempt := some k, suppPair := none
        slots := if x.slot.isSome then q.slots else Map.put q.slots n {} })
      .next (s.modCtx k (fun x => { x with signal := some (s.gcc + s.signalCost p), slot := some n }))

/-- The test of this cycle has a signal to raise or to count (R411). -/
def State.preemptDue (s : State) (p : Nat) : Bool :=
  match s.preemptPair p with
  | none => false
  | some (r, k) => decide (0 < s.freeSlots p) || (s.part p).suppPair != some (r.addr, k)

/-- A signal has reached a context that has not begun to stop (R411, R412). -/
def Ctx.signalled (x : Ctx) (gcc : Nat) : Bool :=
  match x.signal with
  | some t => decide (t ≤ gcc) && x.st == .running && x.trapped.isNone
  | none => false

/-- The selection of a context is undone: the scheduler chooses afresh (R331). -/
def State.unselect (s : State) (k : Nat) : State :=
  let p := (s.ctx k).part
  ((s.dropNewSlot k).modCtx k (fun x => { x with signal := none })).modPart p (fun q => { q with
    preempt := if q.preempt = some k then none else q.preempt })

/-- An operation of a stopping group has completed; one whose word is parked, in the lanes that it has issued (R366, R412). -/
def LaneOp.ended (o : LaneOp) : Bool := o.done || (o.acc.any (fun a => !a.ready) && o.acc.all (fun a => a.done || !a.ready))

/-- The group of a stopping context has stopped: its pass has ended, or it stalls at a word in this cycle, or is parked; and its
operations have completed (R412 step 1). -/
def State.groupStopped (s : State) (h g : Nat) : Bool :=
  let gr := s.group (ckey h g)
  let between := match gr.blk with | some b => !b.inPass | none => true
  gr.pend.isEmpty && !gr.walking && !gr.winX.out
    && ((gr.fault.isSome && gr.ops.all LaneOp.ended) || (gr.ops.isEmpty && (between || (gr.wait.isSome && decide (s.cycle h < gr.nextIssue)))))

/-- The threads of a stopping context stand at instruction boundaries (R412 step 2): none has an access or a push on its way. -/
def State.threadsStopped (s : State) (h c : Nat) : Bool :=
  (s.liveThreads h c).all (fun t =>
    let th := s.thread (tkey h t)
    !th.xact.out && !th.walking && !th.midway && !s.asked (s.ctx (ckey h c)).part (.thread h t))

/-- The engines of a stopping context have stopped: started commands have completed, streams stand between elements
(R412 step 3). -/
def State.enginesStopped (s : State) (h c : Nat) : Bool :=
  (natsFrom 0 4).all (fun e =>
    let q := s.eng (qkey h c e)
    !q.fetchWalking && q.cmds.all (fun (_, m) => m.fault.isSome || !m.started || m.done || m.dead
      || (m.kind.stream.isSome && m.part == 0 && !m.xact.out && !m.walking)))

/-- Dirty L1 data of a context's task (R412 step 4). -/
def State.dirtyOf (s : State) (k : Nat) : List Nat := (s.l1.filter (fun (_, e) => e.ctx == k && e.dirty != 0)).map (·.1)

/-- An agent of a context. -/
def State.ofCtx (s : State) (k : Nat) (w : Who) : Bool :=
  let thread (h t : Nat) : Bool := ckey h (s.thread (tkey h t)).ctx == k
  match w with
  | .thread h t => thread h t
  | .post h t _ => thread h t
  | .group h g => ckey h g == k
  | .window h g => ckey h g == k
  | .lane h g _ _ => ckey h g == k
  | .cmd q _ => decide (q < 4096) && engKey q == k
  | .script q => decide (q < 4096) && engKey q == k
  | .wback x _ => x == k
  | .line .. => false
  | .nobody => false

/-- The answer to a write or an atomic. -/
def Rep.ofWrite (r : Rep) : Bool := r.atomic || r.kind == .wack || r.kind == .nack || r.kind == .err

/-- No write of a context is on its way or unanswered. -/
def State.writesAnswered (s : State) (k : Nat) : Bool :=
  !s.reqs.any (fun r => r.src == 0 && r.ctx == k && !r.kind.reads) && !s.exts.any (fun e => e.ctx == k && e.kind != 0)
    && !s.reps.any (fun r => r.src == 0 && r.ofWrite && s.ofCtx k r.who)
    && !s.stxs.any (fun q => s.ofCtx k q.who)

/-- PREEMPT_STOP: the signal reaches its target, which stops; its dirty lines are written back; then its image is written, its
record goes ahead of its level with its slot, and the context falls idle (R412). -/
def execPreemptStop (h c : Nat) (s : State) : Res :=
  let k := ckey h c
  let s := s.settleGroup h c
  let x := s.ctx k
  match x.signal with
  | none => .next s
  | some t =>
    if s.gcc < t || x.trapped.isSome then .next s
    -- a context that has halted on the signal's way is no target any more (R331)
    else if x.halted then .next (s.unselect k)
    else if x.st == .running then .next (s.modCtx k (fun x => { x with st := .stopping }))
    else if x.st != .stopping || !(s.groupStopped h c && s.threadsStopped h c && s.enginesStopped h c) then .next s
    else
      let s := (natsFrom 0 4).foldl (fun s e => s.settleQueue (qkey h c e)) s
      -- a marker that traps ends the pre-emption
      if (s.ctx k).trapped.isSome then .next s
      else if !(s.dirtyOf k).isEmpty then .next ((s.dirtyOf k).foldl State.writeBack s)
      else if !s.writesAnswered k then .next s
      else
        let n := x.slot.getD 0
        let s := (s.emitEnd h c 3).writeImage h c n
        let s := (s.keepImage h c n).leave h c
        let s := s.modPart x.part (fun q => { q with preempt := none })
        .next (s.ringFront x.part x.task.prio { addr := x.task.addr, img := n + 1 })

/-! ## Trap records (R416) -/

/-- TRAP_RECORD_WRITE: the oldest waiting record goes to the trap ring while it has room (R416). -/
def execTrapRecordWrite (p : Nat) (s : State) : Res :=
  match (s.part p).traps with
  | [] => .next s
  | t :: r =>
    let size := 2 ^ bitsOf (s.preg p 0x1A0) 4 0
    let hd := (s.part p).tqHead
    -- a record of the present cycle may still give way to one of a lower agent code (R419)
    if size ≤ hd - s.preg p 0x1B0 || decide (s.gcc ≤ (t.words.getD 2 0).toNat) then .next s
    else
      let s := s.hwWords (bitsOf (s.preg p 0x198) 51 12 * 4096 + 128 * (hd % size)) t.words
      .next (s.modPart p (fun q => { q with traps := r, tqHead := hd + 1 }))

/-! ## The watchdog (R418) -/

/-- The code of a wait kind in word 8 (R417): a wait that the list does not name has a free code (notes/assumptions/5). -/
def waitCode (tick : Nat) : WaitK → Nat
  | .ppop => 0 | .cmpwait => 1 | .nbwait => 2 | .causeway => 3 | .version => 4 | .page => 5 | .cas => 6
  | .other => Config.freeNat tick 0 % 16

/-- The cycle at which an agent parked on the fault of a token. -/
def State.faultSince (s : State) (p tok : Nat) : Nat := ((s.faultTok p tok).map (·.since)).getD s.gcc

/-- An agent waits longer than the limit: WDLIM units of 65,536 cy, 0 none (R418). -/
def State.overdue (s : State) (p since : Nat) : Bool :=
  let w := bitsOf (s.preg p 0x128) 39 24
  w != 0 && decide (65536 * w < s.gcc - since)

/-- The watchdog looks at a context that runs, be it about to stop, and is not halted (R331, R418). -/
def State.watched (s : State) (k : Nat) : Bool :=
  let x := s.ctx k
  (x.st == .running || x.st == .stopping) && x.trapped.isNone && !x.halted

/-- An atomic that the I/O stop performs as a loop of reads and CASes (R350). -/
def Ext.loops (e : Ext) : Bool :=
  let native : Bool := match e.op with
    | .swap | .cas => true
    | .add => (match e.who with | .thread .. => false | _ => true)
    | _ => false
  e.kind == 2 && !native && (match e.tgt with | .host false .. => true | _ => false)

/-- The kind of a wait that its instruction does not name: a CAS loop, a page request that the host has not answered, or another (R350,
R360, R417). -/
def State.waitKind (s : State) (cas page : Who → Bool) : WaitK :=
  if s.exts.any (fun e => e.loops && cas e.who) then .cas
  else if s.ats.any (fun a => a.prg && page a.walk.who) then .page
  else .other

/-- The wait of an agent: its kind and when it began. A parked agent waits for a page. -/
def State.waitOf (s : State) (p : Nat) (fault : Option Nat) (w : Option Wait) : Option (WaitK × Nat) :=
  match fault, w with
  | some tok, _ => some (.page, s.faultSince p tok)
  | none, some w => some (w.kind, w.since)
  | none, none => none

/-- The wait of a thread: one that its instruction names, or of the instruction itself since it was first tried (R418). -/
def State.threadWait (s : State) (h t : Nat) : Option (WaitK × Nat) :=
  let th := s.thread (tkey h t)
  let me (w : Who) : Bool := w == .thread h t
  match s.waitOf (s.ctx (ckey h th.ctx)).part th.fault th.wait with
  | some q => some q
  | none => if th.since = 0 then none else some (s.waitKind me me, th.since - 1)

/-- The wait of the word at which a group stands: at a WAIT or FENCE (event 0x08) it may be for a CAS loop, at a walk (event 0x09) for a
page. -/
def State.groupWait (s : State) (h g : Nat) : Option (WaitK × Nat) :=
  let gr := s.group (ckey h g)
  match s.waitOf (s.ctx (ckey h g)).part gr.fault gr.wait with
  | some (.other, t) =>
    let ev := (gr.wait.map (·.b)).getD 0
    some (s.waitKind (fun w => ev == 8 && (match w with | .lane i j _ _ => i == h && j == g | _ => false)) (fun w => ev == 9 && w == .group h g), t)
  | r => r

/-- The wait of a command that has been launched. -/
def State.cmdWaits (s : State) (q n : Nat) : Option (WaitK × Nat) :=
  let c := s.cmd q n
  let me (w : Who) : Bool := w == .cmd q n
  match s.waitOf (s.engPart q) c.fault none with
  | some r => some r
  | none => some (s.waitKind me me, c.since)

/-- The wait of a queue: that of the word at its head, or of the script that it fetches. -/
def State.queueWait (s : State) (q : Nat) : Option (WaitK × Nat) :=
  let e := s.eng q
  match s.waitOf (s.engPart q) e.fetchFault none with
  | some r => some r
  | none => if e.since = 0 then none else some (s.waitKind (fun _ => false) (· == .script q), e.since - 1)

/-- A wait that has passed the limit, with its kind (R418). -/
def State.late (s : State) (k p : Nat) (runs : Bool) (w : Option (WaitK × Nat)) : Option WaitK :=
  match w with
  | some (kd, since) => if s.watched k && runs && s.overdue p since then some kd else none
  | none => none

/-- The late wait of a thread. -/
def State.threadLate (s : State) (h t : Nat) : Option WaitK :=
  let th := s.thread (tkey h t)
  let k := ckey h th.ctx
  s.late k (s.ctx k).part (th.st == .running) (s.threadWait h t)

/-- The late wait of a lane word. -/
def State.groupLate (s : State) (h g : Nat) : Option WaitK := s.late (ckey h g) (s.ctx (ckey h g)).part true (s.groupWait h g)

/-- The late wait of a task's command. -/
def State.cmdLate (s : State) (q n : Nat) : Option WaitK :=
  if 4096 ≤ q then none else s.late (engKey q) (s.engPart q) (s.cmd q n).running (s.cmdWaits q n)

/-- The late wait of a task's queue. -/
def State.queueLate (s : State) (q : Nat) : Option WaitK := if 4096 ≤ q then none else s.late (engKey q) (s.engPart q) true (s.queueWait q)

/-- A thread of a context waits too long. -/
def State.anyThreadLate (s : State) (h c : Nat) : Bool := (s.liveThreads h c).any (fun t => (s.threadLate h t).isSome)

/-- An engine of a context with a lower agent code than queue q's has a word or a command that waits too long. -/
def State.lowerCmdLate (s : State) (q : Nat) : Bool :=
  (natsFrom 0 4).any (fun e => decide (e < engCode q) && (let r := 4 * (q / 4) + e
    (s.queueLate r).isSome || (s.eng r).cmds.any (fun (n, _) => (s.cmdLate r n).isSome)))

/-- The executing lanes of the word at which a group stands (R187, R416). -/
def State.wordLanes (s : State) (h g : Nat) : Nat :=
  let s := { s with focus := { h := h, t := g } }
  let b := (s.group (ckey h g)).blk.getD {}
  let gd := guardOf (laneFields (b.body.getD b.w 0)).g
  (if stageOn b gd then s.executing gd else 0).toNat

/-- The PC of the ESEND or ERUN that delivered a queue's head word, or that of the script being fetched (R416). -/
def EngQ.headPc (e : EngQ) : Nat :=
  match e.words.head?, e.fetch with
  | some w, _ => w.pc
  | none, some (_, _, pc, _) => pc
  | none, none => 0

/-- An engine of a task may record the late wait: no agent of a lower code has one (R419). -/
def State.engineFirst (s : State) (q : Nat) : Bool :=
  !(s.anyThreadLate (engHearth q) (engCtx q) || (s.groupLate (engHearth q) (engCtx q)).isSome || s.lowerCmdLate q)

/-- WATCHDOG_EXPIRE: a wait of a thread, a lane word, an engine word or a command that has passed the limit traps with 0x18 (R418); of two agents of a task
that trap in one cycle, the one with the lower code (R419). -/
def execWatchdogExpire (w : WaitAt) (s : State) : Res :=
  match w with
  | .thread h t =>
    let th := s.thread (tkey h t)
    (match s.threadLate h t with
     | some kd => .next (s.takeTrap h th.ctx { cause := 0x18, mask := th.mask.toNat, slot := th.slot, pc := th.pc.toNat,
                                               d8 := waitCode s.tick kd, who := .thread h t })
     | none => .next s)
  | .group h g =>
    let gr := s.group (ckey h g)
    let b := gr.blk.getD {}
    (match s.groupLate h g with
     | some kd =>
       if s.anyThreadLate h g then .next s
       else .next (s.takeTrap h g { cause := 0x18, agent := 1, mask := s.wordLanes h g, slot := b.slot, pos := some (blkPos b),
                                    d8 := waitCode s.tick kd, who := .group h g })
     | none => .next s)
  | .command q n =>
    let h := engHearth q
    let g := engCtx q
    (match s.cmdLate q n with
     | some kd =>
       if !s.engineFirst q then .next s
       else .next (s.takeTrap h g { cause := 0x18, agent := 2 + engCode q, pc := (s.cmd q n).pc,
                                    d8 := waitCode s.tick kd, who := .cmd q n })
     | none => .next s)
  | .queue q =>
    (match s.queueLate q with
     | some kd =>
       if !s.engineFirst q then .next s
       else .next (s.takeTrap (engHearth q) (engCtx q)
         { cause := 0x18, agent := 2 + engCode q, d8 := waitCode s.tick kd, who := .script q, pc := (s.eng q).headPc })
     | none => .next s)

/-- A wait passes the limit in this cycle (R418). -/
def State.watchDue (s : State) : Bool :=
  s.threads.any (fun (k, _) => (s.threadLate (k / 8) (k % 8)).isSome) || s.groups.any (fun (k, _) => (s.groupLate (k / 4) (k % 4)).isSome)
    || s.engs.any (fun (q, e) => (s.queueLate q).isSome || e.cmds.any (fun (n, _) => (s.cmdLate q n).isSome))

/-! ## The driver's answer (R419) -/

/-- The outstanding trap of a token. -/
def State.trapTok (s : State) (p token : Nat) : Option TrapTok := (s.part p).trapToks.find? (fun t => t.token == token)

/-- A token is answered. -/
def State.dropTrapTok (s : State) (p token : Nat) : State :=
  s.modPart p (fun q => { q with trapToks := q.trapToks.filter (fun t => t.token != token) })

/-- Every wait of a context counts from the present cycle on: it has resumed (R418, R419). -/
def State.rewait (s : State) (h c : Nat) : State :=
  let k := ckey h c
  let again (x : Option Wait) : Option Wait := x.map (fun x => { x with since := s.gcc })
  let from1 (n : Nat) : Nat := if n = 0 then 0 else s.gcc + 1
  let s := (s.liveThreads h c).foldl (fun s t => s.modThread (tkey h t) (fun th => { th with wait := again th.wait, since := from1 th.since })) s
  let s := s.modGroup k (fun gr => { gr with wait := again gr.wait })
  let s := (natsFrom 0 4).foldl (fun s e => s.modEng (qkey h c e) (fun q => { q with
    since := from1 q.since, cmds := q.cmds.map (fun (m : Nat × Cmd) => (m.1, { m.2 with since := s.gcc })) })) s
  s.modPart (s.ctx k).part (fun q => { q with faultToks := q.faultToks.map (fun (f : FaultTok) => if s.ofCtx k f.who then { f with since := s.gcc } else f) })

/-- Where the stopped agent goes on: behind a BRK or EBREAK; at the stopped word or instruction with its comparator suppressed
once; at its wait (R238, R333, R419). -/
def State.resumeAgent (s : State) (t : TrapTok) : State :=
  let s := s.rewait t.h t.c
  if t.cause = 0x18 then s
  else
    match t.who with
    | .thread h i =>
      s.modThread (tkey h i) (fun th =>
        if t.sub = 0 then { th with pc := th.pc + BitVec.ofNat 64 (th.suppress.headD 4), suppress := [], instret := th.instret + 1, since := 0 }
        else { th with suppress := th.suppress ++ [8 * t.sub + t.d8] })
    | .group h g =>
      if t.sub = 0 then State.wordDone { s with focus := { h := h, t := g } }
      else s.modGroup (ckey h g) (fun gr => { gr with suppress := gr.suppress ++ [8 * t.sub + t.d8] })
    | _ => s

/-- TACT with ACT = 00: a task that stopped for a breakpoint or the watchdog continues; for another cause, or without the token, the
write is dropped (R419). -/
def execTactResume (p token : Nat) (s : State) : Res :=
  match s.trapTok p token with
  | none => .next s
  | some t =>
    if t.cause != 0x17 && t.cause != 0x18 then .next s
    else
      let s := (s.dropTrapTok p token).modCtx (ckey t.h t.c) (fun x => { x with trapped := none })
      .next (s.resumeAgent t)

/-! ## Dumps (R420) -/

/-- A pending store: its 128-byte line, enabled bytes with their data, scope, class and agent. -/
structure PStore where
  line : Nat := 0
  off : Nat := 0
  bytes : List (Option Byte) := []
  scope : Nat := 1
  cls : Nat := 0
  agent : Nat := 1
deriving DecidableEq, Repr, Inhabited

/-- The address of a target as a dump gives it. -/
def Tgt.num : Tgt → Nat
  | .dev pa => pa
  | .win _ _ va => va
  | .host _ _ a _ => a
  | .peer _ _ o => o

/-- The pending stores of a context in the order of their agents: the dirty lines of its L1, the accesses of its lanes that have not been sent, the
stores of its commands that are held (R420; notes/assumptions/58). -/
def State.pendingStores (s : State) (k : Nat) : List PStore :=
  let ops := (s.group k).ops.map (fun (o : LaneOp) =>
    let stores : Bool := match o.kind with | .load _ => false | .priv st => st | .stx => false | _ => o.cls != .t
    if stores then (o.acc.filter (fun (a : LaneAcc) => a.ready && !a.done && !a.x.out)).map (fun (a : LaneAcc) =>
      ({ line := a.tgt.num / 128 * 128, off := a.tgt.num % 128, bytes := (bytesOf a.a o.width).map some,
         scope := o.scope, cls := o.acls } : PStore)) else [])
  let l1 := (s.l1.filter (fun (_, e) => e.ctx == k && e.dirty != 0)).map (fun (_, e) =>
    ({ line := e.tgt.num / 128 * 128, off := e.tgt.num % 128, scope := 0, cls := e.cls, agent := e.agent
       bytes := (natsFrom 0 32).map (fun i => if e.dirty.testBit i then some (e.data.getD i 0) else none) } : PStore))
  let cmds := (natsFrom 0 4).map (fun i => (s.eng (4 * k + i)).cmds.filterMap (fun (c : Nat × Cmd) => c.2.held.map (fun (t, bs, cls) =>
    ({ line := t.num / 128 * 128, off := t.num % 128, bytes := bs.map some, scope := t.scopeOf 1, cls := cls, agent := 2 + i } : PStore))))
  l1.filter (fun e => e.agent == 0) ++ (l1.filter (fun e => e.agent == 1) ++ ops.flatten) ++ cmds.flatten
    ++ l1.filter (fun e => decide (1 < e.agent))

/-- The 160 bytes of a dump entry (R420). -/
def PStore.entry (e : PStore) (i : Nat) : List Byte :=
  let at' (j : Nat) : Option Byte := if e.off ≤ j then (e.bytes.getD (j - e.off) none) else none
  let en := (natsFrom 0 128).foldl (fun m j => if (at' j).isSome then m + 2 ^ j else m) 0
  bytesOf (e.line % 2 ^ 52) 8 ++ bytesOf (e.scope + 4 * e.cls + 16 * e.agent + i * 2 ^ 32) 8 ++ bytesOf en 16
    ++ (natsFrom 0 128).map (fun j => (at' j).getD 0)

/-- Write the entries of a dump. -/
def State.putDump (s : State) (a : Nat) : List PStore → Nat → State
  | [], _ => s
  | e :: r, i => (s.hwBytes a (e.entry i)).putDump (a + 160) r (i + 1)

/-- The header and one entry for each pending store of a trapped task go to the dump area (R420). -/
def State.dump (s : State) (p : Nat) (t : TrapTok) : State :=
  let a := bitsOf (s.preg p 0x1C0) 51 6 * 64
  let es := s.pendingStores (ckey t.h t.c)
  let s := s.hwBytes a (bytesOf t.token 8 ++ bytesOf es.length 8 ++ bytesOf s.gcc 8 ++ bytesOf 0 40)
  s.putDump (a + 64) es 0

/-! ## Kills (R421, R112, R437, R445) -/

/-- Withdraw the arrivals and contributions of a context to instances that have not released (R112). -/
def Chan.withdraw (c : Chan) (k : Nat) : Chan :=
  { c with here := c.here.filter (· != k), early := c.early.filter (· != k), oldHere := c.oldHere.filter (· != k),
           oldEarly := c.oldEarly.filter (· != k), contrib := Map.erase c.contrib k,
           contribE := Map.erase c.contribE k, held := if c.cfg.sender = k then none else c.held }

/-- A kill of a context begins (R421 steps 1 and 2): its engines take no further words and their commands end, its channel state is
withdrawn, every home takes the next epoch, and what the homes have not performed for it is refused: pushes, walks and decrements that wait
go with it (notes/assumptions/99). A context that is being killed already is left. -/
def State.startKill (s : State) (p h c : Nat) (counted : Bool) : State :=
  let k := ckey h c
  if (s.part p).kills.any (fun q => q.h == h && q.c == c) then s
  else
    let s := { s with chans := s.chans.map (fun (c : Nat × Chan) => (c.1, c.2.withdraw k)) }
    let s := (natsFrom 0 4).foldl (fun s e => s.modEng (qkey h c e) (fun (q : EngQ) => { q with words := [], fetch := none, items := [], cmds := [] })) s
    let mine := s.ofCtx k
    let s := s.modPart p (fun q => { q with
      pushes := q.pushes.filter (fun w => !mine w.who), fans := q.fans.filter (fun f => !mine f.who), decs := q.decs.filter (fun d => !mine d.who)
      kills := q.kills ++ [{ h := h, c := c, counted := counted }]
      kIssued := if counted then (q.kIssued + 1) % 2 ^ 32 else q.kIssued
      preempt := if q.preempt = some k then none else q.preempt
      trapToks := q.trapToks.filter (fun t => !(t.h == h && t.c == c)) })
    s.modCtx k (fun (x : Ctx) => { x with
      st := if x.st == .idle then .idle else .killing, rx := [], signal := none, epoch := (x.epoch + 1) % 256 })

/-- KILL of one context: accepted while the partition runs or drains, for a hearth of it, once the previous kill of the context is
done (R400, R421). -/
def execKill (p h c : Nat) (s : State) : Res :=
  let q := s.part p
  if (q.state == 1 || q.state == 2) && q.hset.testBit h && !q.kills.any (fun r => r.h == h && r.c == c) then
    .next (s.startKill p h c true)
  else .next s

/-- A kill of every context of a partition (R421): copy records end without completion (R27), queue pairs go to STATE 00 (R445). -/
def State.startKillAll (s : State) (p : Nat) : State :=
  if (s.part p).state = 0 || (s.part p).state = 3 then s
  else
    let s := s.modPart p (fun q => { q with state := 3, kIssued := (q.kIssued + 1) % 2 ^ 32, pushes := [], decs := [], fans := [] })
    let s := (bitsSet (s.part p).hset 192).foldl (fun s h => (natsFrom 0 4).foldl (fun s c => s.startKill p h c false) s) s
    let s := { s with engs := s.engs.map (fun (e : Nat × EngQ) =>
      (e.1, match e.2.crec with | some (q, _) => if q = p then {} else e.2 | none => e.2)) }
    { s with qps := s.qps.map (fun (q : Nat × Qp) => (q.1, if q.2.inService && q.2.part = p then {} else q.2)) }

/-- KILL with ALL: every context of the partition is killed, and STATE is 11 until they are done (R421). -/
def execKillAll (p : Nat) (s : State) : Res := .next (s.startKillAll p)

/-- TACT with ACT = 01: the trapped context is killed (R419, R421). -/
def execTactKillContext (p token : Nat) (s : State) : Res :=
  match s.trapTok p token with
  | none => .next s
  | some t => .next ((s.dropTrapTok p token).startKill p t.h t.c true)

/-- TACT with ACT = 10: every context of the partition is killed (R419, R421). -/
def execTactKillPartition (p token : Nat) (s : State) : Res :=
  match s.trapTok p token with
  | none => .next s
  | some _ => .next ((s.dropTrapTok p token).startKillAll p)

/-- TACT with DUMP = 1: the dump of a trapped task comes before the action that the same write names; a reserved action, or a resume after a
cause that allows none, drops the write (R400, R419, R420). -/
def execTactDump (p token act : Nat) (s : State) : Res :=
  match s.trapTok p token with
  | none => .next s
  | some t =>
    if act = 0 then (if t.cause = 0x17 || t.cause = 0x18 then execTactResume p token (s.dump p t) else .next s)
    else if act = 1 then execTactKillContext p token (s.dump p t)
    else if act = 2 then execTactKillPartition p token (s.dump p t)
    else .next s

/-- Requests of peers for a partition that have been accepted and not performed (R437). -/
def State.peersQuiet (s : State) (p : Nat) : Bool := !s.reqs.any (fun r => r.src == 3 && r.part == p)

/-- A killed context falls idle: its L1 lines, private memory, held stores and image slot are dropped, and its record neither
completes nor decrements its successors (R421 step 4). -/
def State.dropKilled (s : State) (p h c : Nat) : State :=
  let k := ckey h c
  let mine := s.ofCtx k
  let free (w : Who) : Who := if mine w then .nobody else w
  -- what comes for its agents from now on reaches nobody
  let s : State := { s with
    reqs := s.reqs.map (fun r => { r with who := free r.who }), reps := s.reps.map (fun r => { r with who := free r.who })
    exts := s.exts.map (fun e => { e with who := free e.who }), stxs := s.stxs.map (fun x => { x with who := free x.who })
    recalls := s.recalls.map (fun r => { r with own := (r.own.1, free r.own.2) })
    walks := s.walks.filter (fun w => !mine w.who), ats := s.ats.filter (fun a => !mine a.walk.who) }
  let s := match (s.ctx k).slot with
    | some n => s.modPart p (fun q => { q with slots := Map.erase q.slots n })
    | none => s
  let s := s.modPart p (fun q => { q with faultToks := q.faultToks.filter (fun t => !mine t.who) })
  let s := s.leave h c
  let s := s.modGroup k (fun g => { v := g.v, acc := g.acc, everRan := g.everRan, lastPart := g.lastPart, nextIssue := g.nextIssue })
  { s with l1 := s.l1.filter (fun (_, e) => e.ctx != k) }

/-- KILL_DONE: once every write that the context has sent is answered, its state is dropped and DONE advances; the kill of a
partition ends when all its contexts are done, no accepted peer request is left, and STATE is 00 again (R421, R437). -/
def execKillDone (p h c : Nat) (s : State) : Res :=
  let q := s.part p
  match q.kills.find? (fun r => r.h == h && r.c == c) with
  | none => .next s
  | some r =>
    let last := q.state == 3 && q.kills.length == 1
    if !s.writesAnswered (ckey h c) || (last && !s.peersQuiet p) then .next s
    else
      let s := s.dropKilled p h c
      .next (s.modPart p (fun q => { q with
        kills := q.kills.filter (fun q => !(q.h == h && q.c == c))
        kDone := (q.kDone + boolNat r.counted + boolNat last) % 2 ^ 32
        state := if last then 0 else q.state }))

end Sys2Proof.Machine
end

