-- ==== Sys2Proof/Machine/Partitions.lean ====
section
/-! DEFINITION. Partitions: launch windows, the checks and the latching of a start, stop and drain, clock steps, budget periods
(spec/15 R324, R325; spec/20 R400-R408; spec/21 R424). -/

namespace Sys2Proof.Machine

/-! ## Launch windows (R324, R325) -/

/-- Pushes that a launch window holds. -/
def State.heldPushes (s : State) (p : Nat) : Nat := ((s.part p).pushes.filter (·.window)).length

/-- A push that LPUSH refuses (R325). -/
def State.pushRefused (s : State) (p v : Nat) : Bool :=
  v % 64 != 0 || decide (2 ^ 52 ≤ v) || (match s.walkPt p v with | .ok .. => false | _ => true)
    || decide (16 ≤ s.heldPushes p) || (s.part p).state != 1

/-- LAUNCH_PUSH: a refused write sets ERR and pushes nothing; another is held in the window, where its record is read for its level (R325). -/
def execLaunchPush (p : Nat) (v : BitVec 64) (s : State) : Res :=
  if !s.boot.up then .next s
  else .next (s.modPart p (fun q => if s.pushRefused p v.toNat then { q with lerr := 1 }
    else { q with pushes := q.pushes ++ [{ addr := v.toNat, level := 256, window := true }] }))

/-- LAUNCH_CLEAR: any write to LCLR clears ERR (R324). -/
def execLaunchClear (p : Nat) (s : State) : Res := .next (s.modPart p (fun q => { q with lerr := 0 }))

/-! ## What a start reads (R400, R403-R406, R423, R424) -/

/-- The hearth set that HSET0-HSET2 hold. -/
def State.hsetReg (s : State) (p : Nat) : Nat := s.preg p 0x110 + 2 ^ 64 * s.preg p 0x118 + 2 ^ 128 * s.preg p 0x120

/-- The hearth enable map in force (R423, R424). -/
def State.hen (s : State) : Nat := s.recNum 24 24

/-- The hearths of a set. -/
def hearthsOf (m : Nat) : List Nat := bitsSet m 192

/-- A is a subset of B, as bit sets. -/
def bitsIn (a b : Nat) : Bool := (a &&& b) == a

/-- Copy engines of the hearths of a set (R403). -/
def enginesOfSet (m : Nat) : Nat := (hearthsOf m).foldl (fun a h => a ||| 2 ^ hearthEng h) 0

/-- The first number below n, counted from i, that fails a check. -/
def firstBad (f : Nat → Bool) : Nat → Nat → Option Nat
  | _, 0 => none
  | i, n + 1 => if f i then some i else firstBad f (i + 1) n

/-- The other running partitions. -/
def State.others (s : State) (p : Nat) : List Nat := (natsFrom 0 16).filter (fun q => q != p && (s.part q).state != 0)

/-! ### Affinity table (R401, R403) -/

/-- The 64 bytes of class c. -/
def State.affEntry (s : State) (p c : Nat) : List Byte := s.bytes (bitsOf (s.preg p 0x140) 51 6 * 64 + 64 * (c - 1)) 64

/-- The class of an entry: `none` while DEF = 0. -/
def affOf (e : List Byte) : Option AffCls :=
  if natOfBytes (sliceOf e 56 1) % 2 = 1 then some { hset := natOfBytes (sliceOf e 0 24), eset := natOfBytes (sliceOf e 24 32) } else none

/-- An engine that is no hearth's: a home's or an I/O stop's (R403). -/
def freeEngines : Nat := (natsFrom 0 256).foldl (fun a e => if 48 ≤ e % 64 then a ||| 2 ^ e else a) 0

/-- A class that fails the start (ERR 2): a reserved bit, a hearth outside HSET, a copy engine outside the partition or named by
another running partition. -/
def State.affBad (s : State) (p c : Nat) : Bool :=
  let e := s.affEntry p c
  match affOf e with
  | none => false
  | some a =>
    let hs := s.hsetReg p
    natOfBytes (sliceOf e 56 1) / 2 != 0 || natOfBytes (sliceOf e 57 7) != 0 || !bitsIn a.hset hs
      || !bitsIn a.eset (enginesOfSet hs ||| freeEngines)
      || (s.others p).any (fun q => (a.eset &&& s.partEngines q) != 0)

/-- The classes of a start. -/
def State.affMap (s : State) (p : Nat) : Map AffCls :=
  (natsFrom 1 255).filterMap (fun c => (affOf (s.affEntry p c)).map (fun a => (c, a)))

/-! ### Channel table (R104, R404) -/

/-- The 128 bytes of a channel entry. -/
def State.chEntry (s : State) (p i : Nat) : List Byte := s.bytes (bitsOf (s.preg p 0x180) 51 7 * 128 + 128 * i) 128

/-- The channel of an entry; the phase length is its field plus 1. -/
def chOf (e : List Byte) : ChCfg :=
  let snd := natOfBytes (sliceOf e 104 2)
  let mem := natOfBytes (sliceOf e 0 96)
  { kind := natOfBytes (sliceOf e 96 1) % 8, members := bitsSet mem 768, sender := ckey (snd % 256) (snd / 256 % 4)
    lph := natOfBytes (sliceOf e 102 2) + 1 }

/-- A barrier entry of the table (R404). -/
def barrierSlot (i : Nat) : Bool := decide (i < 256) || (decide (320 ≤ i) && decide (i < 352))
/-- The die of a die channel. -/
def chDie (i : Nat) : Option Nat := if i < 256 then some (i / 64) else if i < 320 then some ((i - 256) / 16) else none

/-- A channel entry that fails the start (ERR 3). The sender of a BCAST must be a member (DEDUCED, notes/assumptions/31). -/
def State.chBad (s : State) (p i : Nat) : Bool :=
  let e := s.chEntry p i
  let c := chOf e
  if c.kind = 0 then e.any (· != 0)
  else
    let snd := natOfBytes (sliceOf e 104 2)
    natOfBytes (sliceOf e 96 1) / 8 != 0 || (sliceOf e 97 5).any (· != 0) || (sliceOf e 106 22).any (· != 0)
      || decide (5 < c.kind) || barrierSlot i != decide (c.kind ≤ 3)
      || (if c.kind = 3 then decide (c.lph < 256) else c.lph != 1)
      || (if c.kind = 4 then decide (1024 ≤ snd) || !c.members.contains c.sender else snd != 0)
      || decide (c.members.length < 2) || !c.members.all (fun k => (s.hsetReg p).testBit (k / 4))
      || (match chDie i with | some d => !c.members.all (fun k => k / 192 == d) | none => false)
      || ((c.kind == 2 || c.kind == 3) && (c.members.map (· / 4)).eraseDups.length != c.members.length)
      || (match (s.chan i).part with | some q => q != p && (s.part q).state != 0 | none => false)

/-- The channels of a start: those of the table, and none of this partition's earlier ones. -/
def State.chanMap (s : State) (p : Nat) : Map Chan :=
  let mine := (natsFrom 0 384).filterMap (fun i =>
    let c := chOf (s.chEntry p i)
    if c.kind = 0 then none else some (i, c))
  let rest := s.chans.filter (fun (c : Nat × Chan) => c.2.part != some p)
  mine.foldl (fun (m : Map Chan) (c : Nat × ChCfg) => Map.put m c.1 { part := some p, cfg := c.2 }) rest

/-! ### Tree table (R405) -/

/-- The address of a tree entry. -/
def State.treeAddr (s : State) (p k : Nat) : Nat := bitsOf (s.preg p 0x188) 51 10 * 1024 + 1024 * k

/-- A node word. -/
def nodeOf (w : Nat) : Node := { kind := w % 4, unit := bitsOf w 11 2, parent := bitsOf w 18 12, port := bitsOf w 20 19 }

/-- The words of a tree entry that its node count covers. -/
def State.treeNodes (s : State) (p k : Nat) : List Nat :=
  (natsFrom 0 (bitsOf (s.num (s.treeAddr p k) 8) 23 17)).map (fun i => s.num (s.treeAddr p k + 16 + 8 * i) 8)

/-- A tree entry, if it is defined. -/
def State.treeOf (s : State) (p k : Nat) : Option Tree :=
  let w := s.num (s.treeAddr p k) 8
  let d := s.num (s.treeAddr p k + 8) 8
  if w % 2 = 0 then none
  else some { inTy := bitsOf w 2 1, outTy := bitsOf w 4 3, thr := bitsOf w 16 5, dest := bitsOf d 51 0, cls := bitsOf d 53 52
              nodes := (s.treeNodes p k).map nodeOf }

/-- The chain of parents of a node reaches the root within n steps. -/
def reachesRoot (ns : List Node) : Nat → Nat → Bool
  | 0, _ => false
  | f + 1, i => match ns[i]? with
    | none => false
    | some n => if n.parent = 127 then true else reachesRoot ns f n.parent

/-- A pair of types that a tree may have (R405). -/
def typesOk (i o : Nat) : Bool := if i = 2 then o == 2 else decide (i < 2) && decide (o < 2)

/-- A node that breaks R405 in the tree of nodes `ns`. -/
def nodeBad (ns : List Node) (hs es i : Nat) (n : Node) : Bool :=
  n.kind == 3
    || (n.parent != 127 && (match ns[n.parent]? with | some q => q.kind == 0 | none => true))
    || (n.parent != 127 && (ns.zipIdx.any (fun (q : Node × Nat) => q.2 != i && q.1.parent == n.parent && q.1.port == n.port)))
    || (n.kind == 0 && (!es.testBit n.unit || ns.zipIdx.any (fun (q : Node × Nat) => q.2 != i && q.1.kind == 0 && q.1.unit == n.unit)))
    || (n.kind == 1 && (decide (192 ≤ n.unit) || !hs.testBit n.unit || !ns.any (fun q => q.parent == i)))
    || (n.kind == 2 && n.unit != 0)
    || (n.parent == 127 && n.kind == 0)
    || !reachesRoot ns 127 i

/-- A tree entry that fails the start (ERR 4). -/
def State.treeBad (s : State) (p : Nat) (es k : Nat) : Bool :=
  match s.treeOf p k with
  | none => false
  | some t =>
    let w := s.num (s.treeAddr p k) 8
    let n := bitsOf w 23 17
    w / 2 ^ 24 != 0 || s.num (s.treeAddr p k + 8) 8 / 2 ^ 54 != 0 || !typesOk t.inTy t.outTy || t.thr == 0
      || decide (n < 2) || decide (126 < n) || (s.treeNodes p k).any (fun w => w / 2 ^ 21 != 0)
      || (t.nodes.filter (fun n => n.parent == 127)).length != 1
      || t.nodes.zipIdx.any (fun (q : Node × Nat) => nodeBad t.nodes (s.hsetReg p) es q.2 q.1)

/-! ### Wiring table (R406) -/

/-- The wiring entry of a hearth. -/
def State.wireEntry (s : State) (p h : Nat) : Nat := s.num (bitsOf (s.preg p 0x190) 51 12 * 4096 + 8 * h) 8

/-- Package grid coordinates of a hearth (R8, R9). -/
def gridOf (h : Nat) : Nat × Nat := (Stop.hearth h).grid

/-- The peer of a port lies where R406 asks: the grid neighbour, the row, the column. -/
def portOk (h q peer : Nat) : Bool :=
  let (x, y) := gridOf h
  let (u, v) := gridOf peer
  if q = 0 then u == x + 1 && v == y
  else if q = 1 then u + 1 == x && v == y
  else if q = 2 then u == x && v == y + 1
  else if q = 3 then u == x && v + 1 == y
  else if q = 4 then v == y else u == x

/-- A wiring entry that fails the start (ERR 5). -/
def State.wireBad (s : State) (p h : Nat) : Bool :=
  let hs := s.hsetReg p
  let e := s.wireEntry p h
  hs.testBit h && (e / 2 ^ 54 != 0 || (natsFrom 0 6).any (fun q =>
    bitOf e (48 + q) && (let peer := e / 2 ^ (8 * q) % 256
      decide (192 ≤ peer) || !hs.testBit peer || !portOk h q peer
        || (let f := s.wireEntry p peer
            let o := (if q = 0 then 1 else if q = 1 then 0 else if q = 2 then 3 else if q = 3 then 2 else q)
            !bitOf f (48 + o) || f / 2 ^ (8 * o) % 256 != h))))

/-! ### ERR 1, 6 and 7 -/

/-- ERR 1: HSET is empty, shares a hearth with another partition that is not stopped, or names a disabled hearth (R401, R424). -/
def State.hsetBad (s : State) (p : Nat) : Bool :=
  let hs := s.hsetReg p
  hs == 0 || !bitsIn hs s.hen || (s.others p).any (fun q => (hs &&& (s.part q).hset) != 0)

/-- Two ranges of addresses share a byte. -/
def overlap (a n b m : Nat) : Bool := decide (0 < n) && decide (0 < m) && decide (a < b + m) && decide (b < a + n)

/-- A PSTEP word that asks a disabled step, or a step of a hearth outside the set (R400, R424). -/
def State.pstepBad (s : State) (hs i v : Nat) : Bool :=
  (natsFrom 0 32).any (fun b =>
    let c := bitsOf v (2 * b + 1) (2 * b)
    let h := 32 * i + b
    (!hs.testBit h && c != 0) || (hs.testBit h && s.stepOff (h / 48) c))

/-- ERR 6 (R401). -/
def State.paramBad (s : State) (p : Nat) : Bool :=
  let w := s.preg p 0x128
  let lease := bitsOf w 14 0
  let pth := bitsOf w 23 16
  let sz := s.preg p 0x138
  let rq := s.preg p 0x150
  let ready := (bitsOf (s.preg p 0x148) 51 12 * 4096, 16 * 2 ^ rq * 256)
  let img := (bitsOf (s.preg p 0x168) 51 16 * 65536, 0x440000 * s.preg p 0x170)
  let trap := (bitsOf (s.preg p 0x198) 51 12 * 4096, 128 * 2 ^ bitsOf (s.preg p 0x1A0) 4 0)
  decide (lease < 256) || decide (16384 < lease) || pth == 0 || sz == 0 || decide (256 < sz) || decide (rq < 6) || decide (20 < rq)
    || overlap ready.1 ready.2 img.1 img.2 || overlap ready.1 ready.2 trap.1 trap.2 || overlap img.1 img.2 trap.1 trap.2
    || (natsFrom 0 6).any (fun i => s.pstepBad (s.hsetReg p) i (s.preg p (0x210 + 8 * i)))

/-- ERR 7: a cluster with a member outside HSET or disabled (R16, R401). -/
def State.fuseBad (s : State) (p n : Nat) : Bool :=
  (s.preg p 0x1F8).testBit n && (natsFrom 0 4).any (fun m =>
    !(s.hsetReg p).testBit (clusterMember n m) || !s.hen.testBit (clusterMember n m))

/-- The copy engines that a start gives the partition (R401). -/
def State.startEngines (s : State) (p : Nat) : Nat :=
  (s.affMap p).foldl (fun (a : Nat) (c : Nat × AffCls) => a ||| c.2.eset) (enginesOfSet (s.hsetReg p))

/-- The first failed check of a start, as ERR and ERRIDX: the class, channel, tree, hearth or cluster number; for a check of no table
the index is free (R401; notes/assumptions/32). -/
def State.startErr (s : State) (p : Nat) : Option (Nat × Nat) :=
  let free := Config.freeNat s.tick 0 % 2 ^ 32
  if s.hsetBad p then some (1, free)
  else match firstBad (s.affBad p) 1 255 with
    | some c => some (2, c)
    | none => match firstBad (s.chBad p) 0 384 with
      | some i => some (3, i)
      | none => match firstBad (s.treeBad p (s.startEngines p)) 0 256 with
        | some k => some (4, k)
        | none => match firstBad (s.wireBad p) 0 192 with
          | some h => some (5, h)
          | none =>
            if s.paramBad p then some (6, free)
            else (firstBad (s.fuseBad p) 0 48).map (fun n => (7, n))

/-- A target in a shadowed tensor's window of a partition. -/
def Tgt.winOf (p : Nat) : Tgt → Bool
  | .win q _ _ => q == p
  | _ => false

/-- The atoms in windows of a partition whose misses by a hearth are out. -/
def State.winMisses (s : State) (p h : Nat) : List Nat :=
  (((s.reqs.filter (fun r => r.src == 0 && r.kind.reads && Tgt.winOf p r.tgt)).map (fun r => s.l1Key r.h r.tgt)
    ++ (s.reps.filter (fun r => r.src == 0 && Tgt.winOf p r.tgt)).map (·.key)).filter (fun k => k / 2 ^ 110 == h)).map (· % 2 ^ 110)

/-- What the dies keep of the tables from a start on (R401). -/
def State.latchStart (s : State) (p : Nat) : State :=
  let wires := (hearthsOf (s.hsetReg p)).map (fun h => (h, s.wireEntry p h))
  let trees := (natsFrom 0 256).filterMap (fun k => (s.treeOf p k).map (fun t => (k, t)))
  let t : State := { s with
    chans := s.chanMap p
    -- every buffer is empty (R112), and no L1 keeps what an earlier run cached through a shadowed window, nor what a miss of it will bring (R74)
    ctxs := s.ctxs.map (fun (k, x) => (k, if (s.hsetReg p).testBit (k / 4) then { x with rx := [] } else x))
    l1 := s.l1.filter (fun (_, e) => !Tgt.winOf p e.tgt)
    hearths := s.hearths.map (fun (h, hh) => (h, { hh with noKeep := hh.noKeep ++ s.winMisses p h })) }
  t.modPart p (fun q => { q with
    state := 1, shadow := [], hset := s.hsetReg p, fuse := s.preg p 0x1F8, aff := s.affMap p, trees := trees, wires := wires })

/-- The tables of a start, as address and length: affinity, channel, tree and wiring (R403-R406). -/
def State.startTables (s : State) (p : Nat) : List (Nat × Nat) :=
  [(bitsOf (s.preg p 0x140) 51 6 * 64, 64 * 255), (bitsOf (s.preg p 0x180) 51 7 * 128, 128 * 384),
   (bitsOf (s.preg p 0x188) 51 10 * 1024, 1024 * 256), (bitsOf (s.preg p 0x190) 51 12 * 4096, 8 * 192)]

/-- Lines of the start tables that the host holds exclusively: the start waits for what it has written there (R385). -/
def State.startHeld (s : State) (p : Nat) : List Nat :=
  ((s.atoms.filter (fun (t : Nat × Atom) => t.2.ho == 2 && (s.startTables p).any (fun q => overlap q.1 q.2 (32 * t.1) 32))).map
    (fun (t : Nat × Atom) => t.1 / 2)).eraseDups

/-- A start has read the tables that its checks reached: with the failure of an earlier check the later tables are not read (R367, R401). -/
def State.startSeen (s : State) (p : Nat) (err : Option (Nat × Nat)) : State :=
  let n := match err with | some (c, _) => min 4 (c - 1) | none => 4
  ((s.startTables p).take n).foldl (fun s q => s.touchRange q.1 q.2 false) s

/-- PARTITION_START: a write of 1 to PCTL.RUN while stopped checks the tables, latches them and starts the partition, or records the
first failure (R400, R401). -/
def execPartitionStart (p : Nat) (s : State) : Res :=
  if 16 ≤ p || (s.part p).state != 0 || !s.boot.up then .next s
  else if !(s.startHeld p).isEmpty then .next (s.snoopAll (s.startHeld p) false)
  else match s.startErr p with
    | some (c, i) => .next ((s.startSeen p (some (c, i))).modPart p (fun q => { q with err := c, errIdx := i }))
    | none => .next ((s.startSeen p none).latchStart p)

/-- PARTITION_STOP: a write of 0 to PCTL.RUN while running (R402). -/
def execPartitionStop (p : Nat) (s : State) : Res :=
  .next (if (s.part p).state = 1 then s.modPart p (fun q => { q with state := 2 }) else s)

/-- PARTITION_DRAIN_DONE: a draining partition with no running context stops (R402). -/
def execPartitionDrainDone (p : Nat) (s : State) : Res :=
  .next (if (s.part p).state = 2 && !s.ctxs.any (fun (c : Nat × Ctx) => c.2.st != .idle && c.2.part == p) then
    s.modPart p (fun q => { q with state := 0 }) else s)

/-- PSTEP_WRITE: PSTEPi takes a value that gives no hearth outside HSET a step and asks for no disabled step (R400, R424). -/
def execPstepWrite (p i : Nat) (v : BitVec 64) (s : State) : Res :=
  .next (if decide (6 ≤ i) || decide (16 ≤ p) || s.pstepBad (s.hsetReg p) i v.toNat then s else s.setBar 0 (0x10000 * p + 0x210 + 8 * i) v)

/-- BUDGET_PERIOD: at a multiple of 4,096 cy every count starts again, and the budgets written since take effect (R407, R408). -/
def execBudgetPeriod (s : State) : Res :=
  if s.period = s.gcc / 4096 then .next s
  else
    let lim (p : Nat) : Map Nat := (natsFrom 0 4).map (fun k => (k, bitsOf (s.preg p (0x1D8 + 8 * k)) 31 0))
    let t : State := { s with period := s.gcc / 4096, slices := s.slices.map (fun (t : Nat × Slice) => (t.1, { t.2 with used := [] })) }
    .next ((natsFrom 0 16).foldl (fun t p => t.modPart p (fun q => { q with used := [], limit := lim p })) t)

end Sys2Proof.Machine
end

