-- ==== Sys2Proof/Machine/Debug.lean ====
section
/-! DEFINITION. Halts, steps, position samples and the driver's trace registers (spec/16 R328-R341). -/

namespace Sys2Proof.Machine

/-- The partition whose debug registers name a hearth: the one that runs on it, else one whose HSET holds it; a disabled hearth has
none (R334, R424). -/
def State.dbgPart (s : State) (h : Nat) : Option Nat :=
  if !s.hen.testBit h then none
  else match s.partOfHearth h with
    | some p => some p
    | none => (natsFrom 0 16).find? (fun p => (s.hsetReg p).testBit h)

/-! ## Halts (R330, R331) -/

/-- DEBUG_HALT: HALT bit c of a hearth is set; a hearth outside every partition drops the write. A pre-emption signal that selects the
context in this cycle comes behind it, and selects another target (R330, R331, R334). -/
def execDebugHalt (h c : Nat) (s : State) : Res :=
  let k := ckey h c
  match s.dbgPart h with
  | some _ =>
    let s := if (s.ctx k).signal = some (s.gcc + s.signalCost (s.ctx k).part) then s.unselect k else s
    .next (s.modCtx k (fun x => { x with haltReq := true }))
  | none => .next s

/-- The group of a context that is to halt has ended its pass and written its results, or is idle; or it stands between two
accesses of a spill or fill, which goes on when it resumes (R330). -/
def State.groupHalts (s : State) (k : Nat) : Bool :=
  let gr := s.group k
  gr.pend.isEmpty && (gr.winTo.isNone || !gr.winX.out) && !gr.walking && (match gr.blk with | some b => !b.inPass | none => true)

/-- The threads of a context that is to halt stand at instruction boundaries (R330). -/
def State.threadsHalt (s : State) (h c : Nat) : Bool :=
  (s.liveThreads h c).all (fun t =>
    let th := s.thread (tkey h t)
    th.fault.isSome || (!th.midway && !th.walking && !th.xact.out && !s.asked (s.ctx (ckey h c)).part (.thread h t)))

/-- HALT_REACHED: the halt takes effect; a thread stopped in a wait for a barrier or a counter is to restart its instruction; a traced
task's stream ends. A trap that the pass took satisfies the halt (R330, R331, R158, R338). -/
def execHaltReached (h c : Nat) (s : State) : Res :=
  let k := ckey h c
  let s := s.settleGroup h c
  let x := s.ctx k
  if !x.haltReq || x.halted || x.st != .running then .next s
  else if x.trapped.isSome then .next (s.modCtx k (fun x => { x with halted := true, haltAt := s.gcc }))
  else if !s.groupHalts k || !s.threadsHalt h c then .next s
  else
    let s := s.emitEnd h c 4
    let s := (s.liveThreads h c).foldl (fun s t => s.modThread (tkey h t) (fun th =>
      if th.restarts then { th with wait := none, held := false } else th)) s
    .next (s.modCtx k (fun x => { x with
      halted := true, haltAt := s.gcc, cmpQ := [], nb := x.nb.map (fun (b : Nat × Nb) => (b.1, { b.2 with waiters := [] })) }))

/-- The time that a wait has counted before a halt goes on counting after it (R331). -/
def laterBy (t0 now since : Nat) : Nat := since + (now - max t0 since)

/-- Shift the waits of a halted context's agents by the time of its halt (R331). -/
def State.shiftWaits (s : State) (h c : Nat) : State :=
  let k := ckey h c
  let x := s.ctx k
  let f := laterBy x.haltAt s.gcc
  let w (o : Option Wait) : Option Wait := o.map (fun w => { w with since := f w.since })
  let s := (s.liveThreads h c).foldl (fun s t => s.modThread (tkey h t) (fun th => { th with
    wait := w th.wait, since := if th.since = 0 then 0 else f (th.since - 1) + 1 })) s
  let s := s.modGroup k (fun gr => { gr with wait := w gr.wait })
  let s := (natsFrom 0 4).foldl (fun s e => s.modEng (qkey h c e) (fun q => { q with
    since := if q.since = 0 then 0 else f (q.since - 1) + 1
    cmds := q.cmds.map (fun (m : Nat × Cmd) => (m.1, { m.2 with since := f m.2.since })) })) s
  let mine (v : Who) : Bool := match v with
    | .thread g t => g == h && (s.thread (tkey g t)).ctx == c
    | .group g i => g == h && i == c
    | .window g i => g == h && i == c
    | .cmd q _ => decide (q < 4096) && q / 4 == k
    | .script q => decide (q < 4096) && q / 4 == k
    | _ => false
  s.modPart x.part (fun q => { q with faultToks := q.faultToks.map (fun (t : FaultTok) => if mine t.who then { t with since := f t.since } else t) })

/-- DEBUG_RESUME: HALT bit c is cleared; a halted context goes on where it stopped, and a traced task's stream with it (R330, R338). -/
def execDebugResume (h c : Nat) (s : State) : Res :=
  let k := ckey h c
  match s.dbgPart h with
  | none => .next s
  | some _ =>
    let x := s.ctx k
    let s := if x.halted then s.shiftWaits h c else s
    let s := s.modCtx k (fun x => { x with haltReq := false, halted := false, step1 := false })
    .next (if x.halted && x.trapped.isNone && x.trace.on then s.syncAll h c 3 else s)

/-- A block entry that runs a pass stands in a block queue. -/
def passQueued (l : List BqE) : Bool := l.any (fun e => e.kind == 0 && (blkOf e).n != 0)

/-- DEBUG_STEP: one pass of a halted context's group is to run: of the block in progress, else of the next block entry that runs a
pass; with none queued, or with the context not halted, nothing happens (R332). -/
def execDebugStep (h c : Nat) (s : State) : Res :=
  let k := ckey h c
  let x := s.ctx k
  let inBlock : Bool := match (s.group k).blk with | some b => !b.fin | none => false
  .next (if x.halted && x.trapped.isNone && (inBlock || passQueued x.bq) then s.modCtx k (fun x => { x with step1 := true }) else s)

/-! ## Position samples (R328, R329) -/

/-- The STATE of a sample (R329): stalled at a word, at a spill or fill, or at the boundary drain (R303). -/
def State.posState (s : State) (h c : Nat) : Nat :=
  let k := ckey h c
  let x := s.ctx k
  let gr := s.group k
  if x.trapped.isSome then 4
  else if x.halted then 3
  else if gr.blk.isNone && x.bq.isEmpty then 0
  else if gr.wait.isSome || gr.walking || gr.fault.isSome || gr.winTo.isSome || (match gr.blk with | some b => b.fin | none => false) then 2
  else 1

/-- Word 0 of a sample and its stage mask: of the running block, else of the last that ran (R328, R329). -/
def Group.position (g : Group) : Nat × Nat :=
  match g.blk with
  | some b => if b.k = 0 && !b.inPass then (b.seq * 2 ^ 48 + b.idx * 2 ^ 36, stageMask b) else (g.lastPos, g.lastSt)
  | none => (g.lastPos, g.lastSt)

/-- POS_SAMPLE: a read of POS word 0 samples the group and latches word 1 in the same cycle (R329, R334). -/
def execPosSample (h c : Nat) (s : State) : Res :=
  match s.dbgPart h with
  | none => .next s
  | some p =>
    let s := s.settleGroup h c
    let (w0, st) := (s.group (ckey h c)).position
    let o := 0x40000 * p + 0x400 * h + 0x40 * c
    let w1 := st * 2 ^ 56 + s.posState h c * 2 ^ 52 + (s.thread (tkey h c)).pc.toNat % 2 ^ 52
    .next ((s.setBar 4 (o + 0x120) (BitVec.ofNat 64 w0)).setBar 4 (o + 0x128) (BitVec.ofNat 64 w1))

/-! ## Trace rings (R334, R335, R341) -/

/-- A traced task runs on a context (R335). -/
def State.tracing (s : State) (k : Nat) : Bool := (s.ctx k).st != .idle && (s.ctx k).trace.on

/-- TRACE_BASE_WRITE: a write of TRBASE sets the ring's base and its HEAD and TAIL to 0; it is dropped while a traced task runs on the
context, or with a reserved bit set (R334, R335). -/
def execTraceBaseWrite (h c : Nat) (v : BitVec 64) (s : State) : Res :=
  match s.dbgPart h with
  | none => .next s
  | some p =>
    let k := ckey h c
    let o := 0x40000 * p + 0x400 * h + 0x40 * c
    if s.tracing k || v.toNat % 4096 != 0 || decide (2 ^ 52 ≤ v.toNat) then .next s
    else
      let s := (s.setBar 4 (o + 0x100) v).setBar 4 (o + 0x118) 0
      .next (s.modCtx k (fun x => { x with trace := { x.trace with head := 0 } }))

/-- TRACE_LOSS_RESYNC: a stream that has dropped packets goes on once its ring has room (R341). -/
def execTraceLossResync (h c : Nat) (s : State) : Res := .next (s.lossResync h c)

end Sys2Proof.Machine
end

