-- ==== Sys2Proof/Machine/Registers.lean ====
section
/-! DEFINITION. The driver's registers that have no row of their own, what a read of a register gives, zeroing and the sweeper
(spec/15 R324; spec/16 R334-R336; spec/17 R352, R367-R369; spec/20 R400; spec/21 R427; spec/22 R431; spec/23 R448). -/

namespace Sys2Proof.Machine

/-! ## Writes (R334, R352, R400, R427, R431, R448) -/

/-- A value that sets no bit outside the fields given as (high, low). -/
def inFields (fs : List (Nat × Nat)) (v : Nat) : Bool :=
  let m := fs.foldl (fun (a : Nat) (f : Nat × Nat) => a ||| ((2 ^ (f.1 + 1) - 1) - (2 ^ f.2 - 1))) 0
  (v ||| m) == m

/-- A number between two limits. -/
def within (lo hi v : Nat) : Bool := decide (lo ≤ v) && decide (v ≤ hi)

/-- A TAIL that is neither above HEAD nor more than the ring's capacity below it (R335; for every ring, notes/assumptions/33). -/
def tailOk (head cap v : Nat) : Bool := within (head - cap) head v

/-- A record of the partition is dispatched (R352). -/
def State.dispatched (s : State) (p : Nat) : Bool :=
  s.ctxs.any (fun (c : Nat × Ctx) => c.2.st != .idle && c.2.part == p)
    || s.engs.any (fun (e : Nat × EngQ) => match e.2.crec with | some (q, _) => q == p | none => false)

/-- A partition-page write that is accepted (R352, R400, R431). -/
def State.partWrite (s : State) (p o v : Nat) : Bool :=
  let q := s.part p
  let stopped := q.state == 0
  if o = 0x000 then inFields [(51, 16)] v && !s.dispatched p
  else if o = 0x008 then inFields [(51, 22)] v
  else if o = 0x010 then inFields [(51, 32), (1, 0)] v
  else if o = 0x018 then inFields [(51, 12)] v
  else if o = 0x030 then inFields [(51, 12)] v
  else if o = 0x038 then within 6 16 v
  else if o = 0x048 then tailOk q.fqHead (2 ^ s.preg p 0x038) v
  else if o = 0x110 || o = 0x118 || o = 0x120 then stopped
  else if o = 0x128 then stopped && inFields [(39, 0)] v && within 1 255 (bitsOf v 23 16) && within 256 16384 (bitsOf v 14 0)
  else if o = 0x130 then stopped && inFields [(51, 7)] v
  else if o = 0x138 then stopped && within 1 256 v
  else if o = 0x140 then stopped && inFields [(51, 6)] v
  else if o = 0x148 then stopped && inFields [(51, 12)] v
  else if o = 0x150 then stopped && within 6 20 v
  else if o = 0x158 then inFields [(7, 0)] v
  else if o = 0x168 then stopped && inFields [(51, 16)] v
  else if o = 0x170 then stopped && within 0 4096 v
  else if o = 0x180 then stopped && inFields [(51, 7)] v
  else if o = 0x188 then stopped && inFields [(51, 10)] v
  else if o = 0x190 then stopped && inFields [(51, 12)] v
  else if o = 0x198 then stopped && inFields [(51, 12)] v
  else if o = 0x1A0 then stopped && within 6 16 v
  else if o = 0x1B0 then tailOk q.tqHead (2 ^ s.preg p 0x1A0) v
  else if o = 0x1C0 then inFields [(51, 6)] v
  else if o = 0x1D8 || o = 0x1E0 || o = 0x1E8 || o = 0x1F0 then inFields [(31, 0)] v
  else if o = 0x1F8 then stopped && inFields [(47, 0)] v
  else if o = 0x200 then stopped && inFields [(51, 14)] v
  else if o = 0x208 then stopped && inFields [(3, 0)] v
  else if o = 0x240 then stopped && inFields [(51, 5)] v
  else if o = 0x248 then stopped && within 0 65536 v
  else false

/-- A die-page write that is accepted (R367). -/
def State.dieWrite (s : State) (d o v : Nat) : Bool :=
  if o = 0x000 || o = 0x010 || o = 0x040 then inFields [(51, 12)] v
  else if o = 0x008 then inFields [(47, 16), (0, 0)] v && decide (0 < bitsOf v 47 32) && decide (0 < bitsOf v 31 16)
  else if o = 0x018 then within 6 20 v
  else if o = 0x028 then tailOk (s.die d).cqHead (2 ^ s.dreg d 0x018) v
  else false

/-- Every partition is stopped (R431). -/
def State.allStopped (s : State) : Bool := (natsFrom 0 16).all (fun p => (s.part p).state == 0)

/-- A pod-page write that is accepted (R431). -/
def State.podWrite (s : State) (o v : Nat) : Bool :=
  if o = 0x000 then s.allStopped && inFields [(16, 16), (9, 0)] v
  else if o = 0x008 then s.allStopped && inFields [(51, 6)] v
  else if o = 0x010 then s.allStopped && inFields [(51, 15)] v
  else if o = 0x018 then inFields [(51, 12)] v
  else if o = 0x020 then inFields [(0, 0)] v
  else if o = 0x028 then s.allStopped && inFields [(51, 7)] v
  else decide (0x100 ≤ o) && decide (o < 0x220) && o % 8 == 0

/-- A RAS-page write that is accepted (R448). -/
def State.rasWrite (s : State) (d o v : Nat) : Bool :=
  if o < 0x30 then
    o % 8 == 0 && inFields [(31, 16), (4, 0)] v && decide (0 < bitsOf v 31 16) && decide (0 < bitsOf v 3 0) && !(o == 0x28 && bitOf v 4)
  else if o = 0x040 then inFields [(51, 5)] v
  else if o = 0x048 then within 6 16 v
  else if o = 0x058 then tailOk (s.die d).evHead (2 ^ s.ras0 d 0x048) v
  else if o = 0x130 then d == 0 && within 1000 2600 v
  else false

/-- Hearths of a partition, other than h, with full trace enabled (R336). -/
def State.tracers (s : State) (p h : Nat) : Nat :=
  ((natsFrom 0 192).filter (fun j => j != h && (s.hsetReg p).testBit j && bitOf (s.dbg p j 0xC0) 0)).length

/-- A debug-register write of hearth h that is accepted (R334-R336, R345). -/
def State.dbgWrite (s : State) (p h o v : Nat) : Bool :=
  let c := (o - 0x100) / 0x40
  let t := (o - 0x100) % 0x40
  let armed := bitOf (s.dbg p h 0x240) 0
  if o < 0x40 then false
  else if o < 0x60 then inFields [(63, 59), (51, 2)] v
  else if o = 0x60 || o = 0x70 then inFields [(63, 58), (23, 0)] v
  else if o = 0x68 || o = 0x78 then inFields [(32, 0)] v
  else if o = 0x80 || o = 0x90 then inFields [(63, 57), (51, 0)] v
  else if o = 0x88 || o = 0x98 then inFields [(51, 0)] v && v != 0
  else if o = 0xC0 then inFields [(1, 0)] v && (!bitOf v 0 || decide (s.tracers p h < 8))
  else if o = 0xC8 then inFields [(51, 0)] v
  else if o < 0x100 then false
  else if o < 0x200 then
    if t = 0x08 then within 12 28 v && !s.tracing (ckey h c)
    else t == 0x18 && tailOk (s.ctx (ckey h c)).trace.head (2 ^ s.dbg p h (trOff c 0x108)) v
  else if o < 0x240 then (bytesOf v 8).all (fun b => decide (b.toNat ≤ 0x11))
  else if o = 0x240 then inFields [(18, 0)] v
  else if o = 0x248 then inFields [(51, 6)] v && !armed
  else if o = 0x250 then within 1 65536 v && !armed
  else o == 0x260 && tailOk (s.hearth h).bankHead (s.dbg p h 0x250) v

/-- A write of a partition's debug registers that is accepted (R334, R335). -/
def State.sigWrite (s : State) (p o v : Nat) : Bool :=
  let on := bitOf (s.pdbg p 0) 0
  if o = 0x00 then inFields [(0, 0)] v
  else if o = 0x08 then inFields [(51, 5)] v && !on
  else if o = 0x10 then within 4 24 v && !on
  else o == 0x20 && tailOk (s.part p).sigHead (2 ^ s.pdbg p 0x10) v

/-- A write to a register that has no row of its own is accepted. Before start-up has ended only the mailbox page answers (R425). -/
def State.regWrite (s : State) (bar off v : Nat) : Bool :=
  if off % 8 != 0 then false
  else if bar = 0 && decide (0x180000 ≤ off) && decide (off < 0x181000) then off == 0x180008 && inFields [(51, 6)] v
  else if !s.boot.up then false
  else if bar = 0 then
    if off < 0x100000 then s.partWrite (off / 0x10000) (off % 0x10000) v
    else if off < 0x104000 then s.dieWrite (off / 0x1000 % 16) (off % 0x1000) v
    else if 0x190000 ≤ off && decide (off < 0x191000) then s.podWrite (off % 0x1000) v
    else decide (0x1A0000 ≤ off) && decide (off < 0x1A4000) && s.rasWrite (off / 0x1000 % 16) (off % 0x1000) v
  else if bar = 4 then
    let p := off / 0x40000
    let o := off % 0x40000
    if 16 ≤ p then false
    else if o < 0x30000 then (s.hsetReg p).testBit (o / 0x400) && s.hen.testBit (o / 0x400) && s.dbgWrite p (o / 0x400) (o % 0x400) v
    else s.sigWrite p (o - 0x30000) v
  else false

/-- A mailbox command completes with a result (R427). -/
def State.mbDone (s : State) (res : Nat) : State :=
  { s with boot := { s.boot with mbDone := (s.boot.mbDone + 1) % 2 ^ 32, mbRes := res } }

/-- A PERFSEL register that is written keeps what it held for the present cycle (R345). -/
def State.keepSel (s : State) (bar off : Nat) : State :=
  let o := off % 0x40000
  if bar = 4 && decide (o < 0x30000) && decide (0x200 ≤ o % 0x400) && decide (o % 0x400 < 0x240) then
    let i := off / 0x40000 * 64 + (o % 0x400 - 0x200) / 8
    s.modHearth (o / 0x400) (fun hh =>
      let was := if hh.selAt = s.gcc + 1 then hh.selWas else []
      { hh with selAt := s.gcc + 1, selWas := if (Map.find? was i).isSome then was else Map.put was i (s.bar 4 off) })
  else s

/-- REGISTER_WRITE: a write to a register that has no row of its own is made, or dropped whole where it sets a reserved bit, breaks a
limit or comes while the register takes no writes (R334, R352, R367, R400, R431, R448). A mailbox command of another number than 1, 2
or 3 is a bad argument, or finds the mailbox busy (R427). -/
def execRegisterWrite (bar off : Nat) (v : BitVec 64) (s : State) : Res :=
  if bar = 0 && off = 0x180010 then
    .next (if v.toNat < 256 && !within 1 3 v.toNat then s.mbDone (if s.boot.mb.isSome then 1 else 2) else s)
  else .next (if s.regWrite bar off v.toNat then (s.keepSel bar off).setBar bar off v else s)

/-! ## Reads -/

/-- Two counts in one register (R352, R400). -/
def pairReg (hi lo : Nat) : Nat := hi % 2 ^ 32 * 2 ^ 32 + lo % 2 ^ 32

/-- A partition page's register as a read gives it (R352, R400). Command registers read 0. -/
def State.readPart (s : State) (p o : Nat) : Nat :=
  let q := s.part p
  let l := s.preg p 0x158
  if o = 0x028 then pairReg q.invDone q.invIssued
  else if o = 0x040 then q.fqHead
  else if o = 0x100 then boolNat (q.state == 1)
  else if o = 0x108 then pairReg q.errIdx (q.err * 256 + q.state)
  else if o = 0x160 then pairReg (q.pushes.filter (fun w => w.level == l)).length (Map.get [] q.ready l).length
  else if o = 0x178 then pairReg q.supp (s.freeSlots p)
  else if o = 0x1A8 then q.tqHead
  else if o = 0x1D0 then pairReg q.kDone q.kIssued
  else if o = 0x020 || o = 0x050 || o = 0x1B8 || o = 0x1C8 then 0
  else s.preg p o

/-- Row spares of a die that are left, of scratchpads and B stores, and of HBM4 (R446, R448, R450): 8 for each of the 64 scratchpad and
32 B-store banks of a hearth (PRESUMED, notes/assumptions/34). -/
def State.sparesLeft (s : State) (d src : Nat) : Nat :=
  let used := ((s.boot.retired ++ s.boot.sparing).filter (fun r => r.die == d && r.src == src)).length
  (if src = 2 then 48 * 96 * 8 else Config.hbmSpares d) - used

/-- The hottest of the readings, as a signed field of 32 bits; 0 where there is none (R448; notes/assumptions/2). -/
def hottest (m : Map Int) : Nat :=
  match m with
  | [] => 0
  | q :: r => (BitVec.ofInt 32 (r.foldl (fun (a : Int) (x : Nat × Int) => max a x.2) q.2)).toNat

/-- A RAS page's register as a read gives it (R448). -/
def State.readRas (s : State) (d o : Nat) : Nat :=
  let e := s.die d
  if o = 0x050 then e.evHead
  else if o = 0x060 then e.evLost
  else if o = 0x080 then pairReg (s.sparesLeft d 2) (s.sparesLeft d 0)
  else if o = 0x100 then pairReg (hottest e.hbmTemps) (hottest e.coreTemps)
  else if o = 0x108 then e.power % 2 ^ 24
  else if o = 0x110 then e.throtCyc / 256 % 2 ^ 56 * 256 + s.ceiling d
  else if o = 0x118 then e.gccFix
  else if o = 0x120 then e.linkRepair
  else if o = 0x128 then e.linkRetrain
  else if o = 0x130 && d != 0 then 0
  else s.ras0 d o

/-- A debug register of a hearth as a read gives it (R334). -/
def State.readDbg (s : State) (p h o : Nat) : Nat :=
  let bit (f : Ctx → Bool) : Nat := (natsFrom 0 4).foldl (fun a c => if f (s.ctx (ckey h c)) then a + 2 ^ c else a) 0
  if !(s.hsetReg p).testBit h || !s.hen.testBit h then 0
  else if o = 0x000 then bit (·.haltReq)
  else if o = 0x008 then bit (fun x => x.trapped.isSome) * 16 + bit (·.halted)
  else if 0x100 ≤ o && decide (o < 0x200) && o % 0x40 == 0x10 then (s.ctx (ckey h ((o - 0x100) / 0x40))).trace.head
  else if o = 0x258 then (s.hearth h).bankHead
  else if o = 0x268 then (s.hearth h).bankMiss
  else s.dbg p h o

/-- A register as a read of it gives it: BAR 0, the launch windows of BAR 2, the debug registers of BAR 4 (R324, R334, R348, R352,
R367, R400, R427, R431, R448). -/
def State.regAt (s : State) (bar off : Nat) : Nat :=
  let o := off % 0x1000
  if bar = 0 then
    if off < 0x100000 then s.readPart (off / 0x10000) (off % 0x10000)
    else if off < 0x104000 then
      let d := s.die (off / 0x1000 % 16)
      if o = 0x020 then d.cqHead else if o = 0x030 then d.hand else if o = 0x048 then 0
      else if o = 0x050 then pairReg d.zDone d.zIssued else s.dreg (off / 0x1000 % 16) o
    else if off = 0x180000 then (s.die 0).bootStat
    else if off = 0x180018 then pairReg s.boot.mbDone s.boot.mbRes
    else if 0x190300 ≤ off && decide (off < 0x190388) then Map.get 0 s.refcnt ((off - 0x190300) / 8)
    else if 0x1A0000 ≤ off && decide (off < 0x1A4000) then s.readRas (off / 0x1000 % 16) o
    else (s.bar 0 off).toNat
  else if bar = 2 then
    if o = 0x008 then pairReg (s.part (off / 0x1000)).accepted (2 * s.heldPushes (off / 0x1000) + (s.part (off / 0x1000)).lerr) else 0
  else if bar = 4 then
    let p := off / 0x40000
    let e := off % 0x40000
    if e < 0x30000 then s.readDbg p (e / 0x400) (e % 0x400)
    else if e = 0x30018 then (s.part p).sigHead
    else if e = 0x30028 then (s.part p).sigLost
    else s.pdbg p (e - 0x30000)
  else 0

/-- What answers a host read of a register: until start-up has ended, the mailbox page alone (R425). -/
def State.readBar (s : State) (bar off : Nat) : Option Nat :=
  if s.boot.up || (bar == 0 && decide (0x180000 ≤ off) && decide (off < 0x181000)) then some (s.regAt bar off) else none

/-! ## Zeroing (R369) -/

/-- ZCMD: COUNT granules from ZADDR are to be zeroed; a count of 0 breaks the limit (R367, R369). -/
def execZcmd (die count : Nat) (s : State) : Res :=
  if count = 0 || 2 ^ 32 ≤ count || 4 ≤ die || !s.boot.up then .next s
  else .next (s.modDie die (fun d => { d with
    zIssued := (d.zIssued + 1) % 2 ^ 32, zcmds := d.zcmds ++ [(bitsOf (s.dreg die 0x040) 51 12, count)] }))

/-- Mark a granule as zero at its homes and begin the recall of its leases; its poison goes with its data (R369, R381). -/
def State.markZero (s : State) (g : Nat) : State :=
  if !s.backed (4096 * g) then s
  else { s with
    zeroed := g :: s.zeroed.filter (· != g)
    mem := memClear (4096 * g) 4096 s.mem
    atoms := s.atoms.map (fun (t : Nat × Atom) => (t.1, if t.1 / 128 = g then { t.2 with psn := false } else t.2))
    recalls := s.recalls ++ [{ key := g, home := 64, missing := natsFrom 0 192 }]
    probes := s.probes ++ (natsFrom 0 192).map (fun h =>
      { kind := .zrec, h := h, key := g, due := s.gcc + transit (.home (homeOf (4096 * g))) (.hearth h), lim := s.gcc + 100 }) }

/-- The lines of a granule that the host holds are asked back with BISnpInv (R385); the granule waits for their answers (R369). -/
def State.zeroHeld (s : State) (g : Nat) : List Nat :=
  ((s.atoms.filter (fun (t : Nat × Atom) => t.1 / 128 == g && t.2.ho != 0)).map (fun (t : Nat × Atom) => t.1 / 2)).eraseDups

/-- ZERO_COMPLETE: the oldest zeroing command of a die takes what the host holds of its granules back, marks them and sends its probes; it
completes once every hearth has answered (R369, R385). -/
def execZeroComplete (die : Nat) (s : State) : Res :=
  match (s.die die).zcmds with
  | [] => .next s
  | (g, n) :: r =>
    if !(s.die die).zProbes then
      let held := ((natsFrom g n).map s.zeroHeld).flatten
      if !held.isEmpty then .next (s.snoopAll held true)
      else .next (((natsFrom g n).foldl State.markZero s).modDie die (fun d => { d with zProbes := true }))
    else
      let mine (q : Recall) : Bool := q.home == 64 && decide (g ≤ q.key) && decide (q.key < g + n)
      if s.recalls.any (fun q => mine q && !q.done) then .next s
      else
        let t : State := { s with recalls := s.recalls.filter (fun q => !mine q) }
        .next (t.modDie die (fun d => { d with zcmds := r, zProbes := false, zDone := (d.zDone + 1) % 2 ^ 32 }))

/-! ## The sweeper (R367) -/

/-- Entries of a die's frame table. -/
def frameEntries : Nat := 3145728

/-- SWEEPER_STEP: with EN set, the entry at HAND loses its A, or is queued as cold and marked Q; the hand moves on (R367). An entry with a
reserved bit set is left alone (R4; notes/assumptions/96). -/
def execSweeperStep (die : Nat) (s : State) : Res :=
  let ctl := s.dreg die 0x008
  let base := bitsOf (s.dreg die 0x000) 51 12 * 4096
  if !bitOf ctl 0 || base = 0 then .next s
  else
    let i := (s.die die).hand
    let ea := base + 8 * i
    let e := s.num ea 8
    let hd := (s.die die).cqHead
    let s := s.modDie die (fun d => { d with hand := (i + 1) % frameEntries })
    if e / 2 ^ 56 = 0 || bitOf e 2 || bitOf e 3 || bitsOf e 55 52 != 0 || bitsOf e 15 4 != 0 then .next s
    else if bitOf e 0 then
      -- A that a home sets in this cycle reads 1 (R367)
      .next (if (s.die die).setAt = s.gcc + 1 && (s.die die).setA.contains i then s else s.hwNum ea 8 (e - 1))
    else if hd - s.dreg die 0x028 < bitsOf ctl 31 16 then
      let ring := bitsOf (s.dreg die 0x010) 51 12 * 4096 + 16 * (hd % 2 ^ s.dreg die 0x018)
      let s := s.hwNum ring 16 ((4 * die * 48 * 2 ^ 30 + 65536 * i) + e * 2 ^ 64)
      .next ((s.hwNum ea 8 (e + 8)).modDie die (fun d => { d with cqHead := d.cqHead + 1 }))
    else .next s

end Sys2Proof.Machine
end

