-- ==== Sys2Proof/Machine/Pods.lean ====
section
/-! DEFINITION. Pods: requests of peers and their checks, the answers of peers, link failures, merged streams between packages
(spec/22 R430-R440; spec/03 R79). -/

namespace Sys2Proof.Machine

/-! ## Requests of peers (R432, R434, R435) -/

/-- The address of the tenant map entry of a source (R432). -/
def State.tenantAt (s : State) (aid src : Nat) : Nat := bitsOf (s.bar 0 0x190008).toNat 51 6 * 64 + 2 * (16 * (aid % 1024) + src % 16)

/-- Tenant map entry of a source (R432). -/
def State.tenant (s : State) (aid src : Nat) : Nat := s.num (s.tenantAt aid src) 2

/-- The address of a receive window entry (R434). -/
def State.recvWinAt (s : State) (w : Nat) : Nat := bitsOf (s.bar 0 0x190010).toNat 51 15 * 32768 + 32 * (w % 1024)

/-- A receive window entry (R434). -/
def State.recvWin (s : State) (w : Nat) : Nat := s.num (s.recvWinAt w) 32

/-- The check of a peer's request reads its tenant map entry and, of an access whose source maps to a partition, its receive window entry (R367,
R435). -/
def State.peerSeen (s : State) (r : PeerReq) : State :=
  let t := s.touchFrame (s.tenantAt r.aid r.part) false
  if r.stream.isSome || !bitOf (s.tenant r.aid r.part) 15 then t else t.touchFrame (s.recvWinAt r.win) false

/-- The permission bit that a kind needs in a receive window (R434). -/
def peerKindBit : HostOp → Nat
  | .read _ => 116
  | .readOwn => 116
  | .write _ => 117
  | .fetchAdd .. => 118
  | .swap .. => 118
  | .cas .. => 118
  | .amo .. => 118

/-- Where the parts of a peer's access land in the owner's page tables: leaves with TGT 00 or 01 (R435). -/
def State.peerParts (s : State) (p va : Nat) (op : HostOp) : Option (List (Tgt × HostOp)) :=
  let store : Bool := match op with | .read _ => false | .readOwn => false | _ => true
  (hostOpParts op va).mapM (fun (q : Nat × HostOp) =>
    match s.walkPt p q.1 with
    | .ok e _ => (match tgtAt e q.1 with
      | .dev pa => some (Tgt.dev pa, q.2)
      | .win r t a => (match s.place (.win r t a) store with | .at _ => some (Tgt.win r t a, q.2) | _ => none)
      | _ => none)
    | _ => none)

/-- The refusal of a peer's request and the tenant whose REFCNT counts it, or the owner and the parts of the access: the checks of
R435 in their order. An entry with a reserved bit set is not valid (R4, notes/assumptions/83); an atomic that is not naturally aligned where
it lands is performed by no home (R55, notes/assumptions/98). -/
def State.peerCheck (s : State) (r : PeerReq) : Except (Nat × Nat) (Nat × List (Tgt × HostOp)) :=
  let tm := s.tenant r.aid r.part
  let w := s.recvWin r.win
  let part := tm % 16
  if !bitOf tm 15 || bitsOf tm 14 8 != 0 then .error (1, 16)
  else if !bitOf w 119 || w / 2 ^ 120 != 0 || bitsOf w 63 58 != 0 || bitsOf w 115 112 != part then .error (4, part)
  else if bitsOf w 111 64 != r.key then .error (2, part)
  else if !bitOf w (peerKindBit r.op) || decide (2 ^ bitsOf w 57 52 ≤ r.off) then .error (3, part)
  else if (s.part part).state != 1 then .error (5, part)
  else match s.peerParts part (bitsOf w 51 0 + r.off) r.op with
    | some l => if hostOpFits r.op (bitsOf w 51 0 + r.off) then .ok (part, l) else .error (6, part)
    | none => .error (6, part)

/-- A refused request counts, and is answered with an error response that carries the subcause (R431, R435). -/
def State.refuse (s : State) (t sub : Nat) : State :=
  State.wired { s with refcnt := Map.put s.refcnt t (Map.get 0 s.refcnt t + 1) } { kind := .refusal, unit := 3, n := sub }

/-- The requests of an admitted access: S scope, at the owner's homes (R59, R435). -/
def State.peerReqs (s : State) (p : Nat) (l : List (Tgt × HostOp)) : List Req :=
  l.map (fun (q : Tgt × HostOp) => hostOpReq q.2 { h := 255, part := p, tgt := q.1, pts := s.gcc, scope := 2, src := 3, due := s.gcc })

/-! ### Streams of child packages (R440) -/

/-- A merged stream, of 32-bit values of one type, as it travels between packages: segments with their flags and counts, and the trailer;
none where it breaks the format, names another type or sets a reserved bit (R4, R118). -/
def parseMerged (ty : Nat) : Nat → List Nat → Option Strm
  | 0, _ => none
  | _ + 1, [] => none
  | f + 1, h :: r =>
    let seg := bitsOf h 63 48
    if bitsOf h 45 44 != ty || (bitsOf h 47 46 != 3 && h % 2 ^ 32 != 0) then none
    else if bitsOf h 47 46 = 3 then
      (if seg = 0xFFFF && r.isEmpty && bitsOf h 43 35 == 0 then some { trail := some { flags := bitsOf h 34 32, count := bitsOf h 31 0 } } else none)
    else
      let body : Option (Map Word × List Nat × Bool) :=
        if bitsOf h 47 46 = 0 then (match sparseBody ty (bitsOf h 43 32) 0 0 r with | .ok (m, r) => some (m, r, false) | .error _ => none)
        else if bitsOf h 47 46 = 1 then some (denseBody ty (r.take 2048), r.drop 2048, true)
        else some ([], r, false)
      match body with
      | some (m, t :: r', dn) =>
        if bitsOf t 47 46 != 3 || bitsOf t 45 44 != ty || bitsOf t 43 35 != 0 || bitsOf t 63 48 != seg then none
        else (match parseMerged ty f r' with
         | some st => some { st with segs := { seg := seg, dense := dn, vals := m, flags := bitsOf t 34 32, count := bitsOf t 31 0 } :: st.segs }
         | none => none)
      | _ => none

/-- The ingress node of a tree. -/
def Tree.ingress (t : Tree) : Option Nat := ((t.nodes.zipIdx.find? (fun (q : Node × Nat) => q.1.kind == 2)).map (·.2))

/-- A child package's stream reaches the ingress of its tree: refused where the source maps to no partition that owns the tree, on a port
that another child holds, or where it breaks the format (R4, R440; notes/assumptions/83). -/
def State.podStream (s : State) (r : PeerReq) (k port : Nat) (ws : List Nat) : State :=
  let tm := s.tenant r.aid r.part
  let p := tm % 16
  if !bitOf tm 15 || bitsOf tm 14 8 != 0 then s.refuse 16 1
  else match Map.find? (s.part p).trees k with
    | none => s.refuse p 4
    | some t => match t.ingress with
      | none => s.refuse p 4
      | some i =>
        let key := portKey i port
        if (t.children i).any (fun c => c.port == port) || (Map.find? (s.reduc (redKey p k)).ports key).isSome then s.refuse p 4
        else match parseMerged (if t.inTy = 2 then 2 else 0) (ws.length + 1) ws with
          | some st => s.modReduc (redKey p k) (fun q => { q with ports := Map.put q.ports key st })
          | none => s.refuse p 4

/-- The kind of a peer's access. -/
def peerAcc : HostOp → Acc
  | .read _ | .readOwn => .read
  | .write _ => .write
  | .fetchAdd .. | .swap .. | .cas .. | .amo .. => .atomic

/-- What the station's walks for an admitted access leave behind (R356, R367). -/
def State.peerWalked (s : State) (p va : Nat) (op : HostOp) : State :=
  (hostOpParts op va).foldl (fun s q => s.sysWalked p q.1 (peerAcc op)) s

/-- PEER_REQUEST: a request that passes every check sets out to its homes; a refused one reads and writes nothing and is counted
(R435). Without pod traffic enabled no request arrives (R430, R431). -/
def execPeerRequest (r : PeerReq) (s : State) : Res :=
  if !s.boot.up || !bitOf (s.bar 0 0x190000).toNat 16 then .next s
  else match r.stream with
    | some (k, port, ws) => .next ((s.peerSeen r).podStream r k port ws)
    | none => match s.peerCheck r with
      | .error (u, t) => .next ((s.peerSeen r).refuse t u)
      | .ok (p, l) =>
        let va := bitsOf (s.recvWin r.win) 51 0 + r.off
        sysGate p (sysAllReady p (peerAcc r.op) ((hostOpParts r.op va).map (fun q => (q.1, 0)))) (fun s =>
          { (s.peerSeen r).peerWalked p va r.op with reqs := s.reqs ++ s.peerReqs p l }) s

/-! ## Answers (R79, R436, R439) -/

/-- An access to a peer that awaits its answer. -/
def State.peerExt (s : State) (n : Nat) : Bool :=
  match s.exts[n]? with | some { tgt := .peer .., .. } => true | _ => false

/-- PEER_RESPONSE: a peer answers an access with its data or acknowledgement, or with an error for poisoned data, cause 0x0F
subcause 1 (R79, R439). -/
def execPeerResponse (n : Nat) (ok : Bool) (data : List Byte) (s : State) : Res :=
  .next (if s.peerExt n && s.extOpen n then s.extDone n ok 0x0F 1 data else s)

/-- PEER_REFUSAL: cause 0x0E with the peer's subcause at the requesting agent (R435, R436). -/
def execPeerRefusal (n sub : Nat) (s : State) : Res :=
  .next (if s.peerExt n && s.extOpen n then s.extDone n false 0x0E sub [] else s)

/-! ## Link failures (R439) -/

/-- End the outstanding accesses that a property names with cause 0x0F subcause 2: the list from its end, so that numbers stay. -/
def State.failExts (s : State) (f : Ext → Bool) : State :=
  (natsFrom 0 s.exts.length).reverse.foldl (fun s n => match s.exts[n]? with
    | some e => if f e then s.extDone n false 0x0F 2 [] else s
    | none => s) s

/-- The host's lines that are being fetched are lost with the link: their requests are answered with an error (R386, R439). -/
def State.failHostFills (s : State) : State := s.failFills (fun a => decide (2 ^ 51 ≤ a)) (fun r => { repOf s r .err with val := 2 })

/-- LINK_FAILURE: the requests outstanding on a UALink port or on the host link end with cause 0x0F subcause 2; the packets lost on an
Ethernet port are sent again when their timeout expires (R439, R443; notes/assumptions/36). -/
def execLinkFailure (k : LinkKind) (s : State) : Res :=
  match k with
  | .ualink port => .next (s.failExts (fun e => s.portOf e.tgt == some port))
  | .ethernet _ => .next s
  | .hostLink =>
    let s := s.failExts (fun e => match e.tgt with | .host .. => true | _ => false)
    let waiting := s.ats
    let lost : State := { s with ats := (s.ats.filter (fun r => r.sys)).map (fun r => { r with refused := true }) }
    let s := waiting.foldl (fun (s : State) (a : AtsReq) => s.walkBad a.walk.who { cause := 0x0F, sub := 2, va := a.walk.va }) lost
    .next s.failHostFills

end Sys2Proof.Machine
end

