-- ==== Sys2Proof/Machine/Ethernet.lean ====
section
/-! DEFINITION. The Ethernet stations: queue pairs, send and receive work, memory regions (spec/22 R430, R441-R445). -/

namespace Sys2Proof.Machine

/-! ## Memory in a partition's space (R441, R443, R444) -/

/-- The parts of a range of addresses that lie in one atom each: address, offset in the range, length. -/
def atomParts (va n : Nat) : List (Nat × Nat × Nat) :=
  (natsFrom (va / 32) ((va + n + 31) / 32 - va / 32)).map (fun i =>
    (max va (32 * i), max va (32 * i) - va, min (va + n) (32 * i + 32) - max va (32 * i)))

/-- Every page of a range translates for an access (R445: the station's faults are not replayed). -/
def State.rangeOk (s : State) (p va n : Nat) (acc : Acc) : Bool :=
  (natsFrom (va / 4096) ((va + n + 4095) / 4096 - va / 4096)).all (fun i =>
    match s.sysXl p (max va (4096 * i)) acc with | .ok _ => true | _ => false)

/-- The pages of a range, for their translation alone. -/
def pagesOf (va n : Nat) : List (Nat × Nat) := (natsFrom (va / 4096) ((va + n + 4095) / 4096 - va / 4096)).map (fun i => (max va (4096 * i), 0))

/-- The station's access to a range may be made. -/
def rangeReady (p va n : Nat) (acc : Acc) (s : State) : Ans Unit := sysAllReady p acc ((atomParts va n).map (fun q => (q.1, q.2.2))) s

/-- Write bytes of a partition at D scope behind a time, where its range translates; with the greatest stamp of the stores. -/
def State.rangeStore (s : State) (p va : Nat) (d : List Byte) (P : Nat) : Nat × State :=
  (atomParts va d.length).foldl (fun (r : Nat × State) (q : Nat × Nat × Nat) =>
    match r.2.sysPut p q.1 P (sliceOf d q.2.1 q.2.2) with
    | some (w, s) => (max r.1 w, s)
    | none => r) (P, s)

/-- The same behind the present cycle, where nobody acquires it. -/
def State.rangeWrite (s : State) (p va : Nat) (d : List Byte) : State := (s.rangeStore p va d s.gcc).2

/-- The station writes data for a queue pair, and notes when they are in T (R443, R444). -/
def State.qpData (s : State) (n va : Nat) (d : List Byte) : State :=
  let (w, s) := s.rangeStore (s.qp n).part va d s.gcc
  s.modQp n (fun q => { q with pts := max q.pts w })

/-- What a read of a range of a partition leaves behind (R356, R367). -/
def State.rangeSeen (s : State) (p va n : Nat) : State := (atomParts va n).foldl (fun s q => s.sysSeen p q.1 q.2.2) s

/-- The bytes of a range: none where an atom of it cannot be read. -/
def State.rangeBytes (s : State) (p va n : Nat) : Option (List Byte) :=
  ((atomParts va n).mapM (fun q => (s.sysRead p q.1 q.2.2).1)).map List.flatten

/-- Eight bytes of a partition as a number, where they translate. -/
def State.word? (s : State) (p va : Nat) : Option Nat :=
  match s.sysRead p va 8 with | (some d, _, _) => some (natOfBytes d) | _ => none

/-- The byte count of an entry that failed (R441). -/
def allOnes : Nat := 2 ^ 64 - 1

/-- A completion: a D-scope store of a byte count, after every byte that the station has written for the queue pair is in T (R441, R443, R444). -/
def State.complete (s : State) (n va count : Nat) : State :=
  let q := s.qp n
  if s.rangeOk q.part va 8 .write then
    let (w, s) := s.rangeStore q.part va (bytesOf count 8) (max q.pts s.gcc)
    s.modQp n (fun q => { q with pts := max q.pts w })
  else s

/-! ## Queue-pair entries (R442) -/

/-- Physical address of a queue-pair entry. -/
def State.qpAddr (s : State) (n : Nat) : Nat := bitsOf (s.bar 0 0x190028).toNat 51 7 * 128 + 128 * n

/-- Word i of an entry in memory. -/
def State.qpWord (s : State) (n i : Nat) : Nat := s.num (s.qpAddr n + 8 * i) 8

/-- Word i of a queue pair in service, as it was loaded. -/
def Qp.word (q : Qp) (i : Nat) : Nat := (Map.get 0 q.tab i).toNat

/-- The station writes a STATE into the entry (R442, R445). -/
def State.qpState (s : State) (n st : Nat) : State :=
  let w := s.qpWord n 0
  s.sysWrite (s.qpAddr n) (bytesOf (w - bitsOf w 6 5 * 32 + st * 32) 8)

/-- An entry that sets a reserved bit or value, names a PORT outside 0-5, or misaligns an address (R442; notes/assumptions/37). -/
def State.qpMalformed (s : State) (n : Nat) : Bool :=
  let w (i : Nat) : Nat := s.qpWord n i
  !bitOf (w 0) 0 || w 0 / 2 ^ 18 != 0 || bitsOf (w 0) 17 13 == 0 || decide (5 < bitsOf (w 0) 9 7)
    || bitsOf (w 1) 7 5 != 0 || w 1 / 2 ^ 13 != 0 || !within 4 16 (bitsOf (w 1) 4 0) || !within 4 16 (bitsOf (w 1) 12 8)
    || w 6 / 2 ^ 24 != 0 || w 7 / 2 ^ 48 != 0 || w 13 != 0 || w 14 != 0 || w 15 != 0
    || w 2 % 64 != 0 || w 3 % 8 != 0 || w 4 % 32 != 0 || w 5 % 8 != 0

/-- The same, or an OWNER that does not run, or a ring or doorbell that does not translate whole (R442). -/
def State.qpBad (s : State) (n : Nat) : Bool :=
  let w (i : Nat) : Nat := s.qpWord n i
  let p := bitsOf (w 0) 4 1
  let va (i n : Nat) : Bool := decide (w i + n ≤ 2 ^ 52) && s.rangeOk p (w i) n .read
  s.qpMalformed n || (s.part p).state != 1 || !va 2 (64 * 2 ^ bitsOf (w 1) 4 0) || !va 3 8 || !va 4 (32 * 2 ^ bitsOf (w 1) 12 8) || !va 5 8

/-- What the check of an entry waits for: the walks of its rings and doorbells. -/
def qpReady (n : Nat) (s : State) : Ans Unit :=
  let w (i : Nat) : Nat := s.qpWord n i
  let p := bitsOf (w 0) 4 1
  (sysAllReady p .read (pagesOf (w 2) (64 * 2 ^ bitsOf (w 1) 4 0)) s).bind fun _ s =>
  (sysAllReady p .read (pagesOf (w 4) (32 * 2 ^ bitsOf (w 1) 12 8)) s).bind fun _ s =>
  sysAllReady p .read [(w 3, 0), (w 5, 0)] s

/-- QPLOAD: the station reads the entry: a queue pair comes into service, leaves it, or is refused with STATE 10; QPSTAT counts the
command (R431, R442). -/
def execQpload (qpn : Nat) (s : State) : Res :=
  if 4096 ≤ qpn || !s.boot.up then .next s
  else
    let st := bitsOf (s.qpWord qpn 0) 6 5
    let c := ((s.bar 0 0x190038).toNat + 1) % 2 ^ 32
    let t := s.setBar 0 0x190038 (BitVec.ofNat 64 (pairReg c c))
    if (s.qp qpn).inService then .next (if st = 0 then t.modQp qpn (fun _ => {}) else t)
    else if st = 1 || st = 3 then
      if st = 3 || s.qpMalformed qpn then .next (t.qpState qpn 2)
      else sysGate (bitsOf (s.qpWord qpn 0) 4 1) (qpReady qpn) (fun s =>
        let t := s.setBar 0 0x190038 (BitVec.ofNat 64 (pairReg c c))
        if s.qpBad qpn then t.qpState qpn 2
        else
        let ws : Map Word64 := (natsFrom 0 16).map (fun i => (i, BitVec.ofNat 64 (s.qpWord qpn i)))
        (t.modQp qpn (fun _ => {
          inService := true, part := bitsOf (s.qpWord qpn 0) 4 1, tab := ws
          spi := s.qpWord qpn 11 % 2 ^ 32, sci := s.qpWord qpn 11 % 2 ^ 32, rpi := s.qpWord qpn 12 % 2 ^ 32, rci := s.qpWord qpn 12 % 2 ^ 32 }))) s
    else .next t

/-- Address of the send entry of an index. -/
def Qp.sendAt (q : Qp) (i : Nat) : Nat := q.word 2 + 64 * (i % 2 ^ bitsOf (q.word 1) 4 0)
/-- Address of the receive entry of an index. -/
def Qp.recvAt (q : Qp) (i : Nat) : Nat := q.word 4 + 32 * (i % 2 ^ bitsOf (q.word 1) 12 8)

/-- Entries between two indices. -/
def idxDiff (a b : Nat) : Nat := (a + 2 ^ 32 - b) % 2 ^ 32

/-- The station stores an index in a queue pair's entry, after what it has written for the queue pair (R443, R444). -/
def State.qpIndex (s : State) (n off i : Nat) : State :=
  let (w, s) := s.sysStoreAt (s.qpAddr n + off) (max (s.qp n).pts s.gcc) (bytesOf i 8)
  s.modQp n (fun q => { q with pts := max q.pts w })
/-- The station stores the send consumer index (R443). -/
def State.setSci (s : State) (n i : Nat) : State := (s.modQp n (fun q => { q with sci := i })).qpIndex n 88 i
/-- The station stores the receive consumer index (R444). -/
def State.setRci (s : State) (n i : Nat) : State := (s.modQp n (fun q => { q with rci := i })).qpIndex n 96 i

/-- The addresses at which a queue pair's posted entries, send and receive, name their completion address. -/
def Qp.comps (q : Qp) : List Nat :=
  (natsFrom 0 (min (idxDiff q.spi q.sci) (2 ^ 16))).map (fun i => q.sendAt (q.sci + i) + 40)
    ++ (natsFrom 0 (min (idxDiff q.rpi q.rci) (2 ^ 16))).map (fun i => q.recvAt (q.rci + i) + 16)

/-- What the completions of a queue pair in error wait for. -/
def failReady (n : Nat) (s : State) : Ans Unit :=
  let q := s.qp n
  (sysAllReady q.part .read (q.comps.map (fun a => (a, 8))) s).bind fun _ s =>
    sysAllReady q.part .write (q.comps.filterMap (fun a => (s.word? q.part a).map (fun c => (c % 2 ^ 52, 8)))) s

/-- The entry at fault and every later posted one, send and receive, completes with all ones, and STATE 10 goes into the entry (R445). -/
def State.qpFailed (s : State) (n : Nat) : State :=
  let q := s.qp n
  let s := q.comps.foldl (fun s a => match s.word? q.part a with | some c => s.complete n (c % 2 ^ 52) allOnes | none => s) s
  let s := if q.spi = q.sci then s else s.setSci n q.spi
  let s := if q.rpi = q.rci then s else s.setRci n q.rpi
  (s.qpState n 2).modQp n (fun q => { q with failing := false })

/-- A QUEUE PAIR MOVES TO ERROR: it sends and takes nothing more, and its posted entries are completed (R445). -/
def State.qpError (s : State) (n : Nat) : State := s.modQp n (fun q => { q with err := true, failing := true, sent := false, offset := 0 })

/-- A step of the station for a queue pair: one in error completes its entries; another, in service, makes its accesses when they are ready. -/
def qpStep (n : Nat) (ready : State → Ans Unit) (f : State → State) (s : State) : Res :=
  let q := s.qp n
  if q.failing then sysGate q.part (failReady n) (fun s => s.qpFailed n) s
  else if !q.inService || q.err then .next s
  else sysGate q.part ready f s

/-! ## Sending (R441, R443) -/

/-- A send entry: operation, length, remote key and address, local address, completion address. -/
structure SendE where
  op : Nat := 0
  len : Nat := 0
  key : Nat := 0
  loc : Nat := 0
  rem : Nat := 0
  comp : Nat := 0
deriving DecidableEq, Repr, Inhabited

/-- The send entry at SCI, unless it is malformed (R441). -/
def State.sendWords (s : State) (q : Qp) : Option SendE :=
  match s.sysRead q.part (q.sendAt q.sci) 64 with
  | (some d, _, _) =>
    let f (o n : Nat) : Nat := natOfBytes (sliceOf d o n)
    let e : SendE := { op := f 0 1, len := f 16 4, key := f 20 4, loc := f 24 8, rem := f 32 8, comp := f 40 8 }
    let ok := decide (e.op < 3) && f 1 15 == 0 && f 48 16 == 0 && within 1 (2 ^ 31) e.len
      && decide (e.loc < 2 ^ 52) && decide (e.comp < 2 ^ 52)
    if ok then some e else none
  | _ => none

/-- The same, unless its local address does not translate (R441). -/
def State.sendEntry (s : State) (q : Qp) : Option SendE :=
  (s.sendWords q).filter (fun e => s.rangeOk q.part e.loc e.len (if e.op = 2 then .write else .read))

/-- Key of a partition's use of the Ethernet stations (R407). -/
def ethUse : Nat := 2 ^ 22

/-- Bytes that a partition may still send in this period, up to n, in whole packets of 4,096 B or to the message's end (R407, R408,
R430). -/
def State.ethRoom (s : State) (p n : Nat) : Nat :=
  let b := s.budget p 3
  let room := 64 * b - Map.get 0 (s.part p).used ethUse
  if b = 0 || n ≤ room then n else room / 4096 * 4096

/-- PFC holds the sending of a queue pair (R430). -/
def State.pfcHeld (s : State) (n : Nat) (q : Qp) : Bool := s.paused.contains (bitsOf (q.word 0) 9 7, Config.qpPriority n % 8)

/-- Bytes of the entry at SCI that leave now (R407, R408, R430). -/
def State.sendPart (s : State) (q : Qp) (e : SendE) : Nat := s.ethRoom q.part (e.len - q.offset)

/-- What the sending of the entry at SCI waits for: the entry, the walks of its local range, and the data that leave now. -/
def sendReady (n : Nat) (s : State) : Ans Unit :=
  let q := s.qp n
  if q.sent || q.spi = q.sci then .ok () s
  else
    (rangeReady q.part (q.sendAt q.sci) 64 .read s).bind fun _ s =>
      match s.sendWords q with
      | none => .ok () s
      | some e =>
        if e.op = 2 then sysAllReady q.part .write (pagesOf e.loc e.len) s
        else (sysAllReady q.part .read (pagesOf e.loc e.len) s).bind fun _ s => rangeReady q.part (e.loc + q.offset) (s.sendPart q e) .read s

/-- The station sends of the entry at SCI what the budget and PFC let through: the bytes at the local address with the remote address and key that
they are for, or the request of a READ; a malformed entry moves the queue pair to error (R441, R443, R445). -/
def State.qpSend (s : State) (n : Nat) : State :=
  let q := s.qp n
  if !q.inService || q.err || q.sent || q.spi = q.sci || s.pfcHeld n q then s
  else match s.sendEntry q with
    | none => s.qpError n
    | some e =>
      let s := s.rangeSeen q.part (q.sendAt q.sci) 64
      if e.op = 2 then (s.modQp n (fun q => { q with sent := true })).wired { kind := .readRequest, unit := n, addr := e.rem, key := e.key, n := e.len }
      else
        let k := s.sendPart q e
        match s.rangeBytes q.part (e.loc + q.offset) k with
        | none => s.qpError n
        | some d =>
          let s := s.rangeSeen q.part (e.loc + q.offset) k
          let s := s.modPart q.part (fun r => { r with used := Map.put r.used ethUse (Map.get 0 r.used ethUse + k) })
          let s := if k = 0 then s else s.wired { kind := if e.op = 0 then .send else .write, unit := n, addr := e.rem + q.offset, key := e.key, n := k, data := d }
          s.modQp n (fun q => { q with offset := q.offset + k, sent := decide (e.len ≤ q.offset + k) })

/-- QP_SEND_DOORBELL: the station reads the producer index at the send doorbell and processes the posted entries in order; one more
than the ring ahead of SCI is an error (R441, R443). -/
def execQpSendDoorbell (qpn : Nat) (s : State) : Res :=
  let q := s.qp qpn
  qpStep qpn (fun s => (rangeReady q.part (q.word 3) 8 .read s).bind fun _ s => sendReady qpn s) (fun s =>
    match s.word? q.part (q.word 3) with
    | none => s.qpError qpn
    | some v =>
      let i := v % 2 ^ 32
      if 2 ^ bitsOf (q.word 1) 4 0 < idxDiff i q.sci then s.qpError qpn
      else
        let s := (s.sysSeen q.part (q.word 3) 8).modQp qpn (fun q => { q with spi := i })
        -- the entries that the index has posted are read at their own turn
        if q.spi = q.sci then s else s.qpSend qpn) s

/-- QP_ENTRY_COMPLETE: the entry at SCI is acknowledged, or the data of its READ have come and are written; its byte count is stored and
SCI advances. A remote error NAK moves the queue pair to error, also while the message is sent in part only (R443, R445). -/
def execQpEntryComplete (qpn : Nat) (ok : Bool) (data : List Byte) (s : State) : Res :=
  let q := s.qp qpn
  qpStep qpn (fun s => if !q.sent then .ok () s else
    (rangeReady q.part (q.sendAt q.sci) 64 .read s).bind fun _ s =>
      match s.sendWords q with
      | none => .ok () s
      | some e => (if e.op = 2 then rangeReady q.part e.loc data.length .write s else .ok () s).bind fun _ s => rangeReady q.part e.comp 8 .write s) (fun s =>
    if !ok && (q.sent || q.offset != 0) then s.qpError qpn
    else if !q.sent then s
    else match s.sendEntry q with
      | none => s.qpError qpn
      | some e =>
        if e.op = 2 && data.length != e.len then s
        else if !s.rangeOk q.part e.comp 8 .write then s.qpError qpn
        else
          let s := if e.op = 2 then s.qpData qpn e.loc data else s
          let s := (s.complete qpn e.comp e.len).setSci qpn ((q.sci + 1) % 2 ^ 32)
          s.modQp qpn (fun q => { q with sent := false, tries := 0, offset := 0 })) s

/-- QP_RETRY_TIMEOUT: the message, be it sent in part only, is sent again, or, its retries used, the queue pair moves to error (R443, R445). -/
def execQpRetryTimeout (qpn : Nat) (s : State) : Res :=
  let q := s.qp qpn
  qpStep qpn (fun s => .ok () s) (fun s =>
    if !q.sent && q.offset = 0 then s
    else if q.tries < bitsOf (q.word 0) 12 10 then s.modQp qpn (fun q => { q with tries := q.tries + 1, sent := false, offset := 0 })
    else s.qpError qpn) s

/-! ## Receiving (R444) -/

/-- QP_RECEIVE_DOORBELL: the station reads the receive producer index (R444). -/
def execQpReceiveDoorbell (qpn : Nat) (s : State) : Res :=
  let q := s.qp qpn
  qpStep qpn (fun s => rangeReady q.part (q.word 5) 8 .read s) (fun s =>
    match s.word? q.part (q.word 5) with
    | none => s.qpError qpn
    | some v => (s.sysSeen q.part (q.word 5) 8).modQp qpn (fun q => { q with rpi := v % 2 ^ 32 })) s

/-- A posted receive buffer: its address, length and completion address, unless it is malformed (R444). -/
def State.recvEntry (s : State) (q : Qp) : Option (Nat × Nat × Nat) :=
  match s.sysRead q.part (q.recvAt q.rci) 32 with
  | (some d, _, _) =>
    let f (o : Nat) : Nat := natOfBytes (sliceOf d o 8)
    if 2 ^ 52 ≤ f 0 || f 24 != 0 then none else some (f 0, f 8, f 16)
  | _ => none

/-- ROCE_SEND_RECEIVE: an incoming SEND takes the next posted buffer and is acknowledged; with none it is answered with an RNR NAK and changes
nothing; one longer than its buffer, or a buffer that does not translate, moves the queue pair to error (R444, R445). -/
def execRoceSendReceive (qpn : Nat) (data : List Byte) (s : State) : Res :=
  let q := s.qp qpn
  qpStep qpn (fun s => if q.rpi = q.rci then .ok () s else
    (rangeReady q.part (q.recvAt q.rci) 32 .read s).bind fun _ s =>
      match s.recvEntry q with
      | none => .ok () s
      | some (buf, _, comp) => (rangeReady q.part buf data.length .write s).bind fun _ s => rangeReady q.part comp 8 .write s) (fun s =>
    if q.rpi = q.rci then s.wired { kind := .rnrNak, unit := qpn }
    else match s.recvEntry q with
      | none => s.qpError qpn
      | some (buf, len, comp) =>
        if len < data.length || !s.rangeOk q.part buf data.length .write || !s.rangeOk q.part comp 8 .write then s.qpError qpn
        else ((((s.rangeSeen q.part (q.recvAt q.rci) 32).qpData qpn buf data).complete qpn comp data.length).setRci qpn ((q.rci + 1) % 2 ^ 32)).wired
          { kind := .ack, unit := qpn }) s

/-- A remote key admits an access to a range: the region of its index, its tag, its bounds, its permission; an entry with a
reserved bit set is not valid (R431, R444; notes/assumptions/83). -/
def State.regionOk (s : State) (p key va n : Nat) (write : Bool) : Bool :=
  let i := key % 2 ^ 16
  let e := s.num (bitsOf (s.preg p 0x240) 51 5 * 32 + 32 * i) 32
  let base := bitsOf e 51 0
  decide (i < s.preg p 0x248) && bitsOf e 63 52 == 0 && e / 2 ^ 147 == 0 && bitOf e 144 && bitsOf e 143 128 == key / 2 ^ 16 && bitOf e (if write then 145 else 146)
    && decide (base ≤ va) && decide (va + n ≤ base + bitsOf e 127 64)

/-- A refused request is answered with a remote access error NAK, and its queue pair moves to error (R444). -/
def State.accessNak (s : State) (qpn : Nat) : State := (s.qpError qpn).wired { kind := .accessNak, unit := qpn }

/-- ROCE_WRITE_RECEIVE: an RDMA WRITE that its region admits is written before it is acknowledged; a refused one writes nothing (R444). -/
def execRoceWriteReceive (qpn key va : Nat) (data : List Byte) (s : State) : Res :=
  let q := s.qp qpn
  qpStep qpn (fun s => if s.regionOk q.part key va data.length true then rangeReady q.part va data.length .write s else .ok () s) (fun s =>
    if s.regionOk q.part key va data.length true && s.rangeOk q.part va data.length .write then
      (s.qpData qpn va data).wired { kind := .ack, unit := qpn }
    else s.accessNak qpn) s

/-- ROCE_READ_RECEIVE: an RDMA READ that its region admits is answered with its data and changes nothing; a refused one reads nothing (R444). -/
def execRoceReadReceive (qpn key va len : Nat) (s : State) : Res :=
  let q := s.qp qpn
  qpStep qpn (fun s => if s.regionOk q.part key va len false then rangeReady q.part va len .read s else .ok () s) (fun s =>
    if s.regionOk q.part key va len false && s.rangeOk q.part va len .read then
      match s.rangeBytes q.part va len with
      | some d => (s.rangeSeen q.part va len).wired { kind := .readData, unit := qpn, n := len, data := d }
      | none => s.accessNak qpn
    else s.accessNak qpn) s

/-- PFC_PAUSE_FRAME: a port stops or resumes the sending of a priority (R430). -/
def execPfcPauseFrame (port prio : Nat) (pause : Bool) (s : State) : Res :=
  let l := s.paused.filter (fun q => q != (port, prio))
  .next { s with paused := if pause then (port, prio) :: l else l }

end Sys2Proof.Machine
end

