-- ==== Sys2Proof/Machine/Boot.lean ====
section
/-! DEFINITION. Start-up, the configuration record, keys, the mailbox and attestation, loss of power (spec/21 R423-R429). The hash and
the signature are named standards and uninterpreted here (notes/assumptions/6). -/

namespace Sys2Proof.Machine

/-! ## The configuration record (R423) -/

/-- A list cut or filled with zeros to n bytes: the forms of uninterpreted outputs. -/
def fitLen (n : Nat) (l : List Byte) : List Byte := (natsFrom 0 n).map (fun i => l.getD i 0)

/-- SHA3-256, 32 bytes. -/
def sha3 (l : List Byte) : List Byte := fitLen 32 (Config.sha3 l)

/-- The bytes of a flash slot: what has been staged, else what the factory wrote (R423). -/
def Boot.slot (b : Boot) (i : Nat) : List Byte :=
  (if i = 0 then b.slotA else b.slotB).getD (Config.factorySlot i)

/-- SVN of a record. -/
def recSvn (r : List Byte) : Nat := natOfBytes (sliceOf r 4 4)
/-- FWDIG of a record. -/
def recFw (r : List Byte) : List Byte := sliceOf r 1024 32

/-- A valid record (R423). -/
def recValid (r : List Byte) (counter : Nat) : Bool :=
  let hen := natOfBytes (sliceOf r 24 24)
  let pub := sliceOf r 1056 1312
  decide (4788 ≤ r.length) && natOfBytes (sliceOf r 0 4) == 0x4346474C && (sliceOf r 8 16).all (· == 0)
    && sha3 pub == fitLen 32 (Config.vendorDigest 0)
    && Config.mldsaVerify pub (sha3 (sliceOf r 0 1056)) (sliceOf r 2368 2420)
    && decide (counter ≤ recSvn r)
    && (natsFrom 0 4).all (fun d => natOfBytes (sliceOf r (48 + 4 * d) 1) != 0 && bitsOf hen (48 * d + 47) (48 * d) != 0)

/-- The selected slot: the higher SVN of two valid records, A on a tie; the one valid record; none (R429). -/
def Boot.select (b : Boot) : Option Nat :=
  let va := recValid (b.slot 0) b.counter
  let vb := recValid (b.slot 1) b.counter
  if va && vb then (if recSvn (b.slot 0) < recSvn (b.slot 1) then some 1 else some 0)
  else if va then some 0
  else if vb then some 1
  else none

/-! ## Keys (R426) -/

/-- Bit i of a byte string. -/
def bitAt (l : List Byte) (i : Nat) : Bool := (l.getD (i / 8) 0).toNat.testBit (i % 8)

/-- The decoded bit of block j of the repetition code: the majority of its 32 bits; an even split is free (notes/assumptions/5). -/
def majority (help fp : List Byte) (seed j : Nat) : Bool :=
  let n := ((natsFrom (32 * j) 32).filter (fun i => bitAt help i != bitAt fp i)).length
  if n = 16 then Config.freeNat seed j % 2 == 1 else decide (16 < n)

/-- The identity secret K: the 238 decoded bits, in 30 bytes, hashed (R426; DEDUCED packing, notes/assumptions/38). -/
def identity (r fp : List Byte) (seed : Nat) : List Byte :=
  let help := sliceOf r 72 952
  let v := (natsFrom 0 238).foldl (fun (a : Nat) (j : Nat) => if majority help fp seed j then a + 2 ^ j else a) 0
  sha3 (bytesOf v 30)

/-- Seed of the alias key (R426). -/
def akSeedOf (r K : List Byte) : List Byte := sha3 (K ++ recFw r ++ sliceOf r 4 4 ++ [0x02])
/-- The DIK's signature of the AK public key, FWDIG and SVN (R426). -/
def dikSign (r K : List Byte) : List Byte :=
  let ak := fitLen 1312 (Config.mldsaKey (akSeedOf r K))
  fitLen 2420 (Config.mldsaSign (sha3 (K ++ [0x01])) (sha3 (ak ++ recFw r ++ sliceOf r 4 4)))

/-! ## The boot sequence (R425) -/

/-- The module without power: flash, the MMC's counter and its retirement log stay (R423, R429, R450, R453). -/
def State.cold (s : State) (powered : Bool) : State :=
  { State.reset with
    powered := powered, sched := s.sched, tick := s.tick, focus := s.focus
    boot := { slotA := s.boot.slotA, slotB := s.boot.slotB, counter := s.boot.counter, retired := s.boot.retired } }

/-- Start-up has failed on a die with a code (R425). -/
def State.bootFail (s : State) (d code : Nat) : State := s.modDie d (fun x => { x with bootStat := code })

/-- Steps 5 to 9, with the record selected and the keys derived (R425): of step 6 every die that fails holds its own code. -/
def State.bootTail (s : State) (env : BootEnv) : State :=
  let svn := recSvn s.boot.record
  if s.boot.counter < svn && env.counterFails then s.bootFail 0 0x04
  else
    let s : State := { s with boot := { s.boot with counter := max s.boot.counter svn } }
    match (natsFrom 0 4).filter (fun d => env.dieFails.contains d) with
    | d :: r => (d :: r).foldl (fun s d => s.bootFail d (0x10 + d)) s
    | [] =>
      let s : State := { s with boot := { s.boot with ddr5 := min (2 ^ 41) (env.ddr5 / 4096 * 4096) } }
      if env.causewayFails then s.bootFail 0 0x20
      else if env.linksFail then s.bootFail 0 0x30
      else { s with boot := { s.boot with up := true } }

/-- BOOT: the MMC releases reset; the steps of R425 run in order, and a failure stops at its step with its code. A record that step 2 has selected
stays selected. An erasure of the retirement log takes effect here (R450). -/
def execBoot (env : BootEnv) (s : State) : Res :=
  let s := s.cold true
  let s : State := if env.logErased then { s with boot := { s.boot with retired := [] } } else s
  match s.boot.select with
  | none => .next (s.bootFail 0 0x01)
  | some i =>
    let r := (s.boot.slot i).take 4788
    let s : State := { s with boot := { s.boot with sel := some i, record := r } }
    if fitLen 32 env.fwDigest != recFw r then .next (s.bootFail 0 0x02)
    else
      let K := identity r env.fingerprint s.tick
      if sliceOf (sha3 K) 0 8 != sliceOf r 64 8 then .next (s.bootFail 0 0x03)
      else
        let s : State := { s with boot := { s.boot with akSeed := akSeedOf r K, dikSig := dikSign r K } }
        .next (s.bootTail env)

/-- The slot that MB_STAGE_RECORD writes: the one that was not selected (R427). -/
def Boot.spare (b : Boot) : Nat := if b.sel = some 1 then 0 else 1

/-- Write a flash slot. -/
def Boot.setSlot (b : Boot) (i : Nat) (d : List Byte) : Boot := if i = 0 then { b with slotA := some d } else { b with slotB := some d }

/-- POWER_LOSS: the package loses its volatile state; a slot that OP 3 was writing is left invalid (R429). -/
def execPowerLoss (tornSlot : Option Nat) (s : State) : Res :=
  let writing : Bool := match s.boot.mb with | some (3, _) => tornSlot == some s.boot.spare | _ => false
  let i := s.boot.spare
  let s := s.cold false
  .next (if writing then { s with boot := s.boot.setSlot i [] } else s)

/-! ## The mailbox (R427, R428) -/

/-- The buffer that MBADDR names. -/
def State.mbAddr (s : State) : Nat := bitsOf (s.bar 0 0x180008).toNat 51 6 * 64

/-- The buffer lies in device memory (R427, R351). -/
def State.mbOk (s : State) : Bool := s.backed s.mbAddr && s.backed (s.mbAddr + 16383)

/-- Write bytes of device memory at their homes, at D scope. -/
def State.physWrite (s : State) (pa : Nat) (d : List Byte) : State :=
  (atomParts pa d.length).foldl (fun (s : State) (q : Nat × Nat × Nat) => s.sysWrite q.1 (sliceOf d q.2.1 q.2.2)) s

/-- What OP 1 gives: the AK public key, FWDIG, SVN and the DIK's signature, in that order (R426, R427). -/
def Boot.cert (b : Boot) : List Byte :=
  fitLen 1312 (Config.mldsaKey b.akSeed) ++ recFw b.record ++ sliceOf b.record 4 4 ++ b.dikSig

/-- The report of an attestation on a nonce (R428). -/
def State.report (s : State) (nonce : List Byte) : List Byte :=
  let r := s.boot.record
  let stat := (natsFrom 0 4).map (fun d => BitVec.ofNat 8 (s.die d).bootStat)
  nonce ++ fitLen 32 stat ++ bytesOf 0 24 ++ bytesOf (recSvn r + s.boot.sel.getD 0 * 2 ^ 32) 8 ++ bytesOf s.gcc 8
    ++ bytesOf s.hen 24 ++ recFw r ++ sha3 (sliceOf r 0 1056)

/-- OP 2: the report on the nonce in the buffer goes to offset 64, its signature with the AK to offset 256 (R428). -/
def State.attest (s : State) : State :=
  let a := s.mbAddr
  let rep := s.report (s.bytes a 32)
  (s.physWrite (a + 64) rep).physWrite (a + 256) (fitLen 2420 (Config.mldsaSign s.boot.akSeed (sha3 rep)))

/-- OP 3: a valid record in the buffer goes to the slot that was not selected (R427, R423). -/
def State.stage (s : State) : State :=
  let r := s.bytes s.mbAddr 4788
  if !recValid r s.boot.counter then s.mbDone 3
  else State.mbDone { s with boot := s.boot.setSlot s.boot.spare (r ++ (natsFrom 0 (8192 - 4788)).map (fun _ => (0xFF : Byte))) } 0

/-- A mailbox command: busy while another is in progress, a bad argument without a buffer, else in progress for a free time
(R427; notes/assumptions/59). -/
def State.mbStart (s : State) (op : Nat) : State :=
  if s.boot.mb.isSome then s.mbDone 1
  else if !s.mbOk then s.mbDone 2
  else { s with boot := { s.boot with mb := some (op, s.gcc + Config.freeNat s.tick 94) } }

/-- MB_READ_CERT: OP 1 begins (R427). -/
def execMbReadCert (s : State) : Res := .next (s.mbStart 1)
/-- MB_ATTEST: OP 2 begins (R428). -/
def execMbAttest (s : State) : Res := .next (s.mbStart 2)
/-- MB_STAGE_RECORD: OP 3 begins (R427). -/
def execMbStageRecord (s : State) : Res := .next (s.mbStart 3)

/-- The atoms of the buffer that a command reads, and those that it writes. -/
def State.mbReads (s : State) (op : Nat) : List Nat := if op = 2 then atomsOf s.mbAddr 32 else if op = 3 then atomsOf s.mbAddr 4788 else []
/-- The atoms of the buffer that a command writes. -/
def State.mbWrites (s : State) (op : Nat) : List Nat :=
  if op = 1 then atomsOf s.mbAddr 3768 else if op = 2 then atomsOf (s.mbAddr + 64) 2612 else []

/-- The command in progress ends in this cycle, once its homes take its accesses: its result and every byte of the buffer stand then (R427,
R428). -/
def State.mbRun (s : State) : State :=
  match s.boot.mb with
  | none => s
  | some (op, due) =>
    if s.gcc < due then s
    else
      match (homesReady 16 false (s.mbReads op) s).bind fun _ s => homesReady 16 true (s.mbWrites op) s with
      | .ok _ s =>
        let t : State := { s with boot := { s.boot with mb := none } }
        if op = 1 then (t.physWrite t.mbAddr t.boot.cert).mbDone 0
        else if op = 2 then t.attest.mbDone 0
        else t.stage
      | .wait s => s
      | .trap _ s => s

end Sys2Proof.Machine
end

