-- ==== Sys2Proof/Machine/Fleet.lean ====
section
/-! DEFINITION. Reliability, power and heat (spec/23 R446-R452; spec/22 R439). -/

namespace Sys2Proof.Machine

/-! ## Events and counts (R446, R447, R449) -/

/-- An entry of a die's event ring; one that finds the ring full is counted as lost (R449). -/
def State.rasEvent (s : State) (d src kind loc n : Nat) : State :=
  let e := s.die d
  let size := 2 ^ s.ras0 d 0x048
  if size ≤ e.evHead - s.ras0 d 0x058 then s.modDie d (fun e => { e with evLost := e.evLost + 1 })
  else
    let a := bitsOf (s.ras0 d 0x040) 51 5 * 32 + 32 * (e.evHead % size)
    (s.hwWords a ([s.gcc, src + kind * 256, loc, n].map (BitVec.ofNat 64))).modDie d (fun e => { e with evHead := e.evHead + 1 })

/-- An entry of the tracked-location table names this location (R446). -/
def RasLoc.is (e : RasLoc) (d src loc : Nat) : Bool := e.die == d && e.src == src && rasPlace src e.loc == rasPlace src loc

/-- The count of a location in a die's table. -/
def State.rasCount (s : State) (d src loc : Nat) : Nat := ((s.ras.find? (fun e => e.is d src loc)).map (·.count)).getD 0

/-- The place of the oldest entry of a die's table, by its first counted error. -/
def oldestLoc (d : Nat) (l : List RasLoc) : Option RasLoc :=
  (l.filter (fun e => e.die == d)).foldl (fun (o : Option RasLoc) (e : RasLoc) => match o with
    | none => some e
    | some f => if e.start < f.start then some e else some f) none

/-- Remove the first entry equal to a given one. -/
def dropLoc (x : RasLoc) : List RasLoc → List RasLoc
  | [] => []
  | e :: r => if e = x then r else e :: dropLoc x r

/-- Count an error at a location: a known one inside its window gains one, outside it starts again; a new one takes a free entry of the
256, or that with the oldest first error (R447). -/
def State.countError (s : State) (d src loc : Nat) : State :=
  let s := s.modDie d (fun e => { e with errAt := s.gcc + 1, errLast := (src, loc) })
  let win := bitsOf (s.ras0 d (8 * src)) 31 16
  if s.ras.any (fun e => e.is d src loc) then
    { s with ras := s.ras.map (fun e =>
        if e.is d src loc then
          (if 96000000000 * win < s.gcc - e.start then { e with count := 1, start := s.gcc } else { e with count := e.count + 1 })
        else e) }
  else
    let l := if (s.ras.filter (fun e => e.die == d)).length < 256 then s.ras
      else match oldestLoc d s.ras with | some x => dropLoc x s.ras | none => s.ras
    { s with ras := l ++ [{ die := d, src := src, loc := loc, count := 1, start := s.gcc }] }

/-- A lasting location is to be retired (R447, R450). -/
def State.toRetire (s : State) (d src loc : Nat) : State :=
  let x : Retired := { die := d, src := src, loc := loc }
  let same (r : Retired) : Bool := r.die == d && r.src == src && rasPlace src r.loc == rasPlace src loc
  { s with boot := { s.boot with lasting := s.boot.lasting.filter (fun r => !same r) ++ [x] } }

/-- Errors that reach a die's table in one cycle are counted by ascending structure, then location: one of a later place has been counted
in this cycle, so this error does not come in it (R447). -/
def State.errPassed (s : State) (d src loc : Nat) : Bool :=
  let e := s.die d
  e.errAt == s.gcc + 1 && (decide (src < e.errLast.1) || (src == e.errLast.1 && decide (loc < e.errLast.2)))

/-- CORRECTED_ERROR: the error is counted and logged; at the threshold, with retirement enabled, its location is lasting (R447,
R449). -/
def execCorrectedError (die src loc : Nat) (s : State) : Res :=
  if 4 ≤ die || 6 ≤ src || s.errPassed die src loc then .next s
  else
    let s := s.countError die src loc
    let n := s.rasCount die src loc
    let s := s.rasEvent die src 1 loc n
    let pol := s.ras0 die (8 * src)
    .next (if bitsOf pol 3 0 ≤ n && bitOf pol 4 then (s.rasEvent die src 3 loc n).toRetire die src loc else s)

/-- The partition that a frame of HBM4 belongs to (R367). -/
def State.frameOwner (s : State) (pa : Nat) : Option Nat :=
  let d := pa / (192 * 2 ^ 30)
  let base := bitsOf (s.dreg d 0x000) 51 12 * 4096
  if hbmBytes ≤ pa || base = 0 then none
  else
    let e := s.num (base + 8 * ((pa - d * (192 * 2 ^ 30)) / 65536)) 8
    let o := e / 2 ^ 56
    -- an entry with a reserved bit set names nobody (R4; notes/assumptions/96)
    if o = 0 || 16 < o || bitsOf e 55 52 != 0 || bitsOf e 15 4 != 0 then none else some (o - 1)

/-- What an uncorrectable error leaves unreadable: a home's atom is poisoned; the bytes of a row of a scratchpad or B store, the copy in a line
frame of an L1 and a word in one of a block store cannot be read; which copy or word stands in the frame is free (R384, R439;
notes/assumptions/60, 66). -/
def State.spoil (s : State) (src loc : Nat) : State :=
  let h := loc % 256
  if src < 2 then s.modAtom loc (fun t => { t with psn := true })
  else if src = 2 then
    let (pad, a) := rowOf loc
    s.modHearth h (fun hh => if pad then { hh with badPad := natsFrom a 16 ++ hh.badPad } else { hh with badBst := natsFrom a 16 ++ hh.badBst })
  else if src = 3 && blockLine loc then
    s.modHearth h (fun hh => match hh.bstore[Config.freeNat s.tick 96 % hh.bstore.length]? with
      | some q => { hh with badWords := q.1 :: hh.badWords }
      | none => hh)
  else if src = 3 then
    let held := s.l1.filter (fun q => q.1 / 2 ^ 110 == h)
    match held[Config.freeNat s.tick 96 % held.length]? with
    | some q => { s with l1 := Map.put s.l1 q.1 { q.2 with psn := true } }
    | none => s
  else s

/-- UNCORRECTABLE_ERROR: the location is lasting at once, and is to be retired where EN is set; its data cannot be read, and
with CONTAIN.AUTO the owner of the frame of a home's atom is killed (R384, R439, R447, R448). -/
def execUncorrectableError (die src loc : Nat) (s : State) : Res :=
  if 4 ≤ die || 6 ≤ src || s.errPassed die src loc then .next s
  else
    let s := s.countError die src loc
    let n := s.rasCount die src loc
    let s := (s.rasEvent die src 2 loc n).rasEvent die src 3 loc n
    let s := if bitOf (s.ras0 die (8 * src)) 4 then s.toRetire die src loc else s
    let s := s.spoil src loc
    if 2 ≤ src then .next s
    else
      .next (if bitOf (s.bar 0 0x190020).toNat 0 then
        (match s.frameOwner loc with | some p => s.startKillAll p | none => s) else s)

/-! ## Retirement (R450) -/

/-- The bank of a scratchpad or B-store row: hearth and bank of its location (R446, R449). -/
def bankOf (loc : Nat) : Nat := loc % 65536

/-- A spare row is left for a location: of the bank's 8, or of the die's HBM4 spares (R446, R450). -/
def State.spareLeft (s : State) (x : Retired) : Bool :=
  let used := s.boot.retired ++ s.boot.sparing
  if x.src = 2 then decide ((used.filter (fun r => r.die == x.die && r.src == 2 && bankOf r.loc == bankOf x.loc)).length < 8)
  else decide ((used.filter (fun r => r.die == x.die && r.src == 0)).length < Config.hbmSpares x.die)

/-- A line of an L1 leaves for good, its dirty bytes written back: which one stands in the frame is free (R450, notes/assumptions/60). -/
def State.l1LineOut (s : State) (h : Nat) : State :=
  let held := s.l1.filter (fun q => q.1 / 2 ^ 110 == h)
  match held[Config.freeNat s.tick 93 % held.length]? with
  | none => s
  | some q => s.dropL1 h (fun e => e.tgt.num / 128 == q.2.tgt.num / 128)

/-- RETIREMENT: a lasting location is retired: a row begins its copy to a spare, or is refused for want of one; a line is written back
and out of service, that of an L2 once no fill of it is pending; a group is out of service (R450). -/
def execRetirement (die src loc : Nat) (s : State) : Res :=
  let x : Retired := { die := die, src := src, loc := loc }
  if !s.boot.lasting.contains x then .next s
  else
    let n := s.rasCount die src loc
    let s : State := { s with boot := { s.boot with lasting := s.boot.lasting.filter (· != x) } }
    if src = 5 then .next s
    else if src = 0 || src = 2 then
      .next (if s.spareLeft x then { s with boot := { s.boot with sparing := s.boot.sparing ++ [x] } } else s.rasEvent die src 5 loc n)
    else if src = 1 && s.lineHeld (loc / 32) then .next { s with boot := { s.boot with lasting := s.boot.lasting ++ [x] } }
    else
      let s := s.rasEvent die src 4 loc n
      let s := if src = 1 then (s.lineAtomsIn (loc / 32)).foldl State.dropAtom s
        else if src = 3 && !blockLine loc then s.l1LineOut (loc % 256) else s
      let t : State := { s with boot := { s.boot with retired := s.boot.retired ++ [x] } }
      -- a block store holds a line less from now on
      .next (if src = 3 && blockLine loc then t.fillStore (loc % 256) (fun hh => hh) else t)

/-- ROW_SPARE_COMPLETE: the row has been copied and remapped, and its held requests go on (R450). -/
def execRowSpareComplete (die src loc : Nat) (s : State) : Res :=
  let x : Retired := { die := die, src := src, loc := loc }
  if !s.boot.sparing.contains x then .next s
  else
    let s := s.rasEvent die src 4 loc (s.rasCount die src loc)
    .next { s with boot := { s.boot with sparing := s.boot.sparing.filter (· != x), retired := s.boot.retired ++ [x] } }

/-- RAS_CLEAR: a write to RCLR clears a die's table; retirements stand (R448). -/
def execRasClear (die : Nat) (s : State) : Res := .next { s with ras := s.ras.filter (fun e => e.die != die) }

/-! ## Power and heat (R451, R452) -/

/-- The ceiling after a comparison of module power with PLIM, both in 1/8 W (R451). -/
def nextCeiling (c power plim : Nat) : Nat :=
  if plim < power then min 3 (c + 1) else if 100 * power < 95 * plim then c - 1 else c

/-- POWER_TICK: module power averaged over 1 ms against PLIM moves the ceiling by one step; each die reports its power (R451, R448). -/
def execPowerTick (eighthWatts : Nat) (dies : List Nat) (s : State) : Res :=
  let plim := 8 * s.ras0 0 0x130
  .next ((natsFrom 0 4).foldl (fun s d => s.modDie d (fun x => { x with
    throttle := nextCeiling x.throttle eighthWatts plim, power := dies.getD d x.power })) s)

/-- 110.0 °C in 1/16 °C, at which power is to be removed, and the cycles that the MMC has for it: 10 ms (R1, R452). -/
def critTemp : Int := 1760
/-- Cycles of 10 ms at 1.6 GHz (R1). -/
def critTime : Nat := 16000000

/-- A reading of 110.0 °C or more logs a kind-2 entry for the die, of a free structure, location and count, and the MMC has 10 ms from the first
to remove module power (R452; notes/assumptions/116). -/
def State.critical (s : State) (d : Nat) (t : Int) : State :=
  if t < critTemp then s
  else
    (s.rasEvent d (Config.freeNat s.tick 0 % 6) 2 (Config.freeNat s.tick 1 % 2 ^ 40) (Config.freeNat s.tick 2)).modDie d (fun x =>
      { x with critAt := if x.critAt = 0 then s.gcc + 1 else x.critAt })

/-- THERMAL_EVENT: a sensor's reading: a hearth's bears on its die's ceiling, a stack's on the admission at its homes, and either on the
module's power (R448, R452). -/
def execThermalEvent (k : ThermKind) (s : State) : Res :=
  match k with
  | .hearth h t =>
    if 192 ≤ h then .next s
    else
      let s := s.modDie (h / 48) (fun x =>
        let m := Map.put x.coreTemps h t
        { x with coreTemps := m, hot := if 1600 ≤ t then true else if m.all (fun q => decide (q.2 < 1520)) then false else x.hot })
      .next (s.critical (h / 48) t)
  | .hbm n t =>
    if 16 ≤ n then .next s
    else
      let s := s.modDie (n / 4) (fun x => { x with hbmTemps := Map.put x.hbmTemps n t })
      let cool := s.hotStacks.filter (· != n)
      let s : State := { s with hotStacks := if 1520 ≤ t then n :: cool else if t < 1440 then cool else s.hotStacks }
      .next (s.critical (n / 4) t)

end Sys2Proof.Machine
end

