-- ==== Sys2Proof/Machine/Cycle.lean ====
section
/-! DEFINITION. The advance of the global cycle counter, and what a turn does (spec/18 R370, R371; spec/14 R297; spec/05 R106, R113;
spec/20 R411, R418). A cycle ends when nothing that the spec places in it is left to be made (notes/assumptions/1). -/

namespace Sys2Proof.Machine

/-- A group has a word to issue in this cycle (R297), or the next pass of its block to start (R41). -/
def State.groupDue (s : State) (k : Nat) : Bool :=
  let h := k / 4
  let g := k % 4
  match (s.group k).blk with
  | none => false
  | some b =>
    if b.inPass then s.groupIssues h g && s.atEdge h && decide ((s.group k).nextIssue ≤ s.cycle h)
    else decide (0 < b.k) && !b.fin && (s.group k).winTo.isNone && s.groupFree h g

/-- A channel has a release, a swap, a phase start, a phase end or an abort due (R106, R108, R110, R114, R117). -/
def Chan.due (c : Chan) (n gcc : Nat) : Bool :=
  c.settleBarrier n gcc != c && c.cfg.kind != 5 || (c.cfg.kind == 5 && c.settleReduce n gcc != c)
    || (match c.swapAt with | t :: _ => decide (t ≤ gcc) | [] => false)
    || c.cfg.members.any (fun k => (c.startDue k gcc).isSome)
    || (match c.phases with | p :: _ => decide (p.t0 + c.cfg.lph ≤ gcc) | [] => false)
    || (c.aborted gcc).isSome

/-- A trace stream that has dropped packets goes on in the cycle in which its ring has room (R341). -/
def State.traceDue (s : State) (k : Nat) : Bool :=
  let tr := (s.ctx k).trace
  tr.on && tr.lost != 0 && decide (8 + 24 * (s.liveBySlot (k / 4) (k % 4)).length ≤ s.traceRoom (k / 4) (k % 4))

/-- A probe has reached the last cycle in which it may arrive (R381), or a slice its next base (R374). -/
def State.homesDue (s : State) : Bool :=
  s.probes.any (fun p => p.kind != .pack && p.lim != 0 && decide (p.lim ≤ s.gcc))
    || (natsFrom 0 49).any (fun n => decide ((s.slice n).base + 2 ^ 23 ≤ s.gcc))

/-- The MMC has had its 10 ms to remove the power of a module that is too hot (R452). -/
def State.powerDue (s : State) : Bool := s.dies.any (fun (_, d) => d.critAt != 0 && decide (d.critAt + critTime ≤ s.gcc + 1))

/-- Something that belongs to the present cycle is still to be made. -/
def State.pending (s : State) : Bool :=
  s.groups.any (fun (k, _) => s.groupDue k || s.pretDue k) || s.chans.any (fun (n, c) => c.due n s.gcc)
    || s.regsInFlight.any (fun r => decide (r.at1 ≤ s.gcc)) || s.period != s.gcc / 4096 || s.resyncDue || s.homesDue
    || s.ctxs.any (fun (k, x) => s.traceDue k || x.signalled s.gcc) || s.parts.any (fun (p, _) => s.preemptDue p) || s.watchDue || s.powerDue

/-- The performance counters of a group at a cycle's end: a local cycle that began in it, and an idle cycle in cy (R1, R345). -/
def State.groupCycle (s : State) (k : Nat) : State :=
  let h := k / 4
  let g := k % 4
  if (s.ctx k).st == .idle then s
  else
    let s := if s.atEdge h then s.perf h g 0x01 1 else s
    if (s.ctx k).bq.isEmpty && (s.group k).blk.isNone then s.perf h g 0x0C 1 else s

/-- The taps of a die that disagree with the full count at a re-sync instant: how many is free (R370, notes/assumptions/5). -/
def State.tapsErr (s : State) : State :=
  if s.gcc % 1024 = 0 then (natsFrom 0 4).foldl (fun s d => s.modDie d (fun x => { x with gccLag := Config.freeNat s.tick (64 + d) })) s else s

/-- One cycle (R370): the blocks that finish in it have finished (R344), the arrivals that wait for earlier stores are looked at again (R235), the barriers that the cycle has invalidated are
invalid (R181), the scratchpad banks serve one access each (R15), Invalidate Completions are sent (R361), a mailbox command may end
(R427), and the counters move. -/
def State.clockTick (s : State) : State :=
  if s.pending then s
  else
    let s := s.groups.foldl (fun s (k, _) => if s.exitDue k then s.settleGroup (k / 4) (k % 4) else s) s
    let s := s.groups.foldl (fun s (k, gr) => if gr.nbArr.isEmpty then s else s.nbArrivals (k / 4) (k % 4)) s
    let s := s.ctxs.foldl (fun s (k, x) => if x.nb.any (fun (_, b) => b.inv) then s.nbInvalidate k else s) s
    let s := (s.hearths.foldl (fun s (h, _) => s.banksTick h) s).atsSettle.mbRun
    let s := s.groups.foldl (fun s (k, _) => s.groupCycle k) s
    let t : State := State.tapsErr { s with gcc := s.gcc + 1 }
    -- a POST that has waited for the next cycle (R174)
    let t := t.engs.foldl (fun t (q, e) => match e.items with | .post .. :: _ => t.settleQueue q | _ => t) t
    { t with dies := t.dies.map (fun (k, d) =>
      (k, if d.throttle != 0 || d.hot then { d with throtCyc := d.throtCyc + 1 } else d)) }

/-- What a turn does to a state: an instruction to run, or the state as the turn leaves it (notes/assumptions/1). A request of the
host that is held back by an earlier one does not come yet (R387). -/
def turnAct (m : Turn) (s : State) : Act :=
  match m with
  | .cc h t => ccTurn h t s
  | .lane h g => laneTurn h g s
  | .engine h e => engineTurn h e s
  | .copyEngine e => engineTurn (engHearth (crecKey e)) 1 s
  | .event i => if s.hostHolds i then .done s else .run i s
  | .clock => .done s.clockTick

/-- The next turn: the head of the schedule, or the arbiter's choice (notes/assumptions/1). -/
def State.nextTurn (s : State) : Turn × State :=
  match s.sched with
  | m :: r => (m, { s with sched := r })
  | [] => (Config.arbiter s.tick, s)

/-- A step passes on to the next free value. -/
def State.ticked (s : State) : State := { s with tick := s.tick + 2 ^ 20 }

end Sys2Proof.Machine
end

