-- ==== Sys2Proof/Machine/LaneFloat.lean ====
section
/-! DEFINITION. The floating words of the lanes, conversions, packed halves, quantising and planes (spec/08 R197-R209). -/

namespace Sys2Proof.Machine

/-- Source i as an FP32 term; `z` flushes a subnormal (R88). -/
def fpArg (z : Bool) (l : List Nat) (i : Nat) : Term := f32.unpack z (l.getD i 0)

/-- The types that FCVT holds in a pair (R136, R188). -/
def cvtWide : CvtTy → Bool
  | .s64 => true
  | .u64 => true
  | _ => false

/-- The floating format of a conversion type. -/
def cvtFmt : CvtTy → Option Fmt
  | .f32 => some f32
  | .f16 => some f16
  | .bf16 => some bf16
  | _ => none

/-- Width and signedness of an integer conversion type. -/
def cvtInt : CvtTy → Nat × Bool
  | .s32 => (32, true)
  | .u32 => (32, false)
  | .s64 => (64, true)
  | _ => (64, false)

/-- FCVT of one value (R204). -/
def fcvt (rm : Rm) (z : Bool) (dst src : CvtTy) (x : Nat) : Nat × Nat :=
  match cvtFmt src, cvtFmt dst with
  | some f, some t => narrow t rm z (f.unpack z (x % 2 ^ (f.eb + f.fb + 1)))
  | some f, none =>
    let (w, sgn) := cvtInt dst
    let (n, fl) := cvti w sgn rm (f.unpack z (x % 2 ^ (f.eb + f.fb + 1)))
    ((BitVec.ofInt w n).toNat, fl)
  | none, some t =>
    let (w, sgn) := cvtInt src
    cvtf t rm z (if sgn then (BitVec.ofNat w x).toInt else ((x % 2 ^ w : Nat) : Int))
  | none, none => (x, 0)

/-- The format of packed halves (R205). -/
def htFmt (ht : Ht) : Fmt := if ht.bf then bf16 else f16

/-- Element e of source i. -/
def halfA (ht : Ht) (z : Bool) (l : List Nat) (i e : Nat) : Term := (htFmt ht).unpack z (l.getD i 0 / 2 ^ (16 * e) % 2 ^ 16)

/-- The element of b that BSEL puts at e: as read, low, high, exchanged (R205). -/
def bselOf (b : BitVec 2) (e : Nat) : Nat :=
  if b = 0#2 then e else if b = 1#2 then 0 else if b = 2#2 then 1 else 1 - e

/-- Element e of b′ (R205). -/
def halfB (ht : Ht) (z : Bool) (l : List Nat) (e : Nat) : Term := halfA ht z l 1 (bselOf ht.bsel e)

/-- Two elements with the union of their flags (R205). -/
def packed (f : Nat → Nat × Nat) : Nat × Nat :=
  let (x, p) := f 0
  let (y, q) := f 1
  (x + y * 2 ^ 16, p ||| q)

/-- FADD: rnd(a + b) (R198). -/
def execFadd (g : Guard) (rm : Rm) (d : Dst) (a b : Src) (s : State) : Res :=
  laneFloat g d false [(a, false), (b, false)] 4 (fun z l => rndSum f32 rm z [fpArg z l 0, fpArg z l 1]) s

/-- FSUB: rnd(a + (-b)), the sign of b inverted before the special cases (R198). -/
def execFsub (g : Guard) (rm : Rm) (d : Dst) (a b : Src) (s : State) : Res :=
  laneFloat g d false [(a, false), (b, false)] 4 (fun z l => rndSum f32 rm z [fpArg z l 0, (fpArg z l 1).neg]) s

/-- FMUL: rnd(a · b) (R198). -/
def execFmul (g : Guard) (rm : Rm) (d : Dst) (a b : Src) (s : State) : Res :=
  laneFloat g d false [(a, false), (b, false)] 4 (fun z l => rndSum f32 rm z [(fpArg z l 0).mul (fpArg z l 1)]) s

/-- FFMA: one rounding of a · b + c (R198). -/
def execFfma (g : Guard) (rm : Rm) (d : Dst) (a b c : Src) (s : State) : Res :=
  laneFloat g d false [(a, false), (b, false), (c, false)] 4 (fun z l => rndSum f32 rm z [(fpArg z l 0).mul (fpArg z l 1), fpArg z l 2]) s

/-- FMIN (R199). -/
def execFmin (g : Guard) (d : Dst) (a b : Src) (s : State) : Res :=
  laneFloat g d false [(a, false), (b, false)] 4 (fun z l => (fpMinMax false z (l.getD 0 0) (l.getD 1 0), 0)) s

/-- FMAX (R199). -/
def execFmax (g : Guard) (d : Dst) (a b : Src) (s : State) : Res :=
  laneFloat g d false [(a, false), (b, false)] 4 (fun z l => (fpMinMax true z (l.getD 0 0) (l.getD 1 0), 0)) s

/-- FRCP: 1 / a, correctly rounded (R202, R203). -/
def execFrcp (g : Guard) (d : Dst) (a : Src) (s : State) : Res :=
  laneFloat g d false [(a, false)] 10 (fun z l => fpRcp z (fpArg z l 0)) s

/-- FRSQ: 1 / √a, correctly rounded (R202, R203). -/
def execFrsq (g : Guard) (d : Dst) (a : Src) (s : State) : Res :=
  laneFloat g d false [(a, false)] 10 (fun z l => fpRsq z (fpArg z l 0)) s

/-- FSQRT: √a (R202, R203). -/
def execFsqrt (g : Guard) (rm : Rm) (d : Dst) (a : Src) (s : State) : Res :=
  laneFloat g d false [(a, false)] 10 (fun z l => fpSqrt rm z (fpArg z l 0)) s

/-- FEXP2: 2^a, correctly rounded (R202, R203). -/
def execFexp2 (g : Guard) (d : Dst) (a : Src) (s : State) : Res :=
  laneFloat g d false [(a, false)] 10 (fun z l => fpExp2 z (fpArg z l 0)) s

/-- FLOG2: log2(a), correctly rounded (R202, R203). -/
def execFlog2 (g : Guard) (d : Dst) (a : Src) (s : State) : Res :=
  laneFloat g d false [(a, false)] 10 (fun z l => fpLog2 z (fpArg z l 0)) s

/-- FSINPI: sin(π·a), correctly rounded (R202, R203). -/
def execFsinpi (g : Guard) (d : Dst) (a : Src) (s : State) : Res :=
  laneFloat g d false [(a, false)] 10 (fun z l => fpSinPi z (fpArg z l 0)) s

/-- FCOSPI: cos(π·a), correctly rounded (R202, R203). -/
def execFcospi (g : Guard) (d : Dst) (a : Src) (s : State) : Res :=
  laneFloat g d false [(a, false)] 10 (fun z l => fpCosPi z (fpArg z l 0)) s

/-- FCMP: quiet (R189, R197). -/
def execFcmp (g : Guard) (c : FloatCond) (d : Dst) (a b : Src) (s : State) : Res :=
  laneFloat g d false [(a, false), (b, false)] 4 (fun z l => (boolNat (fpCmp c (fpArg z l 0) (fpArg z l 1)), 0)) s

/-- FCLASS: of the raw pattern, never flushed (R200). -/
def execFclass (g : Guard) (d : Dst) (a : Src) (s : State) : Res :=
  laneFloat g d false [(a, false)] 4 (fun _ l => (fpClass (l.getD 0 0), 0)) s

/-- FCVT (R204): a pair is written for a 64-bit integer, and read from one. -/
def execFcvt (g : Guard) (rm : Rm) (dst src : CvtTy) (d : Dst) (a : Src) (s : State) : Res :=
  laneFloat g d (cvtWide dst) [(a, cvtWide src)] 4 (fun z l => fcvt rm z dst src (l.getD 0 0)) s

/-- FRND: the nearest integral value; no flag (R201). -/
def execFrnd (g : Guard) (rm : Rm) (d : Dst) (a : Src) (s : State) : Res :=
  laneFloat g d false [(a, false)] 4 (fun z l => (fpRnd rm (fpArg z l 0), 0)) s

/-- PKADD (R205). -/
def execPkadd (g : Guard) (rm : Rm) (ht : Ht) (d : Dst) (a b : Src) (s : State) : Res :=
  laneFloat g d false [(a, false), (b, false)] 4 (fun z l => packed (fun e => rndSum (htFmt ht) rm z [halfA ht z l 0 e, halfB ht z l e])) s

/-- PKMUL (R205). -/
def execPkmul (g : Guard) (rm : Rm) (ht : Ht) (d : Dst) (a b : Src) (s : State) : Res :=
  laneFloat g d false [(a, false), (b, false)] 4 (fun z l => packed (fun e => rndSum (htFmt ht) rm z [(halfA ht z l 0 e).mul (halfB ht z l e)])) s

/-- PKFMA: one rounding per element (R205). -/
def execPkfma (g : Guard) (rm : Rm) (ht : Ht) (d : Dst) (a b c : Src) (s : State) : Res :=
  laneFloat g d false [(a, false), (b, false), (c, false)] 4 (fun z l => packed (fun e => rndSum (htFmt ht) rm z [(halfA ht z l 0 e).mul (halfB ht z l e), halfA ht z l 2 e])) s

/-- PKDOT: one rounding of the exact expression (R206). -/
def execPkdot (g : Guard) (rm : Rm) (ht : Ht) (d : Dst) (a b c : Src) (s : State) : Res :=
  laneFloat g d false [(a, false), (b, false), (c, false)] 4 (fun z l => rndSum f32 rm z [(halfA ht z l 0 0).mul (halfB ht z l 0), (halfA ht z l 0 1).mul (halfB ht z l 1), fpArg z l 2]) s

/-- FCVTQ: the P-bit integer of a under the scale byte b[7:0] (R207). -/
def execFcvtq (g : Guard) (rm : Rm) (p : BitVec 4) (uns : Bool) (d : Dst) (a b : Src) (s : State) : Res :=
  laneFloat g d false [(a, false), (b, false)] 4 (fun z l =>
    let (n, fl) := fcvtq p.toNat uns rm (fpArg z l 0) (l.getD 1 0 % 256)
    ((BitVec.ofInt 32 n).toNat, fl)) s

/-- PLNPACK: bit l of the word is a_l[P - 1 - i] for executing lanes l (R208). -/
def execPlnpack (g : Guard) (plane pM1 : BitVec 3) (d : Dst) (a : Src) (s : State) : Res :=
  laneFixed g true d false [(a, false)] {} 4 (fun w vs _ =>
    let v := vs.headD (fun _ => 0)
    let m := (lanesOf w.ex).foldl (fun acc l => acc + boolNat ((v l).getLsbD (pM1.toNat - plane.toNat)) * 2 ^ l) 0
    (fun _ => BitVec.ofNat 64 m, 0)) s

/-- PLNUNPACK: each lane's own bit of the plane word goes into one bit of b (R209). -/
def execPlnunpack (g : Guard) (plane pM1 : BitVec 3) (d : Dst) (a b : Src) (s : State) : Res :=
  laneFixed g true d false [(a, false), (b, false)] {} 4 (fun _ vs _ =>
    let v (i : Nat) : Vals := vs.getD i (fun _ => 0)
    let n := pM1.toNat - plane.toNat
    (fun l => (v 1 l &&& ~~~(1#64 <<< n)) ||| (flagWord ((v 0 l).getLsbD l) <<< n), 0)) s

end Sys2Proof.Machine
end

