-- ==== Sys2Proof/Machine/Dispatch.lean ====
section
/-! DEFINITION. The dispatch: one arm per constructor of Instr, each a direct call of its meaning. -/

namespace Sys2Proof.Machine

def exec (i : Instr) (s : State) : Host.Outcome State Fault Refusal :=
  match i with
  | .bemit rs1 rs2 blk => Sys2Proof.Machine.execBemit rs1 rs2 blk s
  | .bemitRl rs1 rs2 blk => Sys2Proof.Machine.execBemitRl rs1 rs2 blk s
  | .kset n rs1 => Sys2Proof.Machine.execKset n rs1 s
  | .bwin rs1 => Sys2Proof.Machine.execBwin rs1 s
  | .bcancel rd rs1 => Sys2Proof.Machine.execBcancel rd rs1 s
  | .ppop rd => Sys2Proof.Machine.execPpop rd s
  | .ppopAq rd => Sys2Proof.Machine.execPpopAq rd s
  | .ptry rd => Sys2Proof.Machine.execPtry rd s
  | .pflush rd => Sys2Proof.Machine.execPflush rd s
  | .bseq rd => Sys2Proof.Machine.execBseq rd s
  | .bqdrain => Sys2Proof.Machine.execBqdrain s
  | .split rs1 off => Sys2Proof.Machine.execSplit rs1 off s
  | .merge => Sys2Proof.Machine.execMerge s
  | .esend rs1 count eng => Sys2Proof.Machine.execEsend rs1 count eng s
  | .erun rs1 eng => Sys2Proof.Machine.execErun rs1 eng s
  | .cmprd rd n => Sys2Proof.Machine.execCmprd rd n s
  | .cmpwait rs1 n => Sys2Proof.Machine.execCmpwait rs1 n s
  | .cmpdisc rs1 n => Sys2Proof.Machine.execCmpdisc rs1 n s
  | .publish rd rs1 => Sys2Proof.Machine.execPublish rd rs1 s
  | .efence eng => Sys2Proof.Machine.execEfence eng s
  | .tspawn rs1 => Sys2Proof.Machine.execTspawn rs1 s
  | .tjoin rs1 => Sys2Proof.Machine.execTjoin rs1 s
  | .tdone => Sys2Proof.Machine.execTdone s
  | .tyield rs1 => Sys2Proof.Machine.execTyield rs1 s
  | .tself rd => Sys2Proof.Machine.execTself rd s
  | .nbinit n rs1 => Sys2Proof.Machine.execNbinit n rs1 s
  | .nbarrive n => Sys2Proof.Machine.execNbarrive n s
  | .nbwait rd n => Sys2Proof.Machine.execNbwait rd n s
  | .nbinval n => Sys2Proof.Machine.execNbinval n s
  | .nbstat rd n => Sys2Proof.Machine.execNbstat rd n s
  | .cwarrive rs1 => Sys2Proof.Machine.execCwarrive rs1 s
  | .cwwait rs1 => Sys2Proof.Machine.execCwwait rs1 s
  | .cwbcast rs1 rs2 => Sys2Proof.Machine.execCwbcast rs1 rs2 s
  | .cwrecv rd rs1 => Sys2Proof.Machine.execCwrecv rd rs1 s
  | .cwrsum rd rs1 rs2 => Sys2Proof.Machine.execCwrsum rd rs1 rs2 s
  | .cwrmin rd rs1 rs2 => Sys2Proof.Machine.execCwrmin rd rs1 rs2 s
  | .cwrmax rd rs1 rs2 => Sys2Proof.Machine.execCwrmax rd rs1 rs2 s
  | .sstep rs1 => Sys2Proof.Machine.execSstep rs1 s
  | .ldaq rd rs1 width cls scope => Sys2Proof.Machine.execLdaq rd rs1 width cls scope s
  | .strl rs1 rs2 width cls scope => Sys2Proof.Machine.execStrl rs1 rs2 width cls scope s
  | .fences scope => Sys2Proof.Machine.execFences scope s
  | .iinval scope => Sys2Proof.Machine.execIinval scope s
  | .tmark imm => Sys2Proof.Machine.execTmark imm s
  | .ccLoadStore op => Sys2Proof.Machine.execCcLoadStore op s
  | .lrSc op => Sys2Proof.Machine.execLrSc op s
  | .amo op width aq rl rd rs1 rs2 => Sys2Proof.Machine.execAmo op width aq rl rd rs1 rs2 s
  | .rvFence => Sys2Proof.Machine.execRvFence s
  | .fenceI => Sys2Proof.Machine.execFenceI s
  | .rvBranch c rs1 rs2 off => Sys2Proof.Machine.execRvBranch c rs1 rs2 off s
  | .jalr rd rs1 imm => Sys2Proof.Machine.execJalr rd rs1 imm s
  | .ebreak => Sys2Proof.Machine.execEbreak s
  | .ecall => Sys2Proof.Machine.execEcall s
  | .ccIllegalInstruction custom => Sys2Proof.Machine.execCcIllegalInstruction custom s
  | .rvIntegerInstruction op => Sys2Proof.Machine.execRvIntegerInstruction op s
  | .ybbaseWrite op rd src => Sys2Proof.Machine.execYbbaseWrite op rd src s
  | .yscopeWrite op rd src => Sys2Proof.Machine.execYscopeWrite op rd src s
  | .yxwinWrite op rd src => Sys2Proof.Machine.execYxwinWrite op rd src s
  | .nop g => Sys2Proof.Machine.execNop g s
  | .mov g d a => Sys2Proof.Machine.execMov g d a s
  | .movi g d imm => Sys2Proof.Machine.execMovi g d imm s
  | .iadd g d a b => Sys2Proof.Machine.execIadd g d a b s
  | .isub g d a b => Sys2Proof.Machine.execIsub g d a b s
  | .iaddi g d a imm => Sys2Proof.Machine.execIaddi g d a imm s
  | .imul g d a b => Sys2Proof.Machine.execImul g d a b s
  | .imulh g d a b => Sys2Proof.Machine.execImulh g d a b s
  | .imulhu g d a b => Sys2Proof.Machine.execImulhu g d a b s
  | .imad g d a b c => Sys2Proof.Machine.execImad g d a b c s
  | .imin g d a b => Sys2Proof.Machine.execImin g d a b s
  | .imax g d a b => Sys2Proof.Machine.execImax g d a b s
  | .umin g d a b => Sys2Proof.Machine.execUmin g d a b s
  | .umax g d a b => Sys2Proof.Machine.execUmax g d a b s
  | .iabs g d a => Sys2Proof.Machine.execIabs g d a s
  | .iadds g d a b u => Sys2Proof.Machine.execIadds g d a b u s
  | .and g d a b => Sys2Proof.Machine.execAnd g d a b s
  | .or g d a b => Sys2Proof.Machine.execOr g d a b s
  | .xor g d a b => Sys2Proof.Machine.execXor g d a b s
  | .andn g d a b => Sys2Proof.Machine.execAndn g d a b s
  | .ltab g d a b c table => Sys2Proof.Machine.execLtab g d a b c table s
  | .shl g d a b => Sys2Proof.Machine.execShl g d a b s
  | .shr g d a b => Sys2Proof.Machine.execShr g d a b s
  | .sar g d a b => Sys2Proof.Machine.execSar g d a b s
  | .rotl g d a b => Sys2Proof.Machine.execRotl g d a b s
  | .clz g d a => Sys2Proof.Machine.execClz g d a s
  | .popc g d a => Sys2Proof.Machine.execPopc g d a s
  | .brev g d a => Sys2Proof.Machine.execBrev g d a s
  | .bfx g d a lsb widthM1 sx => Sys2Proof.Machine.execBfx g d a lsb widthM1 sx s
  | .bfi g d a b lsb widthM1 => Sys2Proof.Machine.execBfi g d a b lsb widthM1 s
  | .sel g d a b c => Sys2Proof.Machine.execSel g d a b c s
  | .iadd64 g d a b => Sys2Proof.Machine.execIadd64 g d a b s
  | .isub64 g d a b => Sys2Proof.Machine.execIsub64 g d a b s
  | .shl64 g d a b => Sys2Proof.Machine.execShl64 g d a b s
  | .shr64 g d a b => Sys2Proof.Machine.execShr64 g d a b s
  | .imulw g d a b u => Sys2Proof.Machine.execImulw g d a b u s
  | .icmp g c d a b => Sys2Proof.Machine.execIcmp g c d a b s
  | .icmp64 g c d a b => Sys2Proof.Machine.execIcmp64 g c d a b s
  | .fadd g rm d a b => Sys2Proof.Machine.execFadd g rm d a b s
  | .fsub g rm d a b => Sys2Proof.Machine.execFsub g rm d a b s
  | .fmul g rm d a b => Sys2Proof.Machine.execFmul g rm d a b s
  | .ffma g rm d a b c => Sys2Proof.Machine.execFfma g rm d a b c s
  | .fmin g d a b => Sys2Proof.Machine.execFmin g d a b s
  | .fmax g d a b => Sys2Proof.Machine.execFmax g d a b s
  | .frcp g d a => Sys2Proof.Machine.execFrcp g d a s
  | .frsq g d a => Sys2Proof.Machine.execFrsq g d a s
  | .fsqrt g rm d a => Sys2Proof.Machine.execFsqrt g rm d a s
  | .fexp2 g d a => Sys2Proof.Machine.execFexp2 g d a s
  | .flog2 g d a => Sys2Proof.Machine.execFlog2 g d a s
  | .fsinpi g d a => Sys2Proof.Machine.execFsinpi g d a s
  | .fcospi g d a => Sys2Proof.Machine.execFcospi g d a s
  | .fcmp g c d a b => Sys2Proof.Machine.execFcmp g c d a b s
  | .fclass g d a => Sys2Proof.Machine.execFclass g d a s
  | .fcvt g rm dst src d a => Sys2Proof.Machine.execFcvt g rm dst src d a s
  | .frnd g rm d a => Sys2Proof.Machine.execFrnd g rm d a s
  | .pkadd g rm ht d a b => Sys2Proof.Machine.execPkadd g rm ht d a b s
  | .pkmul g rm ht d a b => Sys2Proof.Machine.execPkmul g rm ht d a b s
  | .pkfma g rm ht d a b c => Sys2Proof.Machine.execPkfma g rm ht d a b c s
  | .pkdot g rm ht d a b c => Sys2Proof.Machine.execPkdot g rm ht d a b c s
  | .fcvtq g rm p uns d a b => Sys2Proof.Machine.execFcvtq g rm p uns d a b s
  | .plnpack g plane pM1 d a => Sys2Proof.Machine.execPlnpack g plane pM1 d a s
  | .plnunpack g plane pM1 d a b => Sys2Proof.Machine.execPlnunpack g plane pM1 d a b s
  | .ldb g m d base off => Sys2Proof.Machine.execLdb g m d base off s
  | .ldbs g m d base off => Sys2Proof.Machine.execLdbs g m d base off s
  | .ldh g m d base off => Sys2Proof.Machine.execLdh g m d base off s
  | .ldhs g m d base off => Sys2Proof.Machine.execLdhs g m d base off s
  | .ldw g m d base off => Sys2Proof.Machine.execLdw g m d base off s
  | .ldd g m d base off => Sys2Proof.Machine.execLdd g m d base off s
  | .stb g m base off c => Sys2Proof.Machine.execStb g m base off c s
  | .sth g m base off c => Sys2Proof.Machine.execSth g m base off c s
  | .stw g m base off c => Sys2Proof.Machine.execStw g m base off c s
  | .std g m base off c => Sys2Proof.Machine.execStd g m base off c s
  | .lds g m d base off => Sys2Proof.Machine.execLds g m d base off s
  | .sts g m base off c => Sys2Proof.Machine.execSts g m base off c s
  | .stx g m target off c => Sys2Proof.Machine.execStx g m target off c s
  | .ldp g m d base off => Sys2Proof.Machine.execLdp g m d base off s
  | .stp g m base off c => Sys2Proof.Machine.execStp g m base off c s
  | .pref g m base off => Sys2Proof.Machine.execPref g m base off s
  | .aadd g m d base off c => Sys2Proof.Machine.execAadd g m d base off c s
  | .amin g m d base off c => Sys2Proof.Machine.execAmin g m d base off c s
  | .amax g m d base off c => Sys2Proof.Machine.execAmax g m d base off c s
  | .aumin g m d base off c => Sys2Proof.Machine.execAumin g m d base off c s
  | .aumax g m d base off c => Sys2Proof.Machine.execAumax g m d base off c s
  | .aand g m d base off c => Sys2Proof.Machine.execAand g m d base off c s
  | .aor g m d base off c => Sys2Proof.Machine.execAor g m d base off c s
  | .axor g m d base off c => Sys2Proof.Machine.execAxor g m d base off c s
  | .axchg g m d base off c => Sys2Proof.Machine.execAxchg g m d base off c s
  | .aaddf g m d base off c => Sys2Proof.Machine.execAaddf g m d base off c s
  | .acas g m v base off c => Sys2Proof.Machine.execAcas g m v base off c s
  | .acas64 g m v base off c => Sys2Proof.Machine.execAcas64 g m v base off c s
  | .acas128 g m v base off c => Sys2Proof.Machine.execAcas128 g m v base off c s
  | .pand g d a b => Sys2Proof.Machine.execPand g d a b s
  | .por g d a b => Sys2Proof.Machine.execPor g d a b s
  | .pxor g d a b => Sys2Proof.Machine.execPxor g d a b s
  | .pandn g d a b => Sys2Proof.Machine.execPandn g d a b s
  | .pset g d a => Sys2Proof.Machine.execPset g d a s
  | .ballot g d a => Sys2Proof.Machine.execBallot g d a s
  | .pvote g m d a => Sys2Proof.Machine.execPvote g m d a s
  | .pret g a tag => Sys2Proof.Machine.execPret g a tag s
  | .xl g own d a b => Sys2Proof.Machine.execXl g own d a b s
  | .scan g op excl d a => Sys2Proof.Machine.execScan g op excl d a s
  | .reduce g op d a => Sys2Proof.Machine.execReduce g op d a s
  | .compact g d a b => Sys2Proof.Machine.execCompact g d a b s
  | .exit g => Sys2Proof.Machine.execExit g s
  | .mma g bank fmt idx k ver => Sys2Proof.Machine.execMma g bank fmt idx k ver s
  | .mzero g bank => Sys2Proof.Machine.execMzero g bank s
  | .mrd g d bank col => Sys2Proof.Machine.execMrd g d bank col s
  | .mwr g a bank col => Sys2Proof.Machine.execMwr g a bank col s
  | .mscat g rm a bank fmt => Sys2Proof.Machine.execMscat g rm a bank fmt s
  | .mver g d bank => Sys2Proof.Machine.execMver g d bank s
  | .rebal g d a b k => Sys2Proof.Machine.execRebal g d a b k s
  | .lbound g d a b c => Sys2Proof.Machine.execLbound g d a b c s
  | .wait g l st c t => Sys2Proof.Machine.execWait g l st c t s
  | .fence g scope => Sys2Proof.Machine.execFence g scope s
  | .nbarriveLane g n => Sys2Proof.Machine.execNbarriveLane g n s
  | .nbwaitLane g n => Sys2Proof.Machine.execNbwaitLane g n s
  | .xmit g a port => Sys2Proof.Machine.execXmit g a port s
  | .xsel g d port cyc => Sys2Proof.Machine.execXsel g d port cyc s
  | .xselF g d port port2 cyc => Sys2Proof.Machine.execXselF g d port port2 cyc s
  | .tmarkLane g mark => Sys2Proof.Machine.execTmarkLane g mark s
  | .brk g code => Sys2Proof.Machine.execBrk g code s
  | .cntr g d n => Sys2Proof.Machine.execCntr g d n s
  | .unassignedLaneOpcode w => Sys2Proof.Machine.execUnassignedLaneOpcode w s
  | .litPush n => Sys2Proof.Machine.execLitPush n s
  | .litContinue n => Sys2Proof.Machine.execLitContinue n s
  | .engineNop => Sys2Proof.Machine.execEngineNop s
  | .dup => Sys2Proof.Machine.execDup s
  | .drop => Sys2Proof.Machine.execDrop s
  | .swap => Sys2Proof.Machine.execSwap s
  | .over => Sys2Proof.Machine.execOver s
  | .neg => Sys2Proof.Machine.execNeg s
  | .shli n => Sys2Proof.Machine.execShli n s
  | .add => Sys2Proof.Machine.execAdd s
  | .gccp n => Sys2Proof.Machine.execGccp n s
  | .post n => Sys2Proof.Machine.execPost n s
  | .arrive n => Sys2Proof.Machine.execArrive n s
  | .mode rm ftz => Sys2Proof.Machine.execMode rm ftz s
  | .efenceWord => Sys2Proof.Machine.execEfenceWord s
  | .accst bank fmt => Sys2Proof.Machine.execAccst bank fmt s
  | .accld bank fmt => Sys2Proof.Machine.execAccld bank fmt s
  | .accclr bank => Sys2Proof.Machine.execAccclr bank s
  | .vmode on => Sys2Proof.Machine.execVmode on s
  | .spgemm => Sys2Proof.Machine.execSpgemm s
  | .fibre => Sys2Proof.Machine.execFibre s
  | .cpy => Sys2Proof.Machine.execCpy s
  | .srct => Sys2Proof.Machine.execSrct s
  | .dstt => Sys2Proof.Machine.execDstt s
  | .box dM1 => Sys2Proof.Machine.execBox dM1 s
  | .tcpy => Sys2Proof.Machine.execTcpy s
  | .tgath wide => Sys2Proof.Machine.execTgath wide s
  | .tscat wide => Sys2Proof.Machine.execTscat wide s
  | .bloadb => Sys2Proof.Machine.execBloadb s
  | .slred => Sys2Proof.Machine.execSlred s
  | .zero => Sys2Proof.Machine.execZero s
  | .xch => Sys2Proof.Machine.execXch s
  | .strm q => Sys2Proof.Machine.execStrm q s
  | .strmt q => Sys2Proof.Machine.execStrmt q s
  | .ostrm q => Sys2Proof.Machine.execOstrm q s
  | .scloseIq q => Sys2Proof.Machine.execScloseIq q s
  | .scloseOq q => Sys2Proof.Machine.execScloseOq q s
  | .rvtab => Sys2Proof.Machine.execRvtab s
  | .rxin bf => Sys2Proof.Machine.execRxin bf s
  | .rprog => Sys2Proof.Machine.execRprog s
  | .ryout => Sys2Proof.Machine.execRyout s
  | .rdlim d => Sys2Proof.Machine.execRdlim d s
  | .reval bM1 => Sys2Proof.Machine.execReval bM1 s
  | .dispatch h c => Sys2Proof.Machine.execDispatch h c s
  | .copyRecordDispatch p e => Sys2Proof.Machine.execCopyRecordDispatch p e s
  | .copyRecordComplete e => Sys2Proof.Machine.execCopyRecordComplete e s
  | .joinDecrement p => Sys2Proof.Machine.execJoinDecrement p s
  | .fanoutWalk p => Sys2Proof.Machine.execFanoutWalk p s
  | .readyPush p level => Sys2Proof.Machine.execReadyPush p level s
  | .blockTake h g => Sys2Proof.Machine.execBlockTake h g s
  | .ksetApply h g => Sys2Proof.Machine.execKsetApply h g s
  | .windowChangeApply h g => Sys2Proof.Machine.execWindowChangeApply h g s
  | .passStart h g => Sys2Proof.Machine.execPassStart h g s
  | .fixedLatencyWriteback h g => Sys2Proof.Machine.execFixedLatencyWriteback h g s
  | .laneLoadComplete h g id => Sys2Proof.Machine.execLaneLoadComplete h g id s
  | .oqLoadPush h g id => Sys2Proof.Machine.execOqLoadPush h g id s
  | .laneStoreComplete h g id => Sys2Proof.Machine.execLaneStoreComplete h g id s
  | .tileOpComplete h g => Sys2Proof.Machine.execTileOpComplete h g s
  | .tileOpStart h g => Sys2Proof.Machine.execTileOpStart h g s
  | .prqPush h g => Sys2Proof.Machine.execPrqPush h g s
  | .stxArrive n => Sys2Proof.Machine.execStxArrive n s
  | .exchangeSwap ch => Sys2Proof.Machine.execExchangeSwap ch s
  | .engineTurn h e => Sys2Proof.Machine.execEngineTurn h e s
  | .scriptFetchAppend q => Sys2Proof.Machine.execScriptFetchAppend q s
  | .copyCommandStart e => Sys2Proof.Machine.execCopyCommandStart e s
  | .commandElementFault q n => Sys2Proof.Machine.execCommandElementFault q n s
  | .engineCommandComplete q n => Sys2Proof.Machine.execEngineCommandComplete q n s
  | .markerPerform q => Sys2Proof.Machine.execMarkerPerform q s
  | .streamOpen q n => Sys2Proof.Machine.execStreamOpen q n s
  | .streamElement q n => Sys2Proof.Machine.execStreamElement q n s
  | .causewayRelease ch => Sys2Proof.Machine.execCausewayRelease ch s
  | .reductionRelease ch => Sys2Proof.Machine.execReductionRelease ch s
  | .broadcastArrive ch => Sys2Proof.Machine.execBroadcastArrive ch s
  | .bcastHeldSend ch => Sys2Proof.Machine.execBcastHeldSend ch s
  | .phaseBlockStart h g => Sys2Proof.Machine.execPhaseBlockStart h g s
  | .xmitBeatArrive n => Sys2Proof.Machine.execXmitBeatArrive n s
  | .phaseEnd ch => Sys2Proof.Machine.execPhaseEnd ch s
  | .phaseAbort ch => Sys2Proof.Machine.execPhaseAbort ch s
  | .sluiceSegmentEmit p tree node => Sys2Proof.Machine.execSluiceSegmentEmit p tree node s
  | .sluiceRootStore p tree => Sys2Proof.Machine.execSluiceRootStore p tree s
  | .publishFlip p tid => Sys2Proof.Machine.execPublishFlip p tid s
  | .preemptSignal p => Sys2Proof.Machine.execPreemptSignal p s
  | .preemptStop h c => Sys2Proof.Machine.execPreemptStop h c s
  | .trapRecordWrite p => Sys2Proof.Machine.execTrapRecordWrite p s
  | .faultEntryWrite p => Sys2Proof.Machine.execFaultEntryWrite p s
  | .watchdogExpire w => Sys2Proof.Machine.execWatchdogExpire w s
  | .pageWalk n => Sys2Proof.Machine.execPageWalk n s
  | .gccResync die => Sys2Proof.Machine.execGccResync die s
  | .clockStepChange h => Sys2Proof.Machine.execClockStepChange h s
  | .sliceRebase home => Sys2Proof.Machine.execSliceRebase home s
  | .rd n => Sys2Proof.Machine.execRd n s
  | .rnw n => Sys2Proof.Machine.execRnw n s
  | .wr n => Sys2Proof.Machine.execWr n s
  | .wb n => Sys2Proof.Machine.execWb n s
  | .at_ n => Sys2Proof.Machine.execAt n s
  | .dat n => Sys2Proof.Machine.execDat n s
  | .rnwok n => Sys2Proof.Machine.execRnwok n s
  | .wack n => Sys2Proof.Machine.execWack n s
  | .nack n => Sys2Proof.Machine.execNack n s
  | .err n => Sys2Proof.Machine.execErr n s
  | .rec_ n => Sys2Proof.Machine.execRec n s
  | .trec n => Sys2Proof.Machine.execTrec n s
  | .zrec n => Sys2Proof.Machine.execZrec n s
  | .pack n => Sys2Proof.Machine.execPack n s
  | .fillReturn atom host => Sys2Proof.Machine.execFillReturn atom host s
  | .l2Evict atom => Sys2Proof.Machine.execL2Evict atom s
  | .birsp line dirty => Sys2Proof.Machine.execBirsp line dirty s
  | .hostSnoop line => Sys2Proof.Machine.execHostSnoop line s
  | .hostCxlMemAccess pa op => Sys2Proof.Machine.execHostCxlMemAccess pa op s
  | .bar1Access pa op relaxed => Sys2Proof.Machine.execBar1Access pa op relaxed s
  | .atsCompletion n read write frame size => Sys2Proof.Machine.execAtsCompletion n read write frame size s
  | .atsInvalidate pasid addr len => Sys2Proof.Machine.execAtsInvalidate pasid addr len s
  | .prgSuccess n => Sys2Proof.Machine.execPrgSuccess n s
  | .prgInvalidRequest n => Sys2Proof.Machine.execPrgInvalidRequest n s
  | .prgResponseFailure n => Sys2Proof.Machine.execPrgResponseFailure n s
  | .pcieAtomicCompletion n ok => Sys2Proof.Machine.execPcieAtomicCompletion n ok s
  | .flitError die bad reg => Sys2Proof.Machine.execFlitError die bad reg s
  | .launchPush p v => Sys2Proof.Machine.execLaunchPush p v s
  | .launchClear p => Sys2Proof.Machine.execLaunchClear p s
  | .partitionStart p => Sys2Proof.Machine.execPartitionStart p s
  | .partitionStop p => Sys2Proof.Machine.execPartitionStop p s
  | .partitionDrainDone p => Sys2Proof.Machine.execPartitionDrainDone p s
  | .pstepWrite p j v => Sys2Proof.Machine.execPstepWrite p j v s
  | .tactResume p token => Sys2Proof.Machine.execTactResume p token s
  | .tactKillContext p token => Sys2Proof.Machine.execTactKillContext p token s
  | .tactKillPartition p token => Sys2Proof.Machine.execTactKillPartition p token s
  | .tactDump p token act => Sys2Proof.Machine.execTactDump p token act s
  | .kill p h c => Sys2Proof.Machine.execKill p h c s
  | .killAll p => Sys2Proof.Machine.execKillAll p s
  | .killDone p h c => Sys2Proof.Machine.execKillDone p h c s
  | .invcmdRange p count => Sys2Proof.Machine.execInvcmdRange p count s
  | .invcmdPartition p => Sys2Proof.Machine.execInvcmdPartition p s
  | .invcmdTensor p tid => Sys2Proof.Machine.execInvcmdTensor p tid s
  | .invalidationComplete p => Sys2Proof.Machine.execInvalidationComplete p s
  | .replay p token => Sys2Proof.Machine.execReplay p token s
  | .replayRefuse p token => Sys2Proof.Machine.execReplayRefuse p token s
  | .zcmd die count => Sys2Proof.Machine.execZcmd die count s
  | .zeroComplete die => Sys2Proof.Machine.execZeroComplete die s
  | .sweeperStep die => Sys2Proof.Machine.execSweeperStep die s
  | .budgetPeriod => Sys2Proof.Machine.execBudgetPeriod s
  | .debugHalt h c => Sys2Proof.Machine.execDebugHalt h c s
  | .haltReached h c => Sys2Proof.Machine.execHaltReached h c s
  | .debugResume h c => Sys2Proof.Machine.execDebugResume h c s
  | .debugStep h c => Sys2Proof.Machine.execDebugStep h c s
  | .posSample h c => Sys2Proof.Machine.execPosSample h c s
  | .traceBaseWrite h c v => Sys2Proof.Machine.execTraceBaseWrite h c v s
  | .traceLossResync h c => Sys2Proof.Machine.execTraceLossResync h c s
  | .qpload qpn => Sys2Proof.Machine.execQpload qpn s
  | .qpSendDoorbell qpn => Sys2Proof.Machine.execQpSendDoorbell qpn s
  | .qpReceiveDoorbell qpn => Sys2Proof.Machine.execQpReceiveDoorbell qpn s
  | .roceSendReceive qpn data => Sys2Proof.Machine.execRoceSendReceive qpn data s
  | .roceWriteReceive qpn key va data => Sys2Proof.Machine.execRoceWriteReceive qpn key va data s
  | .roceReadReceive qpn key va len => Sys2Proof.Machine.execRoceReadReceive qpn key va len s
  | .qpEntryComplete qpn ok data => Sys2Proof.Machine.execQpEntryComplete qpn ok data s
  | .qpRetryTimeout qpn => Sys2Proof.Machine.execQpRetryTimeout qpn s
  | .peerRequest r => Sys2Proof.Machine.execPeerRequest r s
  | .peerRefusal n sub => Sys2Proof.Machine.execPeerRefusal n sub s
  | .mbReadCert => Sys2Proof.Machine.execMbReadCert s
  | .mbAttest => Sys2Proof.Machine.execMbAttest s
  | .mbStageRecord => Sys2Proof.Machine.execMbStageRecord s
  | .boot env => Sys2Proof.Machine.execBoot env s
  | .powerLoss tornSlot => Sys2Proof.Machine.execPowerLoss tornSlot s
  | .correctedError die src loc => Sys2Proof.Machine.execCorrectedError die src loc s
  | .uncorrectableError die src loc => Sys2Proof.Machine.execUncorrectableError die src loc s
  | .retirement die src loc => Sys2Proof.Machine.execRetirement die src loc s
  | .rowSpareComplete die src loc => Sys2Proof.Machine.execRowSpareComplete die src loc s
  | .rasClear die => Sys2Proof.Machine.execRasClear die s
  | .powerTick eighthWatts dies => Sys2Proof.Machine.execPowerTick eighthWatts dies s
  | .thermalEvent k => Sys2Proof.Machine.execThermalEvent k s
  | .registerWrite bar off v => Sys2Proof.Machine.execRegisterWrite bar off v s
  | .bqEntryOtherKind h g => Sys2Proof.Machine.execBqEntryOtherKind h g s
  | .programTimestampWaitEnd a => Sys2Proof.Machine.execProgramTimestampWaitEnd a s
  | .exchangeWindowSettingArrive h => Sys2Proof.Machine.execExchangeWindowSettingArrive h s
  | .linkFailure k => Sys2Proof.Machine.execLinkFailure k s
  | .peerResponse n ok data => Sys2Proof.Machine.execPeerResponse n ok data s
  | .pcieCompletion n ok data => Sys2Proof.Machine.execPcieCompletion n ok data s
  | .pfcPauseFrame port prio pause => Sys2Proof.Machine.execPfcPauseFrame port prio pause s

end Sys2Proof.Machine
end

