-- ==== Sys2Proof/Machine/Step.lean ====
section
/-! DEFINITION. One step of the package: the next turn of the schedule, and the instruction that it runs (notes/assumptions/1). -/

namespace Sys2Proof.Machine

/-- A turn that a module without power can make: start-up (R425, R453). -/
def Turn.isBoot : Turn → Bool
  | .event (.boot _) => true
  | _ => false

/-- A step: the next turn runs its instruction or makes its move; a module without power can only start (R425, R429, R452). -/
def step (s : State) : Host.Outcome State Fault Refusal :=
  if s.powered || Turn.isBoot s.nextTurn.1 then
    match turnAct s.nextTurn.1 s.nextTurn.2.ticked with
    | .run i t => exec i t
    | .done t => .next t
  else .fault .noPower

/-- The virtual and physical address at which `withFetchWord` places a control instruction. -/
def fetchBase : Nat := 0x1000

/-- A control thread about to fetch at `fetchBase`, mapped in its hearth's TLB. -/
def State.withCcWord (s : State) (w : Nat) : State :=
  let s := s.setBytes fetchBase (bytesOf w 4)
  let s := s.modHearth 0 (fun h => { h with tlb := { part := 0, va := fetchBase, lg := 12, tgt := .dev fetchBase, x := true } :: h.tlb })
  let s := s.modCtx 0 (fun x => { x with st := .running })
  let s := s.modThread 0 (fun th => { th with st := .running, pc := BitVec.ofNat 64 fetchBase })
  { s with sched := .cc 0 0 :: s.sched }

/-- A lane group whose running block holds the word. -/
def State.withLaneWord (s : State) (w : Nat) : State :=
  let s := s.modCtx 0 (fun x => { x with st := .running })
  let s := s.modGroup 0 (fun g => { g with blk := some {
    n := 1, mask := 0xFFFFFFFF#32, tab := { need := 14, len := 1 }, inPass := true, body := [BitVec.ofNat 64 w] } })
  { s with sched := .lane 0 0 :: s.sched }

/-- The engine that takes a word: the copy engine's for a copy word, and so on; the matrix engine for the common words. -/
def wordEngine (w : BitVec 16) : Nat :=
  match decodeEngine w with
  | .ok i => (engineOf i).getD 0 % 4
  | .error _ => 0

/-- An engine queue with the word at its head. -/
def State.withEngineWord (s : State) (w : Nat) : State :=
  let e := wordEngine (BitVec.ofNat 16 w)
  let s := s.modCtx 0 (fun x => { x with st := .running })
  let s := s.modHearth 0 (fun h => { h with turn := Map.put h.turn e 0 })
  let s := s.modEng (qkey 0 0 e) (fun q => { q with words := { w := BitVec.ofNat 16 w } :: q.words })
  { s with sched := .engine 0 e :: s.sched }

/-- The instruction stored where the next step fetches: a control word at a thread's pc, a lane word in the running block, an
engine word at the head of its engine's queue (notes/assumptions/9). -/
def State.withFetchWord (s : State) (nbits w : Nat) : State :=
  if nbits ≤ 16 then s.withEngineWord w
  else if nbits ≤ 32 then s.withCcWord w
  else s.withLaneWord w

end Sys2Proof.Machine
end

