-- ==== Sys2Proof/Safety.lean ====
section
/-! DEFINITION. The terms of the statements: what a state that the hardware can be in satisfies, the results of instructions
as numbers, when an agent's part of an instruction is ready, and the state that an instruction leaves. -/

namespace Sys2Proof.Machine

/-- Memory is in its canonical form, so that equal memories are equal data. -/
def State.memOk (s : State) : Bool := Memory.wf s.mem

/-! ## Control instructions -/

/-- The state when the control instruction at hand has retired: the executing thread's record alone has changed, by `f`, by its pc,
its count, and the end of its waits. -/
def State.ccRet (s : State) (pc' : Word64) (f : Thread → Thread) : State :=
  { s with threads := Map.put s.threads s.tk { f s.th with
      pc := pc', instret := s.th.instret + 1, wait := none, part := 0, hold := [], suppress := [], stale := false, since := 0, held := false } }

/-- The same with a result register and nothing else. -/
def State.ccWrote (s : State) (rd : XReg) (v pc' : Word64) : State := s.ccRet pc' (fun th => th.setX rd v)

/-- The state when the instruction at hand waits: the wait's kind and the cycle it began, if it has not begun already. -/
def State.ccWaits (s : State) (k : WaitK) : State :=
  { s with threads := Map.put s.threads s.tk { s.th with wait := some (s.th.wait.getD { kind := k, since := s.gcc }) } }

/-- A 64-bit value from the number of a 32-bit result, sign-extended (RV64I word forms). -/
def word32 (n : Int) : Word64 := (BitVec.ofInt 32 n).signExtend 64

/-- Division toward zero with the M extension's two corners: by zero all ones; otherwise the quotient (which wraps). -/
def quotient (a b : Int) : Int := if b = 0 then -1 else Int.tdiv a b
/-- The remainder of that division: by zero the dividend. -/
def remainder (a b : Int) : Int := if b = 0 then a else Int.tmod a b

/-- Register-immediate results of RV64I as numbers. -/
def rvImm (op : AluI) (a : Word64) (imm : BitVec 12) : Word64 :=
  match op with
  | .addi => BitVec.ofInt 64 (a.toInt + imm.toInt)
  | .slti => if a.toInt < imm.toInt then 1 else 0
  | .sltiu => if a.toNat < (imm.signExtend 64 : Word64).toNat then 1 else 0
  | .xori => a ^^^ imm.signExtend 64
  | .ori => a ||| imm.signExtend 64
  | .andi => a &&& imm.signExtend 64
  | .addiw => word32 (a.toInt + imm.toInt)

/-- Shift-immediate results as numbers. -/
def rvShift (op : AluSh) (a : Word64) (sh : Nat) : Word64 :=
  let w : Nat := a.toNat % 2 ^ 32
  match op with
  | .slli => BitVec.ofNat 64 (a.toNat * 2 ^ sh)
  | .srli => BitVec.ofNat 64 (a.toNat / 2 ^ sh)
  | .srai => BitVec.ofInt 64 (a.toInt / 2 ^ sh)
  | .rori => BitVec.ofNat 64 (a.toNat / 2 ^ sh + a.toNat * 2 ^ (64 - sh))
  | .slliUw => BitVec.ofNat 64 (w * 2 ^ sh)
  | .slliw => word32 (w * 2 ^ sh)
  | .srliw => word32 (w / 2 ^ sh : Nat)
  | .sraiw => word32 ((lo32 a).toInt / 2 ^ sh)
  | .roriw => word32 (w / 2 ^ (sh % 32) + w * 2 ^ (32 - sh % 32) : Nat)

/-- Register-register results of RV64I, M, Zba and Zbb as numbers. -/
def rvReg (op : AluR) (a b : Word64) : Word64 :=
  let n : Nat := b.toNat % 64
  let m : Nat := b.toNat % 32
  let w : Nat := a.toNat % 2 ^ 32
  let x := (lo32 a).toInt
  let y := (lo32 b).toInt
  match op with
  | .add => BitVec.ofInt 64 (a.toInt + b.toInt)
  | .sub => BitVec.ofInt 64 (a.toInt - b.toInt)
  | .sll => BitVec.ofNat 64 (a.toNat * 2 ^ n)
  | .slt => if a.toInt < b.toInt then 1 else 0
  | .sltu => if a.toNat < b.toNat then 1 else 0
  | .xor => a ^^^ b
  | .srl => BitVec.ofNat 64 (a.toNat / 2 ^ n)
  | .sra => BitVec.ofInt 64 (a.toInt / 2 ^ n)
  | .or => a ||| b
  | .and => a &&& b
  | .addw => word32 (x + y)
  | .subw => word32 (x - y)
  | .sllw => word32 (w * 2 ^ m)
  | .srlw => word32 (w / 2 ^ m : Nat)
  | .sraw => word32 (x / 2 ^ m)
  | .mul => BitVec.ofInt 64 (a.toInt * b.toInt)
  | .mulh => BitVec.ofInt 64 (a.toInt * b.toInt / 2 ^ 64)
  | .mulhsu => BitVec.ofInt 64 (a.toInt * b.toNat / 2 ^ 64)
  | .mulhu => BitVec.ofInt 64 (a.toNat * b.toNat / 2 ^ 64)
  | .div => BitVec.ofInt 64 (quotient a.toInt b.toInt)
  | .divu => BitVec.ofInt 64 (quotient a.toNat b.toNat)
  | .rem => BitVec.ofInt 64 (remainder a.toInt b.toInt)
  | .remu => BitVec.ofInt 64 (remainder a.toNat b.toNat)
  | .mulw => word32 (x * y)
  | .divw => word32 (quotient x y)
  | .divuw => word32 (quotient (lo32 a).toNat (lo32 b).toNat)
  | .remw => word32 (remainder x y)
  | .remuw => word32 (remainder (lo32 a).toNat (lo32 b).toNat)
  | .addUw => BitVec.ofNat 64 (w + b.toNat)
  | .sh1add => BitVec.ofNat 64 (2 * a.toNat + b.toNat)
  | .sh2add => BitVec.ofNat 64 (4 * a.toNat + b.toNat)
  | .sh3add => BitVec.ofNat 64 (8 * a.toNat + b.toNat)
  | .sh1addUw => BitVec.ofNat 64 (2 * w + b.toNat)
  | .sh2addUw => BitVec.ofNat 64 (4 * w + b.toNat)
  | .sh3addUw => BitVec.ofNat 64 (8 * w + b.toNat)
  | .andn => a &&& ~~~b
  | .orn => a ||| ~~~b
  | .xnor => ~~~(a ^^^ b)
  | .max => if a.toInt < b.toInt then b else a
  | .maxu => if a.toNat < b.toNat then b else a
  | .min => if b.toInt < a.toInt then b else a
  | .minu => if b.toNat < a.toNat then b else a
  | .rol => BitVec.ofNat 64 (a.toNat * 2 ^ n + a.toNat / 2 ^ (64 - n))
  | .ror => BitVec.ofNat 64 (a.toNat / 2 ^ n + a.toNat * 2 ^ (64 - n))
  | .rolw => word32 (w * 2 ^ m + w / 2 ^ (32 - m) : Nat)
  | .rorw => word32 (w / 2 ^ m + w * 2 ^ (32 - m) : Nat)

/-- One-source results of Zbb: counts as numbers of positions, bytes by their place. -/
def rvOne (op : AluU) (a : Word64) : Word64 :=
  let n := a.toNat
  let w : Nat := a.toNat % 2 ^ 32
  let count (k : Nat) (p : Nat → Bool) : Word64 := BitVec.ofNat 64 ((List.range k).filter p).length
  let byte (i : Nat) : Nat := n / 256 ^ i % 256
  match op with
  | .clz => count 64 (fun k => decide (n < 2 ^ k))
  | .ctz => count 64 (fun k => n % 2 ^ (k + 1) == 0)
  | .cpop => count 64 (fun k => n / 2 ^ k % 2 == 1)
  | .clzw => count 32 (fun k => decide (w < 2 ^ k))
  | .ctzw => count 32 (fun k => w % 2 ^ (k + 1) == 0)
  | .cpopw => count 32 (fun k => w / 2 ^ k % 2 == 1)
  | .sextb => (BitVec.ofNat 8 n).signExtend 64
  | .sexth => (BitVec.ofNat 16 n).signExtend 64
  | .zexth => BitVec.ofNat 64 (n % 2 ^ 16)
  | .orcb => BitVec.ofNat 64 (((List.range 8).map (fun i => (if byte i = 0 then 0 else 255) * 256 ^ i)).sum)
  | .rev8 => BitVec.ofNat 64 (((List.range 8).map (fun i => byte i * 256 ^ (7 - i))).sum)

/-- The condition of a branch on numbers. -/
def rvTaken (c : BrCond) (a b : Word64) : Bool :=
  match c with
  | .eq => decide (a.toNat = b.toNat)
  | .ne => decide (a.toNat ≠ b.toNat)
  | .lt => decide (a.toInt < b.toInt)
  | .ge => decide (b.toInt ≤ a.toInt)
  | .ltu => decide (a.toNat < b.toNat)
  | .geu => decide (b.toNat ≤ a.toNat)

/-- The number that `n` little-endian bytes give in a register: with the sign of `8 n` bits, or without. -/
def loaded (d : List Byte) (n : Nat) (uns : Bool) : Word64 :=
  if uns then BitVec.ofNat 64 (natOfBytes d) else BitVec.ofInt 64 (Int.bmod (natOfBytes d) (2 ^ (8 * n)))

/-- The timestamp of the thread's access to `t` (R65, R375): its own, that of the PUBLISH of the set that the access binds to, or the hearth's
clock, whichever is latest; an access that is under way has taken that of the PUBLISH. -/
def State.ccStamp (s : State) (t : Tgt) : Nat :=
  max (if s.th.xact.out || s.th.xact.got.isSome then s.th.pts else max s.th.pts (s.tgtPts t)) (s.localGcc s.focus.h)

/-- An address of the executing thread translates to `t`: as the hearth reaches it, and an access that is under way keeps its target (R54, R153). -/
def CcXl (s : State) (va : Nat) (acc : Acc) (t : Tgt) : Prop :=
  s.th.xf = none ∧ match s.th.xact.bound with
    | some b => t = b
    | none => s.th.fault = none ∧ s.reach s.focus.h s.cx.part va acc = .ok t

/-- The checks of an access of the control thread have passed: aligned as the access asks, translated to `t` (an access that is under way keeps
its target), no comparator, nothing of the task before it that orders it, no store that the thread has posted to the atom, and its timestamp
within 64 cycles of the clock (R54, R55, R68, R79, R333, R375). -/
def CcMay (s : State) (va n : Nat) (acc : Acc) (ld st : Bool) (cls : Nat) (nat : Bool) (t : Tgt) : Prop :=
  (if nat then va % n = 0 else va % 16 + n ≤ 16) ∧ CcXl s va acc t
  ∧ (s.th.xact.got = none →
      s.watchHit s.cx.part s.focus.h s.th.ctx va n ld st s.th.suppress = none
      ∧ s.cmdWait s.focus.h s.th.ctx (s.cx.pos + 1) [0, 1, 2, 3] { va := va, n := n, cls := cls, st := st } = false
      ∧ s.blockWait s.focus.h s.th.ctx (s.cx.pos + 1) { va := va, n := n, cls := cls, st := st } = false)
  ∧ s.postedTo s.focus.h s.focus.t t = false
  ∧ s.ccStamp t ≤ s.localGcc s.focus.h + 64

/-- The thread's access has not set out, and the L1 slice that serves its hearth is its own, or another's that answers by now (R16). -/
def State.ccFresh (s : State) (t : Tgt) : Prop :=
  s.th.xact.out = false ∧ s.th.xact.got = none
  ∧ (s.l1Owner s.focus.h t = s.focus.h ∨ (s.th.xact.due ≠ 0 ∧ s.th.xact.due ≤ s.gcc))

/-- The executing thread's port at timestamp `pts`. -/
def State.ccPortAt (s : State) (pts : Nat) : Port := { s.ccPort with pts := pts }

/-- The executing thread's record once its access has been made at timestamp `pts`. -/
def State.ccPts (s : State) (pts : Nat) : State :=
  { s with threads := Map.put s.threads s.tk { s.th with pts := pts, xact := {} } }

/-- The copy `e` may be read for `n` bytes at `t`: all of them are dirty, or all belong to its version and the lease covers the
thread's timestamp with the guard band (R376). -/
def State.ccHit (s : State) (e : L1E) (t : Tgt) (n : Nat) : Prop :=
  let m : Nat := (2 ^ n - 1) * 2 ^ tgtOff t
  m &&& e.dirty = m ∨ (m &&& e.valid = m ∧ s.ccStamp t + s.guardBand s.focus.h ≤ e.rts)

/-- The timestamp that a read of `n` bytes of a copy at `t` takes: that of its version, and of the H-scope stores of its bytes (R63, R65). -/
def readStamp (e : L1E) (t : Tgt) (n : Nat) : Nat :=
  if ((2 ^ n - 1) * 2 ^ tgtOff t) &&& e.dirty = 0 then e.wts else max e.wts e.hpts

/-- The load of `n` bytes is made now: its bytes are `d`, and `u` is the state in which it has been made. The copy of the atom is
in the L1 and may be read (R376), or the answer of the home, of the host or of the peer has come. -/
def CcLoads (s : State) (va n cls : Nat) (nat : Bool) (d : List Byte) (u : State) : Prop :=
  ∃ t, CcMay s va n .read true false cls nat t ∧
    ((s.ccFresh t ∧ t.external = false ∧ ∃ e, s.l1Find s.focus.h t = some e
        ∧ s.ccHit e t n ∧ e.psn = false
        ∧ d = (e.data.drop (tgtOff t)).take n ∧ u = s.ccPts (max (s.ccStamp t) (readStamp e t n)))
      ∨ (∃ g, s.th.xact.got = some g ∧ g.ok = true
        ∧ d = (if t.external then g.data.take n else (g.data.drop (tgtOff t)).take n)
        ∧ u = s.ccPts (max (s.ccStamp t) g.wts)))

/-- A store to host or peer memory sets out and is posted (R79): to a page of PCIe or to a peer by a request of its own, which the peer's
port lets through; to a coherent host page as a write to home 48. -/
def CcPosts (s : State) (t : Tgt) (va : Nat) (d : List Byte) (scope cls : Nat) (u : State) : Prop :=
  let w : Port := { s.ccPortAt (s.ccStamp t) with who := .post s.focus.h s.focus.t va, x := {} }
  t.posts = true ∧
    ((t.external = true ∧ s.extHeld s.cx.part { tgt := t, va := va, kind := 1, len := d.length, bytes := d } = false
        ∧ u = (s.sendExt w { tgt := t, va := va, kind := 1, len := d.length, bytes := d }).1.ccPts (s.ccStamp t))
      ∨ (t.external = false ∧ s.ccFresh t
        ∧ u = ((s.l1Replace s.focus.h t d.length).sendReq
            { mkReq w (s.epochOf w) .wr t (t.scopeOf scope) cls with bytes := d.map some }).ccPts (s.ccStamp t)))

/-- The store of the bytes `d` is made now, `u` being the state in which it has been made: at H scope on device memory in the L1's copy
(R376); to host or peer memory posted; else where its home has acknowledged it, which also gives the L1's copy the bytes (R377). -/
def CcStores (s : State) (va : Nat) (d : List Byte) (scope cls : Nat) (nat : Bool) (u : State) : Prop :=
  ∃ t, CcMay s va d.length .write false true cls nat t ∧
    ((l1Only t scope = true ∧ s.ccFresh t ∧ ∃ e, s.l1Find s.focus.h t = some e
        ∧ s.ccHit e t d.length
        ∧ u = (s.l1Dirty (s.ccPortAt (max (s.ccStamp t) e.wts)) t e d va cls).ccPts (max (s.ccStamp t) e.wts))
      ∨ CcPosts s t va d scope cls u
      ∨ (l1Only t scope = false ∧ t.posts = false ∧ ∃ g, s.th.xact.got = some g ∧ g.ok = true
        ∧ u = (s.l1Keep s.focus.h t d g.wts).ccPts (max (s.ccStamp t) g.wts)))

/-- The atomic on `w` bytes is made now and its old value is `m`: in the L1 at H scope on device memory, else by the home, the host or
the peer, whose answer has come (R71, R152). -/
def CcAtomics (s : State) (va : Nat) (op : AtOp) (w x y scope cls m : Nat) (u : State) : Prop :=
  ∃ t, CcMay s va w .atomic true true cls true t ∧
    ((l1Only t scope = true ∧ s.ccFresh t ∧ ∃ e, s.l1Find s.focus.h t = some e
        ∧ s.ccHit e t w ∧ e.psn = false
        ∧ m = natOfBytes ((e.data.drop (tgtOff t)).take w)
        ∧ u = (s.l1Dirty (s.ccPortAt (max (s.ccStamp t) (readStamp e t w))) t e (bytesOf (atNew (fun _ a => a) op w m x y) w) va cls).ccPts
            (max (s.ccStamp t) (readStamp e t w)))
      ∨ (l1Only t scope = false ∧ ∃ g, s.th.xact.got = some g ∧ g.ok = true ∧ m = g.val
        ∧ u = (s.l1Keep s.focus.h t (bytesOf (atNew (fun _ a => a) op w m x y) w) g.wts).ccPts (max (s.ccStamp t) g.wts)))

/-- The thread has come past stage `n` of the instruction at hand. -/
def State.ccPart (s : State) (n : Nat) : State :=
  { s with threads := Map.put s.threads s.tk { s.th with part := n } }

/-- The release of the control instruction at hand ends now, in `u`: nothing is asked at H scope; at D and S scope the dirty atoms
of the L1 have been sent (now, if they were not before) and every write-back has been acknowledged, the thread's timestamp following
them; at S scope the accesses to host and peer memory are acknowledged and the clock has passed the timestamp by 8 (R67, R79, R377, R379). -/
def CcReleased (s : State) (scope : Nat) (u : State) : Prop :=
  (scope = 0 ∧ u = s) ∨ (scope ≠ 0 ∧ 1 < s.th.part ∧ u = s)
  ∨ (scope ≠ 0 ∧ s.th.part ≤ 1 ∧ ∃ v w, (v = if s.th.part = 0 then (s.releaseFlush s.focus.h).ccPart 1 else s)
      ∧ (∀ h ∈ v.l1Hearths s.focus.h, v.flushed h = true) ∧ w = v.acquire (v.wbStamp s.focus.h)
      ∧ (scope = 2 → w.extQuiet w.xk = true ∧ w.th.pts + 8 ≤ w.localGcc s.focus.h ∧ w.th.owed = none)
      ∧ u = w.ccPart 2)

/-- The release that an atomic's rl bit asks for has ended, in `u`: at the scope of yscope as the instruction has it (R154), or at S scope where the page is host or peer memory (R59, R152). -/
def CcRl (s : State) (rl : Bool) (va : Nat) (acc : Acc) (u : State) : Prop :=
  if rl then ∃ t, CcXl s va acc t ∧ CcReleased s (t.scopeOf (s.yscopeNow.toNat % 4)) u else u = s

/-- The channel `n` that a Causeway instruction names on the hearth's die is the partition's, has the kind, and counts the context a member. -/
def CwOk (s : State) (n : Nat) (kinds : List Nat) : Prop :=
  (s.chan n).part = some s.cx.part ∧ s.xk ∈ (s.chan n).cfg.members ∧ (s.chan n).cfg.kind ∈ kinds

/-! ## Lane words -/

/-- A lane word at the point where it executes: the state once due results are written, its block, its lanes, its sources as read, and
the queue elements that it pops. -/
structure Issue where
  u : State
  b : Blk
  w : Lw
  vs : List Vals
  pops : Pops

/-- What a word reads and writes, its sources and its guard included. -/
def Regs.with (r : Regs) (g : Guard) (srcs : List (Src × Bool)) : Regs :=
  { r with rv := r.rv ++ (srcs.map (fun x => srcCodes x.1 x.2)).flatten
           rp := r.rp ++ guardPreds g ++ (srcs.map (fun x => srcPreds x.1)).flatten
           rf := r.rf || srcs.any (fun x => x.1 == .fflags) }

/-- The word stands where it issues: its block is in an open pass and may issue in this cycle, its stage guard is on (or the word issues
whatever its guard), its phase is not over, its registers lie within the block's NEED, a phase block admits the word and has come to its phase cycle, and no
comparator holds it (R37, R41, R114, R117, R297, R333). Lanes: all active lanes, or those whose guard predicate is 1. -/
def LaneAt (s : State) (g : Guard) (inPhase always : Bool) (srcs : List (Src × Bool)) (r : Regs) (x : Issue) : Prop :=
  x.u = s.settleGroup s.focus.h s.focus.t ∧ x.u.lg.blk = some x.b ∧ x.b.inPass = true ∧ x.u.lg.nextIssue ≤ x.u.lcyc
  ∧ x.u.lg.fault = none ∧ x.u.phaseOver x.b = false ∧ x.u.lg.unfinished = none ∧ (stageOn x.b g = true ∨ always = true)
  ∧ (x.b.phase = none ∨ (inPhase = true ∧ x.u.ph = 8 + x.b.k * x.b.tab.len + x.b.w))
  ∧ x.w = { act := x.u.active, ex := if stageOn x.b g then x.u.executing g else 0, z := !x.b.tab.inter }
  ∧ (x.b.k = 0 → (r.with g srcs).outside x.b.tab.need = false)
  ∧ (stageOn x.b g = true → x.u.bplwHit = none)

/-- The word passes every check that all words meet: it stands where it issues, its queues are not empty, no schedule rule is broken, no
register that it reads came back uncorrectable (R133, R213, R301). -/
def LaneGo (s : State) (g : Guard) (inPhase always : Bool) (srcs : List (Src × Bool)) (r : Regs) (x : Issue) : Prop :=
  LaneAt s g inPhase always srcs r x ∧ readSrcs x.u x.w [] srcs = some (x.vs, x.pops)
  ∧ violation x.u (r.with g srcs) = none ∧ poisonHit x.u (r.with g srcs) = none

/-- The word has issued, `t` being the state with its effect: its popped elements are gone, its counters have counted, and the pass has
moved on. -/
def Issue.issued (x : Issue) (t : State) : State :=
  let h := t.focus.h
  let g := t.focus.t
  let t := if x.pops.isEmpty then t else t.onLg (fun gr => gr.popIqs x.pops)
  let t := t.perf h g 2 1
  let t := if x.w.ex = 0 then t else t.perf h g 3 1
  (t.perf h g 4 (lanesOf x.w.ex).length).wordDone

/-- The word has issued with a result of `lat` cycles: value `v l` in lane `l`, flags `fl`. -/
def Issue.wrote (x : Issue) (d : Dst) (wide : Bool) (lat : Nat) (v : Vals) (fl : Nat) : State :=
  x.issued (writeResult d wide lat x.w v fl x.u)

/-- Values of 32 bits. -/
def w32 (f : Nat → Word) : Vals := fun l => (f l).zeroExtend 64

/-- The value of source `i` in lane `l`, its low 32 bits. -/
def Issue.a (x : Issue) (i l : Nat) : Word := lo32 (valAt x.vs i l)

/-- A fixed-latency word may issue: it passes the checks with the registers that it writes, and its oq destination has room (R270). -/
def LaneFixes (s : State) (g : Guard) (inPhase : Bool) (d : Dst) (wide : Bool) (lat : Nat) (srcs : List (Src × Bool)) (x : Issue) : Prop :=
  LaneGo s g inPhase false srcs { wv := dstCodes d (if wide then 2 else 1), wp := dstPreds d, lat := lat } x
  ∧ (∀ q, d = .oq q → (Map.get [] x.u.lg.oq q.toNat).length < 16)

/-- A word from its bits. -/
def bits32 (p : Nat → Bool) : Word := (List.range 32).foldl (fun a i => if p i then a ||| (1#32 <<< i) else a) 0#32

/-- Integer saturation to an interval (R89). -/
def clamp (lo hi x : Int) : Int := max lo (min hi x)

/-- The integer comparisons of R196 on numbers. -/
def cmpTrue {n : Nat} (c : IntCond) (a b : BitVec n) : Bool :=
  match c with
  | .eq => decide (a.toNat = b.toNat)
  | .ne => decide (a.toNat ≠ b.toNat)
  | .lt => decide (a.toInt < b.toInt)
  | .ge => decide (b.toInt ≤ a.toInt)
  | .ltu => decide (a.toNat < b.toNat)
  | .geu => decide (b.toNat ≤ a.toNat)

/-- Every executing lane's address is aligned and translates for the access, and no comparator watches it (R54, R211, R333). -/
def Issue.reaches (x : Issue) (acc : Acc) (n : Nat) (va : Nat → Nat) (tg : Nat → Tgt) : Prop :=
  x.u.lg.xfs = [] ∧ ∀ l ∈ lanesOf x.w.ex, va l % n = 0 ∧ x.u.reach x.u.focus.h x.u.lc.part (va l) acc = .ok (tg l)
    ∧ x.u.watchHit x.u.lc.part x.u.focus.h x.u.focus.t (va l) n (acc != .write) (acc != .read) x.u.lg.suppress = none

/-- The word has issued and left an operation outstanding with one access for each executing lane; with no lane, and no queue entry to
push, it is one operation that has completed (R232). -/
def Issue.left (x : Issue) (o : LaneOp) (va a b : Nat → Nat) (tg : Nat → Tgt) : State :=
  let acc : List LaneAcc := (lanesOf x.w.ex).map (fun l => { lane := l, va := va l, a := a l, b := b l, ready := true, tgt := tg l })
  x.issued (if x.w.ex = 0 ∧ o.oq = none then (x.u.addOp { o with done := true }).onLg Group.retire else x.u.addOp { o with acc := acc })

/-- The LM address of lane `l` from the base in source 0 and the offset in source 1 (R131, R210). -/
def Issue.addr (x : Issue) (m : Lm) (l : Nat) : Word64 :=
  let off := x.a 1 l
  valAt x.vs 0 l + BitVec.ofInt 64 ((if m.sx then off.toInt else off.toNat) * 2 ^ m.shift.toNat + m.imm.toInt)

/-! ## Engine words -/

/-- The word at the head of the engine queue at hand has been taken: `k` stack entries are replaced by `out`, the top first, and the queue's
own state has changed by `f`. -/
def State.engTook (s : State) (k : Nat) (out : List Word64) (f : EngQ → EngQ) : State :=
  s.modEng s.focus.q (fun e =>
    let e := f e
    { e with words := e.words.tail, taken := (e.taken + 1) % 2 ^ 32, since := 0, stack := out ++ e.stack.drop k })

/-- A command as its launch word leaves it: with the word's place and sender, and the setters and the mode in force (R243, R246). -/
def EngQ.captured (e : EngQ) (s : State) (w : QWord) (c : Cmd) : Cmd :=
  { c with pos := e.taken, pc := w.pc, ipos := w.ipos, rm := e.rm, ftz := e.ftz, rdlim := e.rdlim, rxin := e.rxin, fibre := e.fibre
           rprog := e.rprog, ryout := e.ryout, no := s.tick, since := s.gcc
           src := if c.src.isSome then c.src else e.src
           dst := e.dst
           box := if c.box.isSome then c.box else e.box }

/-- The launch word at the head has been taken with `k` operands: one command more, behind every item of the queue, and the engine's turn
has passed on. -/
def State.engLaunched (s : State) (w : QWord) (k : Nat) (c : Cmd) : State :=
  (s.engTook k [] (fun e => { e with
    cmds := Map.put e.cmds e.nextCmd (e.captured s w c), items := e.items ++ [.cmd e.nextCmd], nextCmd := e.nextCmd + 1 })).passTurn s.focus.q

/-- The word at the head of the engine queue at hand is refused with a cause of R149, at its queue position. -/
def State.engRefused (s : State) (w : QWord) (cause : Nat) : State :=
  s.engFail s.focus.q w.pc .nobody { cause := cause, d8 := (s.eng s.focus.q).taken }

/-! ## Homes -/

/-- Request `n` may be performed now: it has arrived (R11), its target is address `a`, no earlier request waits for the atom, its partition has a share left, the row
is not held, the atom is under no recall for another, the atom `t` is in the L2 with no fill pending, and its die has no frame table to mark (R367, R380, R407). -/
def Performs (s : State) (n : Nat) (k : ReqK) (r : Req) (a : Nat) (t : Atom) : Prop :=
  s.reqs[n]? = some r ∧ r.kind = k ∧ r.due ≤ s.gcc ∧ s.reqLoc r = .at a ∧ s.behind n a = false ∧ (r.src = 0 → s.homeRoom a r.part = true)
  ∧ s.gated a = false ∧ s.recalled (r.src, r.who) a = false ∧ Map.find? s.atoms (a / 32) = some t ∧ t.gone = false ∧ t.fp = false
  ∧ (hbmBytes ≤ a ∨ s.dreg (a / (192 * 2 ^ 30)) 0 / 2 ^ 12 % 2 ^ 40 = 0)

/-- Request `n`, for address `a`, has been answered with `rep`, which comes when its route brings it, and no earlier than the answer says (R11, R391), leaving the atom `t`; no other atom
and no L1 copy has changed. -/
def Answered (s : State) (n a : Nat) (rep : Rep) (t : Atom) (u : State) : Prop :=
  u.reqs = dropAt s.reqs n ∧ (∃ r, s.reqs[n]? = some r ∧ u.reps = s.reps ++ [{ rep with due := max rep.due (s.replyDue r a) }]) ∧ u.l1 = s.l1 ∧ u.atom a = t ∧ ∀ b, b / 32 ≠ a / 32 → u.atom b = s.atom b

/-- No die keeps a frame table, so that no access marks one (R367). -/
def State.NoFrames (s : State) : Prop := ∀ d, d < 4 → s.dreg d 0 / 2 ^ 12 % 2 ^ 40 = 0

/-- The bytes from `a` up have been written where the byte is given; every other byte of memory reads as before. -/
def Wrote (s : State) (a : Nat) (bs : List (Option Byte)) (u : State) : Prop :=
  ∀ x, u.byte x = if a ≤ x then (match bs[x - a]? with | some (some b) => b | _ => s.byte x) else s.byte x

/-! ## Numbers -/

/-- The number that a pattern stands for, where it is finite (R80). -/
def Fmt.finite (f : Fmt) (x : Nat) : Option Rat :=
  match f.unpack false x with
  | .fin neg m e => some ((if neg then -1 else 1) * (m : Rat) * (2 : Rat) ^ e)
  | _ => none

/-- The number of a term, 0 where it is not finite (R84). -/
def Term.num (t : Term) : Rat :=
  match t with
  | .fin neg m e => (if neg then -1 else 1) * (m : Rat) * (2 : Rat) ^ e
  | _ => 0

/-- The place of a term in the order of the numbers and the infinities; a NaN has none (R197). -/
def Term.ext (t : Term) : Option (WithBot (WithTop Rat)) :=
  match t with
  | .fin .. => some ((t.num : WithTop Rat) : WithBot (WithTop Rat))
  | .inf true => some ⊥
  | .inf false => some ((⊤ : WithTop Rat) : WithBot (WithTop Rat))
  | _ => none

/-- The integer to which a mode rounds a number (R82): the nearest, at a tie the even one (RNE); the nearest toward zero (RTZ), not above (RDN),
not below (RUP); itself, or an odd one next to it (ROD). -/
def roundsTo (rm : Rm) (y : Rat) (n : Int) : Prop :=
  match rm with
  | .rne => ∀ k : Int, |(n : Rat) - y| ≤ |(k : Rat) - y| ∧ (k ≠ n → |(n : Rat) - y| = |(k : Rat) - y| → n % 2 = 0)
  | .rtz => |(n : Rat)| ≤ |y| ∧ |y| < |(n : Rat)| + 1 ∧ 0 ≤ (n : Rat) * y
  | .rdn => (n : Rat) ≤ y ∧ y < n + 1
  | .rup => y ≤ n ∧ (n : Rat) - 1 < y
  | .rod => (n : Rat) = y ∨ (n % 2 = 1 ∧ |(n : Rat) - y| < 1)

/-- A number that some pattern of the format stands for. -/
def Fmt.represents (f : Fmt) (w : Rat) : Prop := ∃ x, x < 2 ^ (f.eb + f.fb + 1) ∧ f.finite x = some w

/-- The sign bit of a pattern. -/
def Fmt.signOf (f : Fmt) (x : Nat) : Bool := x.testBit (f.eb + f.fb)

/-- Whether a mode moves a magnitude that is not representable away from zero. -/
def movesAway (rm : Rm) (neg : Bool) : Bool := (rm == .rdn && neg) || (rm == .rup && !neg)

/-- The magnitude `a`, rounded with an unbounded exponent, exceeds the largest finite number, which lies 2^(bias - fb) below 2^(bias + 1) (R83). -/
def Fmt.overflows (f : Fmt) (rm : Rm) (neg : Bool) (a : Rat) : Bool :=
  let top : Rat := (2 : Rat) ^ ((f.bias : Int) + 1)
  let ulp : Rat := (2 : Rat) ^ ((f.bias : Int) - f.fb)
  if rm = .rne then decide (top - ulp / 2 ≤ a) else if movesAway rm neg then decide (top - ulp < a) else decide (top ≤ a)

/-- The magnitude `a`, rounded with an unbounded exponent, lies below the smallest normal number (R83). -/
def Fmt.tiny (f : Fmt) (rm : Rm) (neg : Bool) (a : Rat) : Bool :=
  let low : Rat := (2 : Rat) ^ f.emin
  let ulp : Rat := (2 : Rat) ^ (f.emin - 1 - f.fb)
  if rm = .rne then decide (a < low - ulp / 2) else if movesAway rm neg then decide (a ≤ low - ulp) else decide (a < low)

end Sys2Proof.Machine
end

