-- ==== Sys2Proof/Certificates/Slice0/Obligations.lean ====
section
/-! DEFINITION. The statements for the provers: what the rules of the spec say of the model. -/

open Sys2Proof Sys2Proof.Machine

/-- R151: every register instruction of RV64I, M, Zba and Zbb writes its result, as a number, to rd, moves the pc and counts; JAL
writes the next address and jumps. Nothing else of the machine changes (`ccWrote`); x0 keeps nothing.
R151, R337, R338, R342: a branch compares its registers as numbers and goes to its target or to the next instruction; JALR links and jumps
to rs1 + imm with bit 0 clear. A taken one folds its target into the path signature where the partition records signatures. Of a traced task a
branch leaves one BR bit, the sixth of which makes the BR packet, and JALR an IND packet with its target's bits 51:0, where no loss or SYNC comes
before it; of another task nothing but pc, rd, the count and the signature changes. -/
def Obligations.ControlIntegerAndJumps : Prop :=
  (∀ (s : State) (rd r1 r2 : XReg),
  (∀ op imm, exec (.rvIntegerInstruction (.opI op rd r1 imm)) s = .next (s.ccWrote rd (rvImm op (s.xr r1) imm) s.nextPc))
  ∧ (∀ op (sh : BitVec 6), exec (.rvIntegerInstruction (.opSh op rd r1 sh)) s
      = .next (s.ccWrote rd (rvShift op (s.xr r1) sh.toNat) s.nextPc))
  ∧ (∀ op, exec (.rvIntegerInstruction (.opR op rd r1 r2)) s = .next (s.ccWrote rd (rvReg op (s.xr r1) (s.xr r2)) s.nextPc))
  ∧ (∀ op, exec (.rvIntegerInstruction (.opU op rd r1)) s = .next (s.ccWrote rd (rvOne op (s.xr r1)) s.nextPc))
  ∧ (∀ u : BitVec 20, exec (.rvIntegerInstruction (.lui rd u)) s = .next (s.ccWrote rd (word32 (u.toNat * 2 ^ 12)) s.nextPc))
  ∧ (∀ u : BitVec 20, exec (.rvIntegerInstruction (.auipc rd u)) s
      = .next (s.ccWrote rd (s.th.pc + word32 (u.toNat * 2 ^ 12)) s.nextPc))
  ∧ (∀ o : BitVec 20, exec (.rvIntegerInstruction (.jal rd o)) s
      = .next (s.ccWrote rd s.nextPc (BitVec.ofInt 64 (s.th.pc.toInt + 2 * o.toInt)))))
  ∧ (∀ (s : State) (rd r1 r2 : XReg) (c : BrCond) (off imm : BitVec 12),
  let h := s.focus.h
  let k := s.th.ctx
  let tr := s.cx.trace
  let taken := rvTaken c (s.xr r1) (s.xr r2)
  let target : Word64 := BitVec.ofInt 64 (s.th.pc.toInt + 2 * off.toInt)
  let goal : Word64 := BitVec.ofInt 64 (((s.xr r1).toInt + imm.toInt) / 2 * 2)
  let bits := s.th.br ++ [taken]
  let six : Nat := ((List.range 6).map (fun i => if bits.getD i false then 2 ^ i else 0)).sum
  let keep (l : List Bool) (u : State) : State := u.modThread s.tk (fun th => { th with br := l })
  let fold (dest : Word64) (u : State) : State := if bitOf (u.pdbg s.cx.part 0) 0 then
      u.modThread s.tk (fun th => { th with sig := ((BitVec.ofNat 64 th.sig ^^^ (s.th.pc ^^^ (dest <<< 1))).rotateLeft 7).toNat }) else u
  let goes (u : State) : Res := .next (if taken then (fold target u).ccRet target (fun th => th) else u.ccRet s.nextPc (fun th => th))
  let plain := tr.lost = 0 ∧ tr.sinceSync < 255 ∧ s.gcc - tr.lastSync < 4096
  (tr.on = false → exec (.rvBranch c r1 r2 off) s = goes s)
  ∧ (tr.on = true → bits.length ≠ 6 → exec (.rvBranch c r1 r2 off) s = goes (keep bits s))
  ∧ (tr.on = true → plain → bits.length = 6 →
      exec (.rvBranch c r1 r2 off) s = goes (keep [] ((keep bits s).packet h k 2 s.th.slot (6 * 2 ^ 43 + six) [])))
  ∧ (tr.on = false → exec (.jalr rd r1 imm) s = .next ((fold goal s).ccWrote rd s.nextPc goal))
  ∧ (tr.on = true → plain → s.th.br = [] → exec (.jalr rd r1 imm) s
      = .next ((fold goal (s.packet h k 3 s.th.slot 0 [BitVec.ofNat 64 (goal.toNat % 2 ^ 52)])).ccWrote rd s.nextPc goal)))

/-- R154, R155, R156: a CSR read gives the content of its table row; a write of ybbase, yscope or yxwin with a reserved bit (or SCOPE 11,
or a window that R156 refuses) traps with 0x0C subcause 4 and leaves the register; a valid ybbase waits for the drain, a valid yscope does
not, a valid yxwin waits for blocks and engines, sets the hearth's window, and returns when it has reached every hearth. The old value goes
to rd. -/
def Obligations.ControlCsrs : Prop := ∀ (s : State) (rd : XReg) (op : CsrOp) (src : CsrSrc),
  let h := s.focus.h
  let c := s.th.ctx
  let arg : Word64 := match src with | .reg r => s.xr r | .imm u => u.zeroExtend 64
  let new (old : Word64) : Word64 := match op with | .rw => arg | .rs => old ||| arg | .rc => old &&& ~~~arg
  let refused : Res := .next (s.trapCc h s.focus.t { cause := 0x0C, sub := 4 })
  (∀ csr, exec (.rvIntegerInstruction (.csrRead rd csr)) s = .next (s.ccWrote rd (match csr with
      | .ybbase => s.cx.ybbase | .yscope => s.cx.yscope | .yxwin => s.cx.yxwin
      | .yfuse => BitVec.ofNat 64 (boolNat (s.fused h))
      | .ygcc | .time => BitVec.ofNat 64 (s.localGcc h)
      | .yhearth => BitVec.ofNat 64 (h / 48 * 2 ^ 10 + c * 2 ^ 8 + h)
      | .ygrp => BitVec.ofNat 64 (4 * s.th.slot + c)
      | .ypart => BitVec.ofNat 64 s.cx.part
      | .ytask => BitVec.ofNat 64 (s.cx.task.aff * 2 ^ 16 + s.cx.task.kind * 2 ^ 8 + s.cx.task.prio)
      | .cycle => BitVec.ofNat 64 (s.cycle h)
      | .instret => BitVec.ofNat 64 s.th.instret) s.nextPc))
  ∧ (let v := new s.cx.ybbase
    exec (.ybbaseWrite op rd src) s =
      if 2 ^ 52 ≤ v.toNat ∨ v.toNat % 16 ≠ 0 then refused
      else if s.drained s.xk then .next ((s.modCtx s.xk (fun x => { x with ybbase := v })).ccWrote rd s.cx.ybbase s.nextPc)
      else .next (s.ccWaits .other))
  ∧ (let v := new s.cx.yscope
    exec (.yscopeWrite op rd src) s =
      if 16 ≤ v.toNat ∨ v.toNat % 4 = 3 then refused
      else .next ((s.modCtx s.xk (fun x => { x with yscope := v })).ccWrote rd s.cx.yscope s.nextPc))
  ∧ (let v := new s.cx.yxwin
    let size := v.toNat % 8
    let base := v.toNat / 2 ^ 8 % 2 ^ 6 * 2 ^ 16
    let bytes := if size = 0 then 0 else 2 ^ (size + 15)
    let fibre := (s.eng (qkey h c 0)).fibre
    let other := ∃ w, (s.hearth h).xwin = some w ∧ w.ctx ≠ c
    let bad := 2 ^ 14 ≤ v.toNat ∨ v.toNat / 2 ^ 3 % 2 ^ 5 ≠ 0 ∨ 5 < size
      ∨ (size ≠ 0 ∧ (base % bytes ≠ 0 ∨ 2 ^ 22 < base + bytes ∨ other
          ∨ (fibre.2 ≠ 0 ∧ fibre.1 < base + bytes ∧ base < fibre.1 + fibre.2)))
    (s.th.part = 0 → ¬ (s.drained s.xk ∧ s.enginesQuiet h c) → exec (.yxwinWrite op rd src) s = .next (s.ccWaits .other))
    ∧ (s.th.part = 0 → s.drained s.xk → s.enginesQuiet h c → bad → exec (.yxwinWrite op rd src) s = refused)
    ∧ (s.th.part = 0 → s.drained s.xk → s.enginesQuiet h c → ¬ bad → ∃ t, exec (.yxwinWrite op rd src) s = .next t
        ∧ (t.hearth h).xwin = (if size = 0 then (if other then (s.hearth h).xwin else none)
            else some { ctx := c, base := base, size := bytes, swapped := false })
        ∧ t.th = { s.th with part := 1 } ∧ t.cx.yxwin = s.cx.yxwin ∧ t.mem = s.mem)
    ∧ (s.th.part ≠ 0 → (s.hearth h).xnew = [] → exec (.yxwinWrite op rd src) s
        = .next ((s.modCtx s.xk (fun x => { x with yxwin := v })).ccWrote rd s.cx.yxwin s.nextPc)))

/-- R152, R183, R55: a plain load at yscope, an LDAQ and an LR that are made (`CcLoads`) give rd the bytes at the address, with their sign
or without. LR makes its reservation of the 16-byte unit as its read sets out, at D and S scope giving up the copy of its L1, and keeps with it the
value that it reads; one that a store has broken meanwhile stays broken. The model's choices: which version a copy's bytes belong to and the stamp
of dirty ones (logs 76, 85).
R152, R183, R67: a plain store at yscope and an STRL that are made (`CcStores`) retire, an STRL behind its release, which is at S scope
for host and peer memory; so does an SC: 1 with nothing stored where no reservation holds or it names another unit, 0 where the L1
performed it at H scope, else what the home answers; on a PCIe page, 0 where the host found the value that LR read. The model's choices: a store
to host or peer memory is posted, and retires when it is sent (log 86); the stamp of an H-scope store's bytes (log 85); what the L1 keeps of a store
that its home performed (log 76).
What the model settles itself: reserved scopes and widths (log 73) and misaligned with high bits set (log 87). -/
def Obligations.ControlLoadsAndStores : Prop :=
  (∀ (s u : State) (rd r1 : XReg) (d : List Byte),
  let sc := s.yscopeNow.toNat % 4
  let cl := s.yscopeNow.toNat / 4 % 4
  (∀ wd uns imm, CcLoads s (s.xr r1 + imm.signExtend 64).toNat (memWBytes wd) cl false d u →
    exec (.ccLoadStore (.load wd uns rd r1 imm)) s = .next (u.ccWrote rd (loaded d (memWBytes wd) uns) s.nextPc))
  ∧ (∀ w cls scope, scope ≠ 3#2 → w.toNat < 4 → CcLoads s (s.xr r1).toNat (2 ^ w.toNat) cls.toNat true d u →
    exec (.ldaq rd r1 w cls scope) s = .next (u.ccWrote rd (loaded d (2 ^ w.toNat) true) s.nextPc))
  ∧ (∀ dbl aq rl v t, CcRl s rl (s.xr r1).toNat .read v → CcXl v (s.xr r1).toNat .read t →
    let w := ccReserve t (t.scopeOf sc) v
    (v.th.xact.out = false → v.th.xact.got = none → w.th.resv = some { tgt := t, unit := tgtUnit t, scope := t.scopeOf sc })
    ∧ (v.th.xact.got ≠ none → w = v)
    ∧ (CcLoads w (s.xr r1).toNat (if dbl then 8 else 4) cl true d u →
        exec (.lrSc (.lr dbl aq rl rd r1)) s = .next (u.ccRet s.nextPc (fun th =>
          { th.setX rd (loaded d (if dbl then 8 else 4) false) with resv := th.resv.map (fun r => { r with val := natOfBytes d }) })))))
  ∧ (∀ (s u v : State) (rd r1 r2 : XReg),
  let sc := s.yscopeNow.toNat % 4
  let cl := s.yscopeNow.toNat / 4 % 4
  (∀ wd imm, CcStores s (s.xr r1 + imm.signExtend 64).toNat (bytesOf (s.xr r2).toNat (memWBytes wd)) sc cl false u →
    exec (.ccLoadStore (.store wd r1 r2 imm)) s = .next (u.ccRet s.nextPc (fun th => th)))
  ∧ (∀ w cls scope, scope ≠ 3#2 → w.toNat < 4 → (s.xr r1).toNat % 2 ^ w.toNat = 0 →
    (∃ t, (s.th.part < 2 → CcXl s (s.xr r1).toNat .write t) ∧ (2 ≤ s.th.part → t = .dev 0) ∧ CcReleased s (t.scopeOf scope.toNat) u) →
    CcStores u (s.xr r1).toNat (bytesOf (s.xr r2).toNat (2 ^ w.toNat)) scope.toNat cls.toNat true v →
    exec (.strl r1 r2 w cls scope) s = .next (v.ccRet s.nextPc (fun th => th)))
  ∧ (∀ dbl aq rl, (s.xr r1).toNat % (if dbl then 8 else 4) = 0 → CcRl s rl (s.xr r1).toNat .write u →
    let a := (s.xr r1).toNat
    let w := if dbl then 8 else 4
    let run := exec (.lrSc (.sc dbl aq rl rd r1 r2)) s
    let done (z : State) (n : Nat) : Res := .next (z.ccRet s.nextPc (fun th => { th.setX rd (BitVec.ofNat 64 n) with resv := none }))
    (u.th.resv = none → run = .next (u.ccWrote rd 1 s.nextPc))
    ∧ (∀ r t, u.th.resv = some r → CcXl u a .write t →
        (r.unit ≠ tgtUnit t ∨ (r.valid = false ∧ u.th.xact.out = false ∧ (l1Only t sc = true ∨ u.th.xact.got = none))) →
        run = .next (u.ccRet s.nextPc (fun th => { th.setX rd 1 with resv := none, xact := {} })))
    ∧ (∀ r t, u.th.resv = some r → r.unit = tgtUnit t → r.valid = true → l1Only t sc = true → CcXl u a .write t →
        CcStores u a (bytesOf ((s.xr r2).toNat % 2 ^ (8 * w)) w) sc cl true v → run = done v 0)
    ∧ (∀ r t g, u.th.resv = some r → r.unit = tgtUnit t → l1Only t sc = false → u.th.xact.got = some g → g.ok = true →
        CcMay u a w .write false true cl true t →
        (t.external = false → run = done (u.ccPts (max (u.ccStamp t) g.wts)) g.val)
        ∧ (t.external = true → run = done (u.ccPts (max (u.ccStamp t) g.wts)) (if g.val = r.val then 0 else 1)))))

/-- R151, R152, R71: an AMO that is made (`CcAtomics`) gives rd the old value, sign-extended from its width, and to a pair for
AMOCAS.Q; the new value in memory is that of its operation on the old value and rs2 (a CAS compares with rd). The model's choice: the stamp of an
H-scope atomic on bytes that the L1 holds dirty follows their H-scope stores too, where R376 says max(pts, wts) (log 85).
R152, R184-R186: FENCES and every RV FENCE (at D scope) retire when their release has ended; FENCE.I retires once no store that the thread has posted is unacknowledged (log 86); IINVAL, behind
its fence, empties the block store of its hearth (H) or of every hearth of the partition (D, S); TMARK leaves a MARK packet when the task
is traced and otherwise nothing. Reserved scopes are encoding traps.
What the model settles itself: reserved scopes and widths (log 73) and leases by bytes (log 76). -/
def Obligations.ControlAtomicsAndFences : Prop :=
  (∀ (s u v : State) (op : AmoOp) (wd : AmoW) (aq rl : Bool) (rd r1 r2 : XReg) (m : Nat),
  let n := amoWBytes wd
  let pair (r : XReg) : Nat := match wd with
    | .q => (s.xr r).toNat + (s.xr (if r = 0#5 then 0#5 else r + 1#5)).toNat * 2 ^ 64
    | _ => (s.xr r).toNat % 2 ^ (8 * n)
  CcRl s rl (s.xr r1).toNat .atomic u →
  CcAtomics u (s.xr r1).toNat (amoAt op) n (if op = .cas then pair rd else pair r2) (if op = .cas then pair r2 else 0)
    (s.yscopeNow.toNat % 4) (s.yscopeNow.toNat / 4 % 4) m v →
  exec (.amo op wd aq rl rd r1 r2) s = .next (v.ccRet s.nextPc (fun th => match wd with
    | .q => if rd = 0#5 then th else (th.setX rd (BitVec.ofNat 64 m)).setX (rd + 1#5) (BitVec.ofNat 64 (m / 2 ^ 64))
    | _ => th.setX rd (BitVec.ofInt 64 (Int.bmod m (2 ^ (8 * n)))))))
  ∧ (∀ (s u : State) (scope : BitVec 2) (imm : BitVec 12),
  let t0 : Trap := { cause := 0x01 }
  (scope ≠ 3#2 → CcReleased s scope.toNat u → exec (.fences scope) s = .next (u.ccRet s.nextPc (fun th => th)))
  ∧ (scope = 3#2 → exec (.fences scope) s = .next (s.trapCc s.focus.h s.focus.t t0)
      ∧ exec (.iinval scope) s = .next (s.trapCc s.focus.h s.focus.t t0))
  ∧ (CcReleased s 1 u → exec .rvFence s = .next (u.ccRet s.nextPc (fun th => th)))
  ∧ exec .fenceI s = (if s.postsAny s.focus.h s.focus.t (fun _ => true) then .next (s.ccWaits .other) else .next (s.ccRet s.nextPc (fun th => th)))
  ∧ (scope ≠ 3#2 → CcReleased s scope.toNat u → ∃ t, exec (.iinval scope) s = .next t
      ∧ t.th = (u.ccRet s.nextPc (fun th => th)).th ∧ t.mem = u.mem ∧ t.ctxs = u.ctxs
      ∧ (∀ h, h < 192 → (if scope = 0#2 then h = s.focus.h else (u.part u.cx.part).hset.testBit h = true) →
          (t.hearth h).bstore = [] ∧ (t.hearth h).btab = [])
      ∧ (∀ h, ¬ (h < 192 ∧ (if scope = 0#2 then h = s.focus.h else (u.part u.cx.part).hset.testBit h = true)) →
          (scope = 0#2 → h ≠ s.focus.h) → t.hearth h = u.hearth h))
  ∧ (exec (.tmark imm) s = .next ((s.emit s.focus.h s.th.ctx s.focus.t 8 imm.toNat []).ccRet s.nextPc (fun th => th)))
  ∧ (s.cx.trace.on = false → exec (.tmark imm) s = .next (s.ccRet s.nextPc (fun th => th))))

/-- R153, R145, R158, R416, R419: ECALL, EBREAK and an illegal word take the trap of their row: a CC exception with RISC-V cause 8 or 2,
a breakpoint, an encoding trap in a custom opcode. Taking a trap of a control instruction freezes the context on a token that nothing outstanding
holds, ends its pre-emption, and queues ONE record whose sixteen words are those of R416; the thread keeps its pc, its registers and its count, no
instruction of another context is touched. Of a context frozen in the same cycle the record gives way to that of a lower agent code; one that was
frozen earlier, or is idle, queues nothing. -/
def Obligations.ControlTraps : Prop := ∀ (s : State) (i : Trap) (custom : Bool),
  let h := s.focus.h
  let t := s.focus.t
  let c := s.th.ctx
  let x := s.cx
  let p := x.part
  let tok := (s.part p).token
  let words : List Nat := [s.th.mask.toNat * 2 ^ 32 + s.th.slot * 2 ^ 30 + i.agent * 2 ^ 27 + 2 ^ 26 + c * 2 ^ 24 + h * 2 ^ 16
      + i.sub * 2 ^ 8 + i.cause, x.task.addr, s.gcc, s.th.pc.toNat, i.pos.getD 0, x.bq.length * 2 ^ 52 + x.lastBemit,
    x.prq.length * 2 ^ 52 + x.lastPop, x.trapped.getD tok, i.d8, i.d9, i.d10, 0, 0, 0, 0, 0]
  let held : TrapTok := { token := tok, h := h, c := c, cause := i.cause, sub := i.sub, agent := i.agent, d8 := i.d8, who := .thread h t }
  let free := ∀ n, (n ∈ (s.part p).faultToks.map (·.token) ∨ n ∈ (s.part p).trapToks.map (·.token)
    ∨ n ∈ (s.part p).faults.map (·.token) ∨ n ∈ (s.part p).traps.map (·.token)) → n ≠ (s.part p).nextTok
  (free → tok = (s.part p).nextTok)
  ∧ exec .ecall s = .next (s.trapCc h t { cause := 0x10, d8 := 8 })
  ∧ exec (.ccIllegalInstruction custom) s = .next (s.trapCc h t (if custom then { cause := 0x01 } else { cause := 0x10, d8 := 2 }))
  ∧ exec .ebreak s = .next ((s.trapCc h t { cause := 0x17 }).modThread s.tk (fun th => { th with suppress := [s.focus.len] }))
  ∧ (x.st ≠ .idle → x.trapped = none →
      let u := s.trapCc h t i
      u.cx.trapped = some tok ∧ u.cx.signal = none ∧ u.cx.st = (if x.st = .stopping then .running else x.st)
      ∧ (u.part p).nextTok = (tok + 1) % 2 ^ 32
      ∧ (u.part p).traps = (s.part p).traps ++ [{ words := words.map (BitVec.ofNat 64), token := tok }]
      ∧ (u.part p).trapToks = (s.part p).trapToks ++ [held]
      ∧ u.th.pc = s.th.pc ∧ u.th.x = s.th.x ∧ u.th.mask = s.th.mask ∧ u.th.instret = s.th.instret
      ∧ u.groups = s.groups ∧ u.engs = s.engs ∧ u.hearths = s.hearths ∧ u.chans = s.chans ∧ u.bars = s.bars
      ∧ u.cx.bq = x.bq ∧ u.cx.prq = x.prq ∧ u.cx.cmp = x.cmp ∧ u.cx.nb = x.nb
      ∧ (∀ k, k ≠ s.xk → u.ctx k = s.ctx k) ∧ (x.trace.on = false → u.mem = s.mem))
  ∧ (∀ old, x.trapped = some old → x.trapAt.1 = s.gcc + 1 → i.agent < x.trapAt.2 → let u := s.trapCc h t i
      u.cx.trapped = some old ∧ u.cx.trapAt = (s.gcc + 1, i.agent) ∧ (u.part p).traps.length = (s.part p).traps.length
      ∧ (∀ r ∈ (u.part p).traps, r.token = old → r.words = words.map (BitVec.ofNat 64)) ∧ u.th.pc = s.th.pc ∧ u.th.x = s.th.x ∧ u.mem = s.mem)
  ∧ ((x.st = .idle ∧ x.trapped = none) ∨ (x.trapped.isSome = true ∧ (x.trapAt.1 ≠ s.gcc + 1 ∨ x.trapAt.2 ≤ i.agent)) → let u := s.trapCc h t i
      u = s.modThread s.tk (fun th => { th with wait := none, xf := none, xact := {}, since := 0, held := false }))

/-- R32-R34, R160-R164: BEMIT and BEMIT.RL check the table entry that they read at ybbase, as it was when they issued (R154), and push the block entry of R32; KSET and BWIN push
theirs; a full queue holds the thread; an entry that breaks its layout, or a delta outside -14 … 14, is an encoding trap and pushes nothing.
BSEQ reads the next number, BCANCEL removes and counts the entries at or after rs1[15:0] (nothing where rs1 lies ahead), BQDRAIN waits until
the queue is empty and the last block has finished.
R39, R165, R166: PPOP and PPOP.AQ take the head of the PRQ when the split owns it (slot and generation) and wait otherwise; PTRY answers
0 otherwise; the acquire of PPOP.AQ raises the thread's timestamp to the group's. PFLUSH removes and counts the entries owned.
What the model settles itself: fetches and what the block store holds (log 13). -/
def Obligations.ControlQueues : Prop :=
  (∀ (s : State) (rd r1 r2 : XReg) (n : BitVec 4) (blk : BitVec 12) (rl : Bool),
  let q := s.cx.bq
  let seq := s.cx.seq
  let owner := Map.get 0 s.cx.gens s.th.slot * 2 ^ 98 + s.th.slot * 2 ^ 96
  let push (bits : Nat) (e : BqE) : Ctx → Ctx := fun x => { x with
    bq := q ++ [{ e with bits := BitVec.ofNat 128 (bits + owner + seq * 2 ^ 108), pos := s.cx.pos + 1 }]
    seq := (seq + 1) % 2 ^ 16, pos := s.cx.pos + 1 }
  let bemit : Instr := if rl then .bemitRl r1 r2 blk else .bemit r1 r2 blk
  let bits (wd : Nat) : Nat := seq * 2 ^ 108 + boolNat rl * 2 ^ 107 + wd * 2 ^ 102 + owner + blk.toNat * 2 ^ 84
    + (s.xr r1).toNat % 2 ^ 32 * 2 ^ 32 + (lo32 (s.xr r2) &&& s.th.mask).toNat
  let stamp := if rl then s.th.pts else 0
  let block (wd : Nat) (tab : BlkTab) : BqE :=
    { bits := BitVec.ofNat 128 (bits wd), tab := tab, pos := s.cx.pos + 1, pts := stamp, phase := s.gr.phaseNext }
  let at_ := s.cx.part * 2 ^ 52 + s.ybbaseOf.toNat + 16 * blk.toNat
  (∀ e : BitVec 128, s.th.xact = {} → Map.find? (s.hearth s.focus.h).btab at_ = some e →
    (blkTabOf e.toNat s.ybbaseOf.toNat = none → exec bemit s = .next (s.trapCc s.focus.h s.focus.t { cause := 0x01 }))
    ∧ (∀ tab wd, blkTabOf e.toNat s.ybbaseOf.toNat = some (tab, wd) →
      (256 ≤ q.length → exec bemit s = .next (s.ccWaits .other))
      ∧ (q.length < 256 → ∃ t, exec bemit s = .next t
        ∧ t.cx.bq = q ++ [block wd tab]
        ∧ t.cx.seq = (seq + 1) % 2 ^ 16 ∧ t.cx.pos = s.cx.pos + 1 ∧ t.cx.lastBemit = s.nextPc.toNat ∧ t.gr.phaseNext = none
        ∧ t.th.pc = s.nextPc ∧ t.th.x = s.th.x ∧ t.th.instret = s.th.instret + 1
        ∧ (s.cx.trace.on = false → t.mem = s.mem))))
  ∧ exec (.kset n r1) s = (if 256 ≤ q.length then .next (s.ccWaits .other)
      else .next ((s.modCtx s.xk (push (2 ^ 124 + n.toNat * 2 ^ 80 + (s.xr r1).toNat / 2 ^ 32 * 2 ^ 32 + (s.xr r1).toNat % 2 ^ 32) {})).ccRet
        s.nextPc (fun th => th)))
  ∧ exec (.bwin r1) s = (if (s.xr r1).toInt < -14 ∨ 14 < (s.xr r1).toInt then .next (s.trapCc s.focus.h s.focus.t { cause := 0x01 })
      else if 256 ≤ q.length then .next (s.ccWaits .other)
      else .next ((s.modCtx s.xk (push (2 * 2 ^ 124 + ((s.xr r1).toInt % 32).toNat * 2 ^ 102) {})).ccRet s.nextPc (fun th => th)))
  ∧ exec (.bseq rd) s = .next (s.ccWrote rd (BitVec.ofNat 64 seq) s.nextPc)
  ∧ (let from_ := (s.xr r1).toNat % 2 ^ 16
    let back (k : Nat) : Nat := (k + 2 ^ 16 - from_) % 2 ^ 16
    let gone (e : BqE) : Bool := decide (back (e.bits.toNat / 2 ^ 108 % 2 ^ 16) < back seq)
    exec (.bcancel rd r1) s = if 2 ^ 15 < back seq then .next (s.ccWrote rd 0 s.nextPc)
      else .next ((s.modCtx s.xk (fun x => { x with bq := q.filter (fun e => !gone e) })).ccWrote rd
        (BitVec.ofNat 64 (q.filter gone).length) s.nextPc))
  ∧ exec .bqdrain s = (if q = [] ∧ s.gr.blk = none ∧ s.gr.pend = [] ∧ s.gr.prets = [] ∧ s.gr.winTo = none
      then .next (s.ccRet s.nextPc (fun th => th)) else .next (s.ccWaits .other)))
  ∧ (∀ (s : State) (rd : XReg),
  let mine (e : PrqE) : Bool := e.slot == s.th.slot && e.gen == Map.get 0 s.cx.gens s.th.slot
  (∀ e r, s.cx.prq = e :: r → mine e = true →
    let u := s.modCtx s.xk (fun x => { x with prq := r, lastPop := s.nextPc.toNat })
    exec (.ppop rd) s = .next (u.ccWrote rd e.w s.nextPc) ∧ exec (.ptry rd) s = .next (u.ccWrote rd e.w s.nextPc)
    ∧ exec (.ppopAq rd) s = .next (u.ccRet s.nextPc (fun th => { th.setX rd e.w with pts := max th.pts s.gr.pts })))
  ∧ ((∀ e r, s.cx.prq = e :: r → mine e = false) →
    exec (.ppop rd) s = .next (s.ccWaits .ppop) ∧ exec (.ppopAq rd) s = .next (s.ccWaits .ppop)
    ∧ exec (.ptry rd) s = .next (s.ccWrote rd 0 s.nextPc))
  ∧ exec (.pflush rd) s = .next ((s.modCtx s.xk (fun x => { x with prq := s.cx.prq.filter (fun e => !mine e) })).ccWrote rd
      (BitVec.ofNat 64 (s.cx.prq.filter mine).length) s.nextPc))

/-- R44-R46, R159, R167: SPLIT divides the mask. None taken: on. All taken: to the target. Both, with a live split and a pool thread to spare:
the lowest free pool thread takes the lowest free slot, the taken lanes and a copy of the registers to the target, and the slot's generation
advances; of one cycle's claims the lower context's comes first, so one behind a higher context's waits a cycle. Otherwise the fall-through
(pc + 4, mask) is stored as the next entry of the stack below FRAME, in one access, and this split goes to the target with the taken lanes;
a push that has begun goes on though a thread becomes free, another thread's use of the stack is waited for, and a seventeenth entry traps with
0x11. The model's choices: the child's count of retired instructions starts at 0 (log 90), the class of the stack's access is 0 (log 89).
R39, R47, R168: MERGE traps with 0x11 while the split owns a PRQ entry, or at a fifth open merge; it waits while the next generation of
its slot is in an unfinished block or a posted store is on its way. Otherwise its mask, less the exited lanes, joins the merge open at its pc
(or opens it) and the slot's generation advances; with entries on the stack the thread goes on with the top entry, as it is read; with other
splits running it parks; when it was the last, the open merge with the lowest pc closes: the context thread if it is parked there or arrived
there last, else the last arrival, goes on behind it with the merged mask, and the other threads parked there are free. The model's choices: which
thread goes on once the last arrival has gone elsewhere (log 91), the wait for posted stores (log 86), the class 0 of the stack's access (log 89). -/
def Obligations.ControlSplitsAndMerges : Prop :=
  (∀ (s : State) (r1 : XReg) (off : BitVec 12),
  let h := s.focus.h
  let c := s.th.ctx
  let taken := s.th.mask &&& lo32 (s.xr r1)
  let rest := s.th.mask &&& ~~~lo32 (s.xr r1)
  let target : Word64 := BitVec.ofInt 64 (s.th.pc.toInt + 2 * off.toInt)
  let live := s.liveThreads h c
  let pool := [4, 5, 6, 7].find? (fun t => (s.thread (tkey h t)).st == .free)
  let late := (s.hearth h).poolAt.1 = s.gcc + 1 ∧ c < (s.hearth h).poolAt.2
  let pushes := s.cx.stackBy = some s.focus.t
  let onStack := taken ≠ 0 ∧ rest ≠ 0 ∧ (pushes ∨ 4 ≤ live.length ∨ (pool = none ∧ ¬ late))
  let packet (o more : Nat) (u : State) : State := u.emit h c s.focus.t 6 (o * 2 ^ 44 + more + taken.toNat) []
  let sig (u : State) : State := u.foldThread s.cx.part s.tk s.th.pc.toNat target.toNat
  let folded := if bitOf (s.pdbg s.cx.part 0) 0 then foldSig s.th.sig s.th.pc.toNat target.toNat else s.th.sig
  let child (slot : Nat) : Thread :=
    { pc := target, x := s.th.x, mask := taken, slot := slot, ctx := c, st := .running, pts := s.th.pts, sig := folded }
  (taken = 0 → exec (.split r1 off) s = .next ((packet 0 0 s).ccRet s.nextPc (fun th => th)))
  ∧ (taken ≠ 0 → rest = 0 → exec (.split r1 off) s = .next ((sig (packet 1 0 s)).ccRet target (fun th => th)))
  ∧ (taken ≠ 0 → rest ≠ 0 → ¬ pushes → live.length < 4 → late → exec (.split r1 off) s = .next s)
  ∧ (∀ n, taken ≠ 0 → rest ≠ 0 → ¬ pushes → live.length < 4 → ¬ late → pool = some n → s.focus.t ≠ n → s.focus.t < 8 →
      ∃ t slot, exec (.split r1 off) s = .next t
      ∧ (∀ l ∈ live, (s.thread (tkey h l)).slot ≠ slot) ∧ slot < 4 ∧ (∀ j < slot, ∃ l ∈ live, (s.thread (tkey h l)).slot = j)
      ∧ t.thread (tkey h n) = child slot
      ∧ t.th.mask = rest ∧ t.th.pc = s.nextPc ∧ t.th.x = s.th.x
      ∧ Map.get 0 (t.ctx (ckey h c)).gens slot = (Map.get 0 s.cx.gens slot + 1) % 16)
  ∧ (∀ i, onStack → s.cx.depth < 16 → s.cx.stackBy = some i → i ≠ s.focus.t → exec (.split r1 off) s = .next s)
  ∧ (∀ u, onStack → s.cx.depth < 16 → (s.cx.stackBy = none ∨ s.cx.stackBy = some s.focus.t) →
      CcStores (s.modCtx s.xk (fun x => { x with stackBy := some s.focus.t })) ((s.cx.task.frame + 2 ^ 64 - 16 * (s.cx.depth + 1)) % 2 ^ 64)
        (bytesOf (s.th.pc + 4).toNat 8 ++ bytesOf rest.toNat 8) 0 0 true u →
      exec (.split r1 off) s = .next (((sig ((packet 3 ((s.cx.depth + 1) * 2 ^ 36) u).modCtx s.xk (fun x => { x with
        depth := s.cx.depth + 1, stackSigs := s.th.sig :: x.stackSigs }))).ccRet target (fun th => { th with mask := taken })).modCtx s.xk
          (fun x => { x with stackBy := none })))
  ∧ (onStack → 16 ≤ s.cx.depth → exec (.split r1 off) s = .next (s.trapCc h s.focus.t { cause := 0x11 })))
  ∧ (∀ (s : State),
  let h := s.focus.h
  let c := s.th.ctx
  let q := s.th.pc.toNat
  let t := s.focus.t
  let mine (e : PrqE) : Bool := e.slot == s.th.slot && e.gen == Map.get 0 s.cx.gens s.th.slot
  let next := (Map.get 0 s.cx.gens s.th.slot + 1) % 16
  let mk := s.th.mask &&& ~~~s.gr.exited
  let blocked := (∃ e ∈ s.cx.bq, e.bits.toNat / 2 ^ 124 = 0 ∧ e.bits.toNat / 2 ^ 96 % 4 = s.th.slot ∧ e.bits.toNat / 2 ^ 98 % 16 = next)
    ∨ (∃ b, s.gr.blk = some b ∧ b.slot = s.th.slot ∧ b.gen = next)
    ∨ (∃ p ∈ s.gr.prets, p.e.slot = s.th.slot ∧ p.e.gen = next)
  let joined (m : Merge) : Merge := { m with
    mask := m.mask ||| mk, sig := (BitVec.ofNat 64 m.sig ^^^ BitVec.ofNat 64 s.th.sig).toNat, parked := m.parked ++ [t]
    lastArr := t, pts := max m.pts s.th.pts }
  let merges : List Merge := if s.cx.merges.any (fun m => m.pc == q) then s.cx.merges.map (fun m => if m.pc = q then joined m else m)
    else s.cx.merges ++ [{ pc := q, mask := mk, sig := s.th.sig, parked := [t], lastArr := t, pts := s.th.pts }]
  let free := s.cx.prq.any mine = false ∧ (s.cx.merges.any (fun m => m.pc == q) = true ∨ s.cx.merges.length < 4)
  let goes := free ∧ ¬ blocked ∧ s.postQuiet s.xk = true
  ((s.cx.prq.any mine = true ∨ (s.cx.merges.all (fun m => m.pc != q) = true ∧ 4 ≤ s.cx.merges.length)) →
    exec .merge s = .next (s.trapCc h t { cause := 0x11 }))
  ∧ (free → (blocked ∨ s.postQuiet s.xk = false) → exec .merge s = .next (s.ccWaits .other))
  ∧ (∀ d u, goes → 0 < s.cx.depth → (s.cx.stackBy = none ∨ s.cx.stackBy = some t) →
      CcLoads (s.modCtx s.xk (fun x => { x with stackBy := some t })) ((s.cx.task.frame + 2 ^ 64 - 16 * s.cx.depth) % 2 ^ 64) 16 0 true d u →
      ∃ t, exec .merge s = .next t
      ∧ t.th.pc = BitVec.ofNat 64 (natOfBytes (d.take 8)) ∧ t.th.mask = BitVec.ofNat 32 (natOfBytes (d.drop 8))
      ∧ t.cx.depth = s.cx.depth - 1 ∧ t.cx.stackBy = none ∧ Map.get 0 t.cx.gens s.th.slot = next ∧ t.th.x = s.th.x
      ∧ (∃ m ∈ t.cx.merges, m.pc = q ∧ mk &&& ~~~m.mask = 0))
  ∧ (goes → s.cx.depth = 0 → t < 8 → (∃ l ∈ s.liveThreads h c, l ≠ t ∧ (s.thread (tkey h l)).st = .running) → ∃ z, exec .merge s = .next z
      ∧ z.th.st = .parked ∧ z.th.pc = s.th.pc ∧ z.th.instret = s.th.instret + 1 ∧ Map.get 0 z.cx.gens s.th.slot = next
      ∧ z.cx.merges = merges)
  ∧ (goes → s.cx.depth = 0 → t = c → c < 4 → s.cx.merges = [] → s.liveThreads h c = [c] →
      s.th.pc.toNat + 4 < 2 ^ 64 → ∃ z, exec .merge s = .next z
      ∧ z.th.st = .running ∧ z.th.pc = s.th.pc + 4 ∧ z.th.mask = mk ∧ z.th.x = s.th.x ∧ z.cx.merges = []
      ∧ Map.get 0 z.cx.gens s.th.slot = next ∧ z.th.instret = s.th.instret + 1)
  ∧ (∀ m, goes → s.cx.depth = 0 → (∀ l ∈ s.liveThreads h c, l ≠ t → (s.thread (tkey h l)).st ≠ .running) →
      m ∈ merges → (∀ n ∈ merges, n ≠ m → m.pc < n.pc) →
      let back := m.lastArr = t ∨ ((s.thread (tkey h m.lastArr)).st = .parked ∧ (s.thread (tkey h m.lastArr)).ctx = c)
      let go := if c ∈ m.parked ∨ m.lastArr = c then c else if back then m.lastArr else m.parked.getLast?.getD c
      ∃ z, exec .merge s = .next z
      ∧ (z.thread (tkey h go)).st = .running ∧ (z.thread (tkey h go)).pc = BitVec.ofNat 64 (m.pc + 4)
      ∧ (z.thread (tkey h go)).mask = m.mask ∧ (∀ l ∈ m.parked, l ≠ go → (z.thread (tkey h l)).st = .free)
      ∧ (z.ctx (ckey h c)).merges = (merges.filter (fun n => n.pc != m.pc)).map (fun n => { n with parked := n.parked.filter (· != go) })))

/-- R142, R169-R172: ESEND appends its 1 to 4 words of rs1 (the first from the low bits), EFENCE the word 0x0C00, with the sender's pc and one
issue position, while the queue has room for all of them and no script is being fetched; otherwise the thread waits. ERUN whose header has been read
hands the script to the fetcher from the first word on, at the same issue position for all its words; a header that R150 refuses is a
script trap, as is a misaligned address, which the model finds before it translates (log 105).
R173, R174: CMPRD reads a counter with its sign and acquires from the engines; CMPWAIT subtracts n once the counter holds at least n and no
earlier waiter of the counter is unserved, and waits in order otherwise (n = 0 passes, in the model with no acquire: log 106); CMPDISC subtracts at once; n of 2^31 or more, and a result
below -2^31, trap with 0x0C subcause 4 and leave the counter. Of one cycle a POST or CMPDISC comes before a test of a waiter: a CMPWAIT behind
one is tested in the next cycle, and a CMPDISC behind a served waiter comes in the next. -/
def Obligations.ControlEngineQueuesAndCounters : Prop :=
  (∀ (s u : State) (r1 : XReg) (count eng : BitVec 2) (d : List Byte),
  let k := qkey s.focus.h s.th.ctx eng.toNat
  let q := s.eng k
  let send (ws : List (BitVec 16)) : Res :=
    if q.fetch ≠ none ∨ 128 < q.words.length + ws.length then .next (s.ccWaits .other)
    else .next (((s.modCtx s.xk (fun x => { x with pos := s.cx.pos + 1 })).modEng k (fun _ => { q with
      words := q.words ++ ws.map (fun w => { w := w, pc := s.th.pc.toNat, ipos := s.cx.pos + 1 })
      pts := max q.pts s.th.pts })).ccRet s.nextPc (fun th => th))
  let all : List (BitVec 16) := [0, 1, 2, 3].map (fun i => BitVec.ofNat 16 ((s.xr r1).toNat / 2 ^ (16 * i)))
  exec (.esend r1 count eng) s = send (all.take (count.toNat + 1))
  ∧ exec (.efence eng) s = send [0x0C00]
  ∧ (q.fetch ≠ none → exec (.erun r1 eng) s = .next (s.ccWaits .other))
  ∧ (q.fetch = none → (s.xr r1).toNat < 2 ^ 52 → (s.xr r1).toNat % 4 ≠ 0 → exec (.erun r1 eng) s
      = .next (s.trapCc s.focus.h s.focus.t { cause := 0x09, agent := 2 + eng.toNat, d8 := (q.taken + q.words.length) % 2 ^ 32 }))
  ∧ (q.fetch = none → CcLoads s (s.xr r1).toNat 4 0 true d u →
      let hd := natOfBytes d
      let a := (s.xr r1).toNat
      (hd % 2 ^ 16 = 0 ∨ 4096 < hd % 2 ^ 16 ∨ 2 ^ 16 ≤ hd → exec (.erun r1 eng) s
        = .next (u.trapCc s.focus.h s.focus.t { cause := 0x09, agent := 2 + eng.toNat, d8 := (q.taken + q.words.length) % 2 ^ 32 }))
      ∧ (0 < hd % 2 ^ 16 → hd % 2 ^ 16 ≤ 4096 → hd < 2 ^ 16 → exec (.erun r1 eng) s
        = .next (((u.modCtx s.xk (fun x => { x with pos := s.cx.pos + 1 })).modEng k (fun q => { q with
            fetch := some (a + 4, hd % 2 ^ 16, s.th.pc.toNat, s.cx.pos + 1), pts := max q.pts u.th.pts })).ccRet s.nextPc (fun th => th)))))
  ∧ (∀ (s : State) (rd r1 : XReg) (n : BitVec 3),
  let v : Nat := (s.xr r1).toNat % 2 ^ 32
  let cur := Map.get 0 s.cx.cmp n.toNat
  let me := (n.toNat, s.focus.t)
  let moved := Map.get 0 s.cx.cmpMoved n.toNat = s.gcc + 1
  let served := Map.get 0 s.cx.cmpServed n.toNat = s.gcc + 1
  let refused : Res := .next (s.trapCc s.focus.h s.focus.t { cause := 0x0C, sub := 4 })
  let engines := max (max (s.eng (qkey s.focus.h s.th.ctx 0)).pts (s.eng (qkey s.focus.h s.th.ctx 1)).pts)
    (max (s.eng (qkey s.focus.h s.th.ctx 2)).pts (s.eng (qkey s.focus.h s.th.ctx 3)).pts)
  exec (.cmprd rd n) s = .next (s.ccRet s.nextPc (fun th => { th.setX rd (BitVec.ofInt 64 cur) with pts := max th.pts engines }))
  ∧ (2 ^ 31 ≤ v → exec (.cmpwait r1 n) s = refused ∧ exec (.cmpdisc r1 n) s = refused)
  ∧ (v < 2 ^ 31 → served → exec (.cmpdisc r1 n) s = .next s)
  ∧ (v < 2 ^ 31 → ¬ served → cur - v < -(2 ^ 31) → exec (.cmpdisc r1 n) s = refused)
  ∧ (v < 2 ^ 31 → ¬ served → -(2 ^ 31) ≤ cur - v →
      exec (.cmpdisc r1 n) s = .next ((s.modCtx s.xk (fun x => { x with
        cmp := Map.put x.cmp n.toNat (cur - v), cmpMoved := Map.put x.cmpMoved n.toNat (s.gcc + 1) })).ccRet s.nextPc (fun th => th)))
  ∧ (v = 0 → exec (.cmpwait r1 n) s = .next (s.ccRet s.nextPc (fun th => th)))
  ∧ (0 < v → v < 2 ^ 31 → (v : Int) ≤ cur → ¬ moved → (∀ w ∈ s.cx.cmpQ, w.1 = n.toNat → w = me) →
      ∃ t, exec (.cmpwait r1 n) s = .next t ∧ Map.get 0 t.cx.cmp n.toNat = cur - v ∧ me ∉ t.cx.cmpQ
        ∧ (∀ w, w ≠ me → (w ∈ t.cx.cmpQ ↔ w ∈ s.cx.cmpQ)) ∧ (∀ m, m ≠ n.toNat → Map.get 0 t.cx.cmp m = Map.get 0 s.cx.cmp m)
        ∧ t.th.pc = s.nextPc ∧ t.th.pts = max s.th.pts engines ∧ t.th.x = s.th.x ∧ t.th.instret = s.th.instret + 1 ∧ t.mem = s.mem)
  ∧ (0 < v → v < 2 ^ 31 → (cur < v ∨ moved ∨ ∃ w, s.cx.cmpQ.find? (fun w => w.1 == n.toNat) = some w ∧ w ≠ me) →
      ∃ t, exec (.cmpwait r1 n) s = .next t ∧ t.cx.cmp = s.cx.cmp ∧ me ∈ t.cx.cmpQ ∧ t.th.pc = s.th.pc
        ∧ t.th.instret = s.th.instret ∧ t.th.wait ≠ none))

/-- R74, R175, R383: PUBLISH of a tensor that the partition does not define, or that is not shadowed, traps with 0x0C and changes no set, until
it has asked for its exchange. Otherwise, behind its release, the exchange is due at t_p: 128 cycles later, or one cycle behind an earlier one that pends; every hearth is sent a
TREC with t_p, on its way over the mesh and due at the latest 100 cycles later; and the instruction returns t_p to rd once that cycle has come.
R176, R177: TSPAWN and TJOIN of a misaligned record trap with 0x0D and push nothing. Behind the release, TSPAWN asks for the push of the record
at the priority byte that it read, or for the walk of a fan-out record; TJOIN asks for one decrement; each retires when what it asked for has
been done. They first wait until the clock has reached the thread's timestamp (the model's reading of R65: log 78).
What the model settles itself: misaligned with high bits set (log 87). -/
def Obligations.ControlPublishSpawnJoin : Prop :=
  (∀ (s : State) (rd r1 : XReg),
  let p := s.cx.part
  let tid := (s.xr r1).toNat % 2 ^ 16
  let sh := Map.get {} (s.part p).shadow tid
  let tp := max (s.gcc + 128) (match sh.pend.getLast? with | some e => e + 1 | none => 0)
  (s.th.part < 3 → (∀ d, s.tensor p tid = some d → d.shadow = false) →
    exec (.publish rd r1) s = .next (s.trapCc s.focus.h s.focus.t { cause := 0x0C, sub := 4 }))
  ∧ (∀ d, s.tensor p tid = some d → d.shadow = true → s.th.part = 2 → tp < 2 ^ 64 → ∃ t, exec (.publish rd r1) s = .next t
      ∧ Map.get {} (t.part p).shadow tid = { sh with pend := sh.pend ++ [tp], pubs := sh.pubs ++ [(tp, s.th.pts)] }
      ∧ (∀ h, h < 192 → { kind := .trec, h := h, key := tid, part := p, tp := tp, due := s.gcc + transit (.hearth s.focus.h) (.hearth h),
                           lim := s.gcc + 100 } ∈ t.probes)
      ∧ t.th.pc = s.th.pc ∧ t.th.x = s.th.x ∧ t.mem = s.mem)
  ∧ (3 ≤ s.th.part → natOfBytes s.th.hold ≤ s.gcc →
      exec (.publish rd r1) s = .next (s.ccWrote rd (BitVec.ofNat 64 (natOfBytes s.th.hold)) s.nextPc))
  ∧ (3 ≤ s.th.part → s.gcc < natOfBytes s.th.hold → exec (.publish rd r1) s = .next (s.ccWaits .other)))
  ∧ (∀ (s : State) (r1 : XReg) (t0 : Tgt),
  let a := (s.xr r1).toNat
  let p := s.cx.part
  let me : Who := .thread s.focus.h s.focus.t
  let kind := (s.th.hold.getD 4 0).toNat % 4
  let level := (s.th.hold.getD 5 0).toNat
  let idle := (∀ e ∈ (s.part p).pushes, e.who ≠ me) ∧ (∀ e ∈ (s.part p).fans, e.who ≠ me) ∧ (∀ e ∈ (s.part p).decs, e.who ≠ me)
  (a < 2 ^ 52 → a % 64 ≠ 0 → exec (.tspawn r1) s = .next (s.trapCc s.focus.h s.focus.t { cause := 0x0D, d8 := a })
    ∧ exec (.tjoin r1) s = .next (s.trapCc s.focus.h s.focus.t { cause := 0x0D, d8 := a }))
  ∧ (a % 64 = 0 → s.th.part = 3 → s.localGcc s.focus.h < s.th.pts → exec (.tspawn r1) s = .next (s.ccWaits .other))
  ∧ (a % 64 = 0 → s.th.part = 3 → s.th.pts ≤ s.localGcc s.focus.h → ∃ t, exec (.tspawn r1) s = .next t
      ∧ (t.part p).pushes = (if kind = 2 then (s.part p).pushes else (s.part p).pushes ++ [{ addr := a, level := level, who := me }])
      ∧ (t.part p).fans = (if kind = 2 then (s.part p).fans ++ [{ addr := a, who := me }] else (s.part p).fans)
      ∧ t.th.pc = s.th.pc ∧ t.th.instret = s.th.instret ∧ t.th.x = s.th.x ∧ t.mem = s.mem)
  ∧ (a % 64 = 0 → 4 ≤ s.th.part → idle → exec (.tspawn r1) s = .next (s.ccRet s.nextPc (fun th => th)))
  ∧ (a % 64 = 0 → s.th.part = 2 → s.localGcc s.focus.h < s.th.pts → exec (.tjoin r1) s = .next (s.ccWaits .other))
  ∧ (a % 64 = 0 → s.th.part = 2 → s.th.pts ≤ s.localGcc s.focus.h → CcXl s a .atomic t0 →
      ∃ t, exec (.tjoin r1) s = .next t ∧ (t.part p).decs = (s.part p).decs ++ [{ succ := a, who := me, join := true }]
      ∧ t.th.pc = s.th.pc ∧ t.th.instret = s.th.instret ∧ t.th.x = s.th.x ∧ t.mem = s.mem)
  ∧ (a % 64 = 0 → 3 ≤ s.th.part → idle → s.th.xf = none → exec (.tjoin r1) s = .next (s.ccRet s.nextPc (fun th => th)))
  ∧ (∀ f, a % 64 = 0 → 3 ≤ s.th.part → idle → s.th.xf = some f → exec (.tjoin r1) s
      = .next (s.trapCc s.focus.h s.focus.t { cause := f.cause, sub := f.sub, d8 := f.va })))

/-- R39, R50, R51, R112, R178, R179: TDONE and TYIELD with several live splits, an open merge or a split stack trap with 0x11; with blocks, engine
commands, lane operations or posted stores outstanding they wait; with a counter that is not 0 they trap with 0x0C subcause 4 and the mask of such
counters in word 9. Otherwise, their release made, they drop the task's PRQ, receive buffers and private memory, and ask: TDONE for the decrements
of its aligned successors, TYIELD for the push, or walk, of the record that it names. When what was asked for has been done, the thread is free,
the task's arrivals bind no later task, and the context is idle. TSELF reads the record's address.
What the model settles itself: waiting for operations no WAIT covered (log 18), successors as read at the dispatch (log 19) and clocks that reach
timestamps (log 78). -/
def Obligations.ControlTaskEnd : Prop := ∀ (s : State) (rd r1 : XReg),
  let h := s.focus.h
  let c := s.th.ctx
  let p := s.cx.part
  let r := s.cx.task
  let a := (s.xr r1).toNat
  let me : Who := .thread h s.focus.t
  let endable := (s.liveThreads h c).length = 1 ∧ s.cx.merges = [] ∧ s.cx.depth = 0
  let quiet := s.drained s.xk = true ∧ s.enginesQuiet h c = true ∧ s.gr.ops = [] ∧ s.gr.nbArr = []
  let mask := ((List.range 8).map (fun n => if Map.get 0 s.cx.cmp n = 0 then 0 else 2 ^ n)).sum
  let ready := endable ∧ quiet ∧ mask = 0 ∧ s.postQuiet s.xk = true ∧ s.th.owed = none ∧ s.taskPts h c ≤ s.localGcc h
  let done := (∀ e ∈ (s.part p).pushes, e.who ≠ me) ∧ (∀ e ∈ (s.part p).fans, e.who ≠ me) ∧ (∀ e ∈ (s.part p).decs, e.who ≠ me)
  let both (P : Instr → Prop) : Prop := P .tdone ∧ (a % 64 = 0 → P (.tyield r1))
  let dropped (t : State) : Prop := t.th.pc = s.th.pc ∧ t.cx.st = s.cx.st ∧ t.cx.prq = [] ∧ t.cx.rx = []
      ∧ (∀ k e, (k, e) ∈ t.l1 → ¬ (e.priv = true ∧ e.ctx = s.xk))
  let ended (t : State) : Prop := t.thread (tkey h c) = { s.th with
        pc := (t.thread (tkey h c)).pc, br := (t.thread (tkey h c)).br, instret := s.th.instret + 1, wait := none, part := 0, hold := []
        suppress := [], stale := false, since := 0, held := false, st := .free, resv := none }
      ∧ (t.ctx (ckey h c)).st = .idle ∧ (t.ctx (ckey h c)).rx = [] ∧ (t.ctx (ckey h c)).yxwin = 0
      ∧ t.chans = s.chans.map (fun e => (e.1, e.2.orphan s.xk)) ∧ (t.part p).decs = (s.part p).decs ∧ (t.part p).pushes = (s.part p).pushes
  (a % 64 ≠ 0 → exec (.tyield r1) s = .next (s.trapCc h s.focus.t { cause := 0x0D, d8 := a }))
  ∧ (s.th.part ≤ 2 → ¬ endable → both (fun i => exec i s = .next (s.trapCc h s.focus.t { cause := 0x11 })))
  ∧ (s.th.part ≤ 2 → endable → ¬ quiet → both (fun i => exec i s = .next (s.ccWaits .other)))
  ∧ (s.th.part ≤ 2 → endable → quiet → mask ≠ 0 →
      both (fun i => exec i s = .next (s.trapCc h s.focus.t { cause := 0x0C, sub := 4, d9 := mask })))
  ∧ (s.th.part ≤ 2 → endable → quiet → mask = 0 → s.postQuiet s.xk = false → both (fun i => exec i s = .next (s.ccWaits .other)))
  ∧ (let due := [r.succ0, r.succ1].filter (fun b => decide (b ≠ 0 ∧ b % 64 = 0))
    ready → s.th.part = 2 → due ≠ [] → ∃ t, exec .tdone s = .next t ∧ dropped t ∧ t.th.part = 3
      ∧ (t.part p).decs = (s.part p).decs ++ due.map (fun b => { succ := b, who := me }))
  ∧ (a % 64 = 0 → s.th.part = 3 → ∃ t, exec (.tyield r1) s = .next t ∧ dropped t ∧ t.th.part = 4
      ∧ (t.part p).pushes = (if (s.th.hold.getD 4 0).toNat % 4 = 2 then (s.part p).pushes
          else (s.part p).pushes ++ [{ addr := a, level := (s.th.hold.getD 5 0).toNat, who := me }]))
  ∧ (c < 4 → s.focus.t = c → s.th.st = .running → done → (3 ≤ s.th.part → ∃ t, exec .tdone s = .next t ∧ ended t)
      ∧ (a % 64 = 0 → 4 ≤ s.th.part → ∃ t, exec (.tyield r1) s = .next t ∧ ended t))
  ∧ exec (.tself rd) s = .next (s.ccWrote rd (BitVec.ofNat 64 r.addr) s.nextPc)

/-- R180, R181: NBINIT arms a barrier with its count (0 or above 65535: 0x0C; in use: 0x0A); NBARRIVE, behind its release, adds an arrival (behind
an NBINVAL of the cycle in the next cycle), and the E-th releases the instance; NBWAIT on an armed barrier joins its waiters and returns 0 when it has been released, 1 when it was invalidated, 2 at
once on a barrier that is not armed; NBINVAL takes effect as the cycle ends, behind its releases: it wakes the waiters with 1 and leaves the barrier
draining while arrivals pend, and NBINIT, NBWAIT and NBSTAT of that cycle come after it; NBSTAT reads state, instance, count and arrivals.
What the model settles itself: corners of the barriers (log 20). -/
def Obligations.ControlNamedBarriers : Prop := ∀ (s u : State) (rd r1 : XReg) (n : BitVec 4),
  let b := s.nbOf n
  let e := (s.xr r1).toNat % 2 ^ 32
  let put (b : Nb) (s : State) : State := s.modCtx s.xk (fun x => { x with nb := Map.put x.nb n.toNat b })
  let misuse : Res := .next (s.trapCc s.focus.h s.focus.t { cause := 0x0C, sub := 4 })
  (b.inv = true → exec (.nbinit n r1) s = .next s ∧ exec (.nbstat rd n) s = .next s ∧ (s.th.wait = none → exec (.nbwait rd n) s = .next s))
  ∧ (b.inv = false → (e = 0 ∨ 65535 < e) → exec (.nbinit n r1) s = misuse)
  ∧ (b.inv = false → 0 < e → e ≤ 65535 → (b.waiters ≠ [] ∨ 0 < b.p ∨ b.st = .draining) →
      exec (.nbinit n r1) s = .next (s.trapCc s.focus.h s.focus.t { cause := 0x0A }))
  ∧ (b.inv = false → 0 < e → e ≤ 65535 → b.waiters = [] → b.p = 0 → b.st ≠ .draining → exec (.nbinit n r1) s
      = .next ((put { b with st := .armed, e := e, a := 0, i := 0, p := 0 } s).ccRet s.nextPc (fun th => th)))
  ∧ (b.st ≠ .armed → exec (.nbarrive n) s = misuse)
  ∧ (b.st = .armed → b.inv = true → CcReleased s 1 u → b.a + 1 ≠ b.e → exec (.nbarrive n) s = .next u)
  ∧ (b.st = .armed → b.inv = false → CcReleased s 1 u → b.a + 1 ≠ b.e →
      exec (.nbarrive n) s = .next ((put { b with a := b.a + 1 } u).ccRet s.nextPc (fun th => th)))
  ∧ (b.st = .armed → CcReleased s 1 u → b.a + 1 = b.e → ∃ t, exec (.nbarrive n) s = .next t
      ∧ Map.get {} t.cx.nb n.toNat = { b with a := 0, i := (b.i + 1) % 2 ^ 32, waiters := [] } ∧ t.th.pc = s.nextPc
      ∧ (∀ h k, Who.thread h k ∈ b.waiters → tkey h k ≠ s.tk →
          (t.thread (tkey h k)).wait = some { kind := .nbwait, since := s.gcc, a := 1, b := 0 }))
  ∧ (s.th.wait = none → b.inv = false → b.st ≠ .armed → exec (.nbwait rd n) s = .next (s.ccWrote rd 2 s.nextPc))
  ∧ (s.th.wait = none → b.inv = false → b.st = .armed → ∃ t, exec (.nbwait rd n) s = .next t ∧ t.th.pc = s.th.pc
      ∧ t.th.wait = some { kind := .nbwait, since := s.gcc }
      ∧ Map.get {} t.cx.nb n.toNat = { b with waiters := b.waiters ++ [.thread s.focus.h s.focus.t] })
  ∧ (∀ r g, s.th.wait = some { kind := .nbwait, since := g, a := 1, b := r } → exec (.nbwait rd n) s
      = .next (s.ccRet s.nextPc (fun th => { th.setX rd (BitVec.ofNat 64 r) with pts := max th.pts (s.taskPts s.focus.h s.th.ctx) })))
  ∧ ((s.th.part = 1 ∧ b.inv = false) ∨ (s.th.part ≠ 1 ∧ b.st = .invalid) → exec (.nbinval n) s = .next (s.ccRet s.nextPc (fun th => th)))
  ∧ (s.th.part ≠ 1 → b.st ≠ .invalid → exec (.nbinval n) s = .next ((put { b with inv := true } s).ccPart 1))
  ∧ (s.cx.nb.filter (fun x => x.2.inv) = [(n.toNat, b)] → b.st ≠ .invalid →
      let t := s.nbInvalidate s.xk
      Map.get {} t.cx.nb n.toNat = { b with st := if 0 < b.p then .draining else .invalid, waiters := [], inval := b.inval + 1, inv := false }
      ∧ (∀ h k, Who.thread h k ∈ b.waiters → (t.thread (tkey h k)).wait = some { kind := .nbwait, since := s.gcc, a := 1, b := 1 }))
  ∧ (b.inv = false → exec (.nbstat rd n) s = .next (s.ccWrote rd (BitVec.ofNat 64 ((match b.st with | .invalid => 0 | .armed => 1 | .draining => 2) * 2 ^ 62
      + b.i % 2 ^ 16 * 2 ^ 32 + b.e % 2 ^ 16 * 2 ^ 16 + b.a % 2 ^ 16)) s.nextPc))

/-- R103-R110, R182: an instruction that names no channel of its kind whose member the context is traps with 0x0C subcause 4. Otherwise CWARRIVE,
behind its release, counts the member's arrival (a second one for the next instance) and a third waits; CWWAIT returns when the instance of the
latest arrival, also one that another split has made meanwhile (log 107), has been released; SSTEP arrives once its blocks and exchange writes have ended and its release is made, and returns when the halves
have swapped for its own arrival's instance; CWBCAST sends to every receiver while each has one of its four entries free, and is held at its sender
otherwise; CWRECV takes the oldest value that has come; a reduction contributes and returns the result of its instance. `u` is the state with
releases that are due made (`settleChan`). -/
def Obligations.ControlCauseway : Prop := ∀ (s v : State) (rd r1 r2 : XReg),
  let d := s.focus.h / 48
  let num := (s.xr r1).toNat % 128
  let bar : Option Nat := if num < 64 then some (64 * d + num) else if num < 96 then some (256 + num) else none
  let data : Option Nat := if num < 16 then some (256 + 16 * d + num) else if num < 48 then some (336 + num) else none
  let refused : Res := .next (s.trapCc s.focus.h s.focus.t { cause := 0x0C, sub := 4 })
  (bar = none → exec (.cwarrive r1) s = refused ∧ exec (.cwwait r1) s = refused ∧ exec (.sstep r1) s = refused)
  ∧ (data = none → exec (.cwbcast r1 r2) s = refused ∧ exec (.cwrecv rd r1) s = refused ∧ exec (.cwrsum rd r1 r2) s = refused
      ∧ exec (.cwrmin rd r1 r2) s = refused ∧ exec (.cwrmax rd r1 r2) s = refused)
  ∧ (∀ n, bar = some n →
      let u := s.settleChan n
      let ch := u.chan n
      (¬ CwOk u n [1, 3] → exec (.cwarrive r1) s = .next (u.trapCc s.focus.h s.focus.t { cause := 0x0C, sub := 4 }))
      ∧ (CwOk u n [1, 3] → CcReleased u 1 v → v.chans = u.chans ∧ (u.xk ∉ ch.here → ∃ t, exec (.cwarrive r1) s = .next t
          ∧ (t.chan n).here = ch.here ++ [u.xk] ∧ (t.chan n).last = s.gcc ∧ Map.get 0 (t.chan n).arr u.xk = ch.inst
          ∧ t.th.pc = s.nextPc ∧ (ch.cfg.kind = 3 → t.gr.phaseNext = some n)))
      ∧ (CwOk u n [1, 3] → CcReleased u 1 v → u.xk ∈ ch.here → u.xk ∉ ch.early → ∃ t, exec (.cwarrive r1) s = .next t
          ∧ (t.chan n).early = ch.early ++ [u.xk] ∧ (t.chan n).here = ch.here ∧ Map.get 0 (t.chan n).arr u.xk = ch.inst + 1
          ∧ t.th.pc = s.nextPc)
      ∧ (CwOk u n [1, 3] → CcReleased u 1 v → u.xk ∈ ch.here → u.xk ∈ ch.early → exec (.cwarrive r1) s = .next (v.ccWaits .causeway))
      ∧ (CwOk u n [1, 3] → (∀ i, Map.find? ch.arr u.xk = some i → i < ch.inst) → ∃ t, exec (.cwwait r1) s = .next t
          ∧ t.th.pc = s.nextPc ∧ t.th.x = s.th.x ∧ t.mem = s.mem)
      ∧ (CwOk u n [1, 3] → (∃ i, Map.find? ch.arr u.xk = some i ∧ ch.inst ≤ i) → exec (.cwwait r1) s = .next (u.ccWaits .causeway))
      ∧ (CwOk u n [2] → s.th.part < 4 → (∀ w, (u.hearth s.focus.h).xwin = some w → w.ctx ≠ s.th.ctx) →
          exec (.sstep r1) s = .next (u.trapCc s.focus.h s.focus.t { cause := 0x0C, sub := 4 }))
      ∧ (CwOk u n [2] → (∃ w, (u.hearth s.focus.h).xwin = some w ∧ w.ctx = s.th.ctx) →
          (s.th.part = 0 → (u.drained u.xk && u.exchangeQuiet s.focus.h s.th.ctx (if s.th.since = 0 then s.gcc + 1 else s.th.since)) = false →
            exec (.sstep r1) s = .next (u.ccWaits .causeway))
          ∧ (s.th.part = 3 → u.xk ∉ ch.here → ch.swaps ≤ ch.inst → ch.inst < 2 ^ 64 → ∃ t, exec (.sstep r1) s = .next t
            ∧ (t.chan n).here = ch.here ++ [u.xk] ∧ t.th.hold = bytesOf ch.inst 8 ∧ t.th.part = 4 ∧ t.th.pc = s.th.pc))
      ∧ (CwOk u n [2] →
          (4 ≤ s.th.part → natOfBytes s.th.hold < ch.swaps → ∃ t, exec (.sstep r1) s = .next t ∧ t.th.pc = s.nextPc ∧ t.th.x = s.th.x
            ∧ t.mem = s.mem)
          ∧ (4 ≤ s.th.part → ch.swaps ≤ natOfBytes s.th.hold → exec (.sstep r1) s = .next (u.ccWaits .causeway))))
  ∧ (∀ n, data = some n →
      let u := s.settleChan n
      let ch := u.chan n
      let others := ch.cfg.members.filter (fun m => m != ch.cfg.sender)
      let room := ∀ m ∈ others, ((u.ctx m).rx.filter (fun e => e.ch == n)).length < 4
      let value : RxE := { ch := n, due := s.gcc + chanCost n, v := s.xr r2 }
      (CwOk u n [4] → ch.cfg.sender = u.xk → u.th.part = 0 → ch.held = none → room → others.Nodup → ∃ t, exec (.cwbcast r1 r2) s = .next t
          ∧ (∀ m ∈ others, (t.ctx m).rx = (u.ctx m).rx ++ [value]) ∧ t.th.pc = s.nextPc)
      ∧ (CwOk u n [4] → ch.cfg.sender = u.xk → u.th.part = 0 → ch.held = none → ¬ room → ∃ t, exec (.cwbcast r1 r2) s = .next t
          ∧ (t.chan n).held = some (s.xr r2) ∧ t.th.part = 1 ∧ t.th.pc = s.th.pc)
      ∧ (CwOk u n [4] → ch.cfg.sender = u.xk → u.th.part = 1 → ch.held = none →
          exec (.cwbcast r1 r2) s = .next (u.ccRet s.nextPc (fun th => th)))
      ∧ (CwOk u n [4] → ch.cfg.sender ≠ u.xk → ∀ a e b, u.cx.rx = a ++ e :: b → (∀ x ∈ a, x.ch ≠ n) → e.ch = n →
          (e.due ≤ s.gcc ∨ e.full = true) → ∃ t, exec (.cwrecv rd r1) s = .next t ∧ t.th.pc = s.nextPc
            ∧ t.th.x = (if rd = 0#5 then s.th.x else Map.set 0 s.th.x rd.toNat e.v) ∧ t.cx.rx.length = a.length + b.length)
      ∧ (CwOk u n [5] → u.th.part = 1 → ∀ w r, u.th.wait = some w → ch.results.find? (fun x => x.1 == w.a) = some (w.a, some r) →
          exec (.cwrsum rd r1 r2) s = .next (u.ccWrote rd (BitVec.ofInt 64 r) s.nextPc)
          ∧ exec (.cwrmin rd r1 r2) s = .next (u.ccWrote rd (BitVec.ofInt 64 r) s.nextPc)
          ∧ exec (.cwrmax rd r1 r2) s = .next (u.ccWrote rd (BitVec.ofInt 64 r) s.nextPc))
      ∧ (CwOk u n [5] → u.th.part = 0 → Map.find? ch.contrib u.xk = none → ∀ op i, (op, i) ∈ [(0, Instr.cwrsum rd r1 r2),
          (1, Instr.cwrmin rd r1 r2), (2, Instr.cwrmax rd r1 r2)] → ∃ t, exec i s = .next t
            ∧ Map.find? (t.chan n).contrib u.xk = some { op := op, v := (lo32 (s.xr r2)).toInt } ∧ (t.chan n).last = s.gcc
            ∧ t.th.part = 1 ∧ t.th.pc = s.th.pc))

/-- R189, R192, R193, R196: each 32-bit integer word that may issue writes, in its executing lanes and after its latency, the value of its row:
sums, differences and products modulo 2^32, halves of products, the smaller and the larger, saturating sums, bitwise words, the table word, shifts
(0 or copies of the sign from 32 on), counts, reversal, fields, selection, comparison. NOP does nothing else than issue.
R188, R195, R196: the 64-bit words write a pair: sum and difference modulo 2^64, shifts by the 32-bit count (0 from 64 on), the full product of
two 32-bit values; ICMP64 compares 64-bit values. -/
def Obligations.LaneIntegerWords : Prop :=
  (∀ (s : State) (x : Issue) (g : Guard) (d : Dst) (a b c : Src),
  let A := x.a 0
  let B := x.a 1
  let C := x.a 2
  let low (f : Nat → Word) : Res := .next (x.wrote d false 2 (w32 f) 0)
  let slow (f : Nat → Word) : Res := .next (x.wrote d false 4 (w32 f) 0)
  let may (lat : Nat) (l : List Src) : Prop := LaneFixes s g true d false lat (l.map (fun a => (a, false))) x
  (LaneGo s g true false [] {} x → exec (.nop g) s = .next (x.issued x.u))
  ∧ (∀ imm, may 2 [] → exec (.movi g d imm) s = low (fun _ => imm))
  ∧ (may 2 [a] → exec (.mov g d a) s = low A
    ∧ (∀ imm, exec (.iaddi g d a imm) s = low (fun l => BitVec.ofInt 32 ((A l).toInt + imm.toInt)))
    ∧ exec (.iabs g d a) s = low (fun l => BitVec.ofNat 32 (A l).toInt.natAbs)
    ∧ exec (.clz g d a) s = low (fun l => BitVec.ofNat 32 ((List.range 32).filter (fun k => decide ((A l).toNat < 2 ^ k))).length)
    ∧ exec (.popc g d a) s = low (fun l => BitVec.ofNat 32 ((List.range 32).filter (fun k => (A l).getLsbD k)).length)
    ∧ exec (.brev g d a) s = low (fun l => bits32 (fun i => (A l).getLsbD (31 - i)))
    ∧ (∀ lsb w sx, lsb.toNat + w.toNat < 32 → exec (.bfx g d a lsb w sx) s = low (fun l =>
        let v : Nat := (A l).toNat / 2 ^ lsb.toNat % 2 ^ (w.toNat + 1)
        BitVec.ofInt 32 (if sx = true ∧ 2 ^ w.toNat ≤ v then (v : Int) - 2 ^ (w.toNat + 1) else v))))
  ∧ (may 2 [a, b] → exec (.iadd g d a b) s = low (fun l => BitVec.ofNat 32 ((A l).toNat + (B l).toNat))
    ∧ exec (.isub g d a b) s = low (fun l => BitVec.ofInt 32 ((A l).toInt - (B l).toInt))
    ∧ exec (.imin g d a b) s = low (fun l => if (A l).toInt ≤ (B l).toInt then A l else B l)
    ∧ exec (.imax g d a b) s = low (fun l => if (A l).toInt ≤ (B l).toInt then B l else A l)
    ∧ exec (.umin g d a b) s = low (fun l => if (A l).toNat ≤ (B l).toNat then A l else B l)
    ∧ exec (.umax g d a b) s = low (fun l => if (A l).toNat ≤ (B l).toNat then B l else A l)
    ∧ exec (.iadds g d a b false) s = low (fun l => BitVec.ofInt 32 (clamp (-(2 ^ 31)) (2 ^ 31 - 1) ((A l).toInt + (B l).toInt)))
    ∧ exec (.iadds g d a b true) s = low (fun l => BitVec.ofInt 32 (clamp 0 (2 ^ 32 - 1) ((A l).toNat + (B l).toNat)))
    ∧ exec (.and g d a b) s = low (fun l => A l &&& B l) ∧ exec (.or g d a b) s = low (fun l => A l ||| B l)
    ∧ exec (.xor g d a b) s = low (fun l => A l ^^^ B l) ∧ exec (.andn g d a b) s = low (fun l => A l &&& ~~~B l)
    ∧ exec (.shl g d a b) s = low (fun l => if 32 ≤ (B l).toNat then 0 else BitVec.ofNat 32 ((A l).toNat * 2 ^ (B l).toNat))
    ∧ exec (.shr g d a b) s = low (fun l => if 32 ≤ (B l).toNat then 0 else BitVec.ofNat 32 ((A l).toNat / 2 ^ (B l).toNat))
    ∧ exec (.sar g d a b) s = low (fun l => if 32 ≤ (B l).toNat then (if (A l).toInt < 0 then -1 else 0)
        else BitVec.ofInt 32 ((A l).toInt / 2 ^ (B l).toNat))
    ∧ exec (.rotl g d a b) s = low (fun l =>
        BitVec.ofNat 32 ((A l).toNat * 2 ^ ((B l).toNat % 32) + (A l).toNat / 2 ^ (32 - (B l).toNat % 32)))
    ∧ (∀ lsb w, lsb.toNat + w.toNat < 32 → exec (.bfi g d a b lsb w) s = low (fun l => bits32 (fun i =>
        if lsb.toNat ≤ i ∧ i ≤ lsb.toNat + w.toNat then (A l).getLsbD (i - lsb.toNat) else (B l).getLsbD i)))
    ∧ (∀ cond, exec (.icmp g cond d a b) s = low (fun l => if cmpTrue cond (A l) (B l) then 1 else 0)))
  ∧ (may 4 [a, b] → exec (.imul g d a b) s = slow (fun l => BitVec.ofInt 32 ((A l).toInt * (B l).toInt))
    ∧ exec (.imulh g d a b) s = slow (fun l => BitVec.ofInt 32 ((A l).toInt * (B l).toInt / 2 ^ 32))
    ∧ exec (.imulhu g d a b) s = slow (fun l => BitVec.ofNat 32 ((A l).toNat * (B l).toNat / 2 ^ 32)))
  ∧ (may 4 [a, b, c] → exec (.imad g d a b c) s = slow (fun l => BitVec.ofInt 32 ((A l).toInt * (B l).toInt + (C l).toInt)))
  ∧ (∀ table, may 2 [a, b, c] → exec (.ltab g d a b c table) s = low (fun l => bits32 (fun i =>
      table.getLsbD (4 * boolNat ((C l).getLsbD i) + 2 * boolNat ((B l).getLsbD i) + boolNat ((A l).getLsbD i)))))
  ∧ (∀ p, may 2 [a, b, .p p] → exec (.sel g d a b p) s = low (fun l => if C l = 1 then A l else B l)))
  ∧ (∀ (s : State) (x : Issue) (g : Guard) (d : Dst) (a b : Src),
  let A := valAt x.vs 0
  let B := valAt x.vs 1
  let pair (f : Nat → Word64) : Res := .next (x.wrote d true 4 f 0)
  (LaneFixes s g true d true 4 [(a, true), (b, true)] x →
      exec (.iadd64 g d a b) s = pair (fun l => BitVec.ofNat 64 ((A l).toNat + (B l).toNat))
      ∧ exec (.isub64 g d a b) s = pair (fun l => BitVec.ofInt 64 ((A l).toInt - (B l).toInt)))
  ∧ (LaneFixes s g true d true 4 [(a, true), (b, false)] x →
      exec (.shl64 g d a b) s = pair (fun l => if 64 ≤ (B l).toNat then 0 else BitVec.ofNat 64 ((A l).toNat * 2 ^ (B l).toNat))
      ∧ exec (.shr64 g d a b) s = pair (fun l => if 64 ≤ (B l).toNat then 0 else BitVec.ofNat 64 ((A l).toNat / 2 ^ (B l).toNat)))
  ∧ (LaneFixes s g true d true 4 [(a, false), (b, false)] x →
      exec (.imulw g d a b true) s = pair (fun l => BitVec.ofNat 64 ((A l).toNat * (B l).toNat))
      ∧ exec (.imulw g d a b false) s = pair (fun l => BitVec.ofInt 64 ((x.a 0 l).toInt * (x.a 1 l).toInt)))
  ∧ (∀ cond, LaneFixes s g true d false 4 [(a, true), (b, true)] x →
      exec (.icmp64 g cond d a b) s = .next (x.wrote d false 4 (fun l => if cmpTrue cond (A l) (B l) then 1 else 0) 0)))

/-- R86, R88, R197-R207: each floating word that may issue writes, in its executing lanes and after its latency, the value that the rounding of
the exact result gives (`rndSum` of the exact terms, subnormal inputs flushed in an exposed block), and ORs the flags of the executing lanes
into %fflags; FMIN, FMAX, FCMP, FCLASS and FRND raise none. What the functions named here compute is the statement of FloatOperations and
ElementaryFunctions, and of Rounding for the rounding itself. -/
def Obligations.LaneFloatWords : Prop := ∀ (s : State) (x : Issue) (g : Guard) (rm : Rm) (ht : Ht) (d : Dst) (a b c : Src),
  let z := x.w.z
  let A := fun l => (valAt x.vs 0 l).toNat
  let B := fun l => (valAt x.vs 1 l).toNat
  let C := fun l => (valAt x.vs 2 l).toNat
  let fp (n : Nat) : Term := f32.unpack z n
  let may (wide : Bool) (lat : Nat) (l : List Src) : Prop := LaneFixes s g true d wide lat (l.map (fun a => (a, false))) x
  let put (wide : Bool) (lat : Nat) (f : Nat → Nat × Nat) : Res :=
    .next (x.wrote d wide lat (fun l => BitVec.ofNat 64 (f l).1) ((lanesOf x.w.ex).foldl (fun k l => k ||| (f l).2) 0))
  let F := if ht.bf then bf16 else f16
  let half (n e : Nat) : Term := F.unpack z (n / 2 ^ (16 * e) % 2 ^ 16)
  let pick (e : Nat) : Nat := match ht.bsel.toNat with | 0 => e | 1 => 0 | 2 => 1 | _ => 1 - e
  let two (f : Nat → Nat × Nat) : Nat × Nat := ((f 0).1 + (f 1).1 * 2 ^ 16, (f 0).2 ||| (f 1).2)
  (may false 4 [a, b] →
    exec (.fadd g rm d a b) s = put false 4 (fun l => rndSum f32 rm z [fp (A l), fp (B l)])
    ∧ exec (.fsub g rm d a b) s = put false 4 (fun l => rndSum f32 rm z [fp (A l), (fp (B l)).neg])
    ∧ exec (.fmul g rm d a b) s = put false 4 (fun l => rndSum f32 rm z [(fp (A l)).mul (fp (B l))])
    ∧ exec (.fmin g d a b) s = put false 4 (fun l => (fpMinMax false z (A l) (B l), 0))
    ∧ exec (.fmax g d a b) s = put false 4 (fun l => (fpMinMax true z (A l) (B l), 0))
    ∧ (∀ cond, exec (.fcmp g cond d a b) s = put false 4 (fun l => (boolNat (fpCmp cond (fp (A l)) (fp (B l))), 0)))
    ∧ exec (.pkadd g rm ht d a b) s = put false 4 (fun l => two (fun e => rndSum F rm z [half (A l) e, half (B l) (pick e)]))
    ∧ exec (.pkmul g rm ht d a b) s = put false 4 (fun l => two (fun e => rndSum F rm z [(half (A l) e).mul (half (B l) (pick e))]))
    ∧ (∀ p uns, exec (.fcvtq g rm p uns d a b) s = put false 4 (fun l =>
        ((BitVec.ofInt 32 (fcvtq p.toNat uns rm (fp (A l)) (B l % 256)).1).toNat, (fcvtq p.toNat uns rm (fp (A l)) (B l % 256)).2))))
  ∧ (may false 4 [a, b, c] →
    exec (.ffma g rm d a b c) s = put false 4 (fun l => rndSum f32 rm z [(fp (A l)).mul (fp (B l)), fp (C l)])
    ∧ exec (.pkfma g rm ht d a b c) s = put false 4 (fun l =>
        two (fun e => rndSum F rm z [(half (A l) e).mul (half (B l) (pick e)), half (C l) e]))
    ∧ exec (.pkdot g rm ht d a b c) s = put false 4 (fun l =>
        rndSum f32 rm z [(half (A l) 0).mul (half (B l) (pick 0)), (half (A l) 1).mul (half (B l) (pick 1)), fp (C l)]))
  ∧ (may false 10 [a] →
    exec (.frcp g d a) s = put false 10 (fun l => fpRcp z (fp (A l))) ∧ exec (.frsq g d a) s = put false 10 (fun l => fpRsq z (fp (A l)))
    ∧ exec (.fsqrt g rm d a) s = put false 10 (fun l => fpSqrt rm z (fp (A l)))
    ∧ exec (.fexp2 g d a) s = put false 10 (fun l => fpExp2 z (fp (A l))) ∧ exec (.flog2 g d a) s = put false 10 (fun l => fpLog2 z (fp (A l)))
    ∧ exec (.fsinpi g d a) s = put false 10 (fun l => fpSinPi z (fp (A l)))
    ∧ exec (.fcospi g d a) s = put false 10 (fun l => fpCosPi z (fp (A l))))
  ∧ (may false 4 [a] → exec (.fclass g d a) s = put false 4 (fun l => (fpClass (A l), 0))
    ∧ exec (.frnd g rm d a) s = put false 4 (fun l => (fpRnd rm (fp (A l)), 0)))
  ∧ (∀ ty frm, LaneFixes s g true d (ty == .s64 || ty == .u64) 4 [(a, frm == .s64 || frm == .u64)] x →
      exec (.fcvt g rm ty frm d a) s = put (ty == .s64 || ty == .u64) 4 (fun l => fcvt rm z ty frm (A l)))

/-- R81-R85, R88, R89, R197, R199-R201, R204, R207: the sum of terms that the words round (`rndSum`): a NaN, a product of a zero and an infinity, or infinities of both signs give
the canonical NaN (the latter two with NV); an infinity gives itself; an exact sum of 0 gives a zero by the rule of signs, any other the rounding (`rndFin`, stated in
Rounding) of that sum. FMIN and FMAX give one of the two operands, the lesser or the greater, -0 below +0; a NaN gives way. FCMP compares numbers and infinities; FCLASS sets
the bit of the class; FRND gives the integer of the mode with the operand's sign. FCVT narrows and widens by rounding, converts to an integer clamped with NV, and rounds an integer;
FCVTQ scales by 2^(127 - e), rounds and clamps with NX. -/
def Obligations.FloatOperations : Prop := ∀ (rm : Rm) (z : Bool) (x y e8 p : Nat),
  let minus (n : Nat) : Bool := n.testBit 31
  let flushed (n : Nat) : Nat := if z = true ∧ n / 2 ^ 23 % 256 = 0 then n / 2 ^ 31 * 2 ^ 31 else n
  let a := f32.unpack z x
  let b := f32.unpack z y
  let fmt (ty : CvtTy) : Option Fmt := match ty with | .f32 => some f32 | .f16 => some f16 | .bf16 => some bf16 | _ => none
  let signed (ty : CvtTy) : Bool := match ty with | .s32 | .s64 => true | _ => false
  let width (ty : CvtTy) : Nat := match ty with | .s64 | .u64 => 64 | .f16 | .bf16 => 16 | _ => 32
  let clamped (bound : Nat) (lo hi n : Int) (v : Rat) (r : Int × Nat) : Prop :=
    r = if n < lo then (lo, bound) else if hi < n then (hi, bound) else (n, if (n : Rat) = v then 0 else flNX)
  (∀ f l, (f = f32 ∨ f = f16 ∨ f = bf16) →
    (.nan ∈ l → rndSum f rm z l = (f.canon, 0))
    ∧ (.nan ∉ l → (.invalid ∈ l ∨ (.inf true ∈ l ∧ .inf false ∈ l)) → rndSum f rm z l = (f.canon, flNV))
    ∧ (∀ s, .nan ∉ l → .invalid ∉ l → .inf s ∈ l → .inf (!s) ∉ l → rndSum f rm z l = (f.infBits s, 0))
    ∧ ((∀ t ∈ l, ∃ s m e, t = .fin s m e) → let sum := (l.map Term.num).sum
      let zeros (s : Bool) : Prop := ∀ t ∈ l, ∃ e, t = .fin s 0 e
      (sum = 0 → ∃ s, rndSum f rm z l = (f.zeroBits s, 0) ∧ (s = true ↔ if rm = .rdn then ¬ zeros false else zeros true))
      ∧ (sum ≠ 0 → ∃ s m e, m ≠ 0 ∧ (Term.fin s m e).num = sum ∧ rndSum f rm z l = rndFin f rm z s m e)))
  ∧ (x < 2 ^ 32 → y < 2 ^ 32 → ∀ mx, let r := fpMinMax mx z x y
    (a.ext = none → b.ext = none → r = f32.canon) ∧ (a.ext = none → b.ext ≠ none → r = flushed y) ∧ (a.ext ≠ none → b.ext = none → r = flushed x)
    ∧ (∀ v w, a.ext = some v → b.ext = some w → (r = flushed x ∨ r = flushed y) ∧ (f32.unpack z r).ext = some (if mx then max v w else min v w)
        ∧ (v = w → minus r = if mx then minus x && minus y else minus x || minus y)))
  ∧ (∀ c, (a.ext = none ∨ b.ext = none → (fpCmp c a b = true ↔ c = .un ∨ c = .ne))
    ∧ (∀ v w, a.ext = some v → b.ext = some w → (fpCmp c a b = true ↔ match c with | .eq => v = w | .lt => v < w | .le => v ≤ w | .un => False | .ne => v ≠ w)))
  ∧ (x < 2 ^ 32 → fpClass x = 2 ^ (let ex := x / 2 ^ 23 % 256
      let fr := x % 2 ^ 23
      if ex = 255 then (if fr = 0 then (if minus x then 0 else 7) else if fr < 2 ^ 22 then 8 else 9)
      else if ex = 0 then (if fr = 0 then (if minus x then 3 else 4) else if minus x then 2 else 5) else if minus x then 1 else 6))
  ∧ (x < 2 ^ 32 → (a = .nan → fpRnd rm a = f32.canon) ∧ (∀ s, a = .inf s → fpRnd rm a = f32.infBits s)
    ∧ (∀ s m e, a = .fin s m e → rm ≠ .rod → ∃ n : Int, f32.finite (fpRnd rm a) = some n ∧ roundsTo rm a.num n ∧ f32.signOf (fpRnd rm a) = s))
  ∧ (∀ dst src F T, fmt src = some F → fmt dst = some T → fcvt rm z dst src x = rndSum T rm z [F.unpack z (x % 2 ^ width src)])
  ∧ (∀ dst src F, fmt src = some F → fmt dst = none → let t := F.unpack z (x % 2 ^ width src)
    let w := width dst
    let lo : Int := if signed dst then -(2 ^ (w - 1)) else 0
    let hi : Int := if signed dst then 2 ^ (w - 1) - 1 else 2 ^ w - 1
    ∃ r : Int × Nat, fcvt rm z dst src x = ((r.1 % 2 ^ w).toNat, r.2) ∧ (t = .nan → r = (0, flNV)) ∧ (∀ s, t = .inf s → r = (if s then lo else hi, flNV))
      ∧ (∀ s m e, t = .fin s m e → rm ≠ .rod → ∃ n, roundsTo rm t.num n ∧ clamped flNV lo hi n t.num r))
  ∧ (∀ dst src T, fmt src = none → fmt dst = some T →
    let n : Int := if signed src then (BitVec.ofNat (width src) x).toInt else (x % 2 ^ width src : Nat)
    fcvt rm z dst src x = rndFin T rm z (decide (n < 0)) n.natAbs 0)
  ∧ (∀ uns, 2 ≤ p → p ≤ 8 → let lo : Int := if uns then 0 else -(2 ^ (p - 1))
    let hi : Int := if uns then 2 ^ p - 1 else 2 ^ (p - 1) - 1
    let r := fcvtq p uns rm a e8
    (a = .nan → r = (0, flNV)) ∧ (∀ s, a = .inf s → r = (if s then lo else hi, flNX))
    ∧ (∀ s m e, a = .fin s m e → rm ≠ .rod → let v := a.num * (2 : Rat) ^ (127 - (e8 : Int))
      ∃ n, roundsTo rm v n ∧ clamped flNX lo hi n v r))

/-- R202, R203: FSQRT, FRCP and FRSQ of a finite number round (`rndFin`) a number that lies on the same side of every number of at most 26 bits as the exact result, and equals such
a number only where the exact result does: so the result is the exact one's, correctly rounded. The special inputs of the table of R203 give its results and flags: NaN, the infinities, the
zeros, a negative number; and so do the exact cases: FEXP2 of an integer, FLOG2 of a power of two, FSINPI and FCOSPI of integers and half integers.
What the model settles itself: the precision of the series (log 8). -/
def Obligations.ElementaryFunctions : Prop := ∀ (rm : Rm) (z s : Bool) (m : Nat) (e : Int), m < 2 ^ 24 →
  let t : Term := .fin s m e
  let y : Rat := m * (2 : Rat) ^ e
  let canon : Nat × Nat := (f32.canon, 0)
  let bad : Nat × Nat := (f32.canon, flNV)
  let inf (s : Bool) : Nat := f32.infBits s
  let zero (s : Bool) : Nat := f32.zeroBits s
  let one (s : Bool) : Nat × Nat := (0x3F800000 + boolNat s * 2 ^ 31, 0)
  -- the number rounded stands to every short number b as the exact result does: below it, or equal to it
  let rounds (rm : Rm) (s : Bool) (below equal : Rat → Prop) (r : Nat × Nat) : Prop :=
    ∃ (M : Nat) (E : Int), M ≠ 0 ∧ r = rndFin f32 rm z s M E
      ∧ ∀ (k : Nat) (q : Int), k < 2 ^ 26 → let b : Rat := k * (2 : Rat) ^ q
        ((M : Rat) * (2 : Rat) ^ E < b ↔ below b) ∧ ((M : Rat) * (2 : Rat) ^ E = b ↔ equal b)
  (m ≠ 0 → rounds .rne s (fun b => 1 < b * y) (fun b => 1 = b * y) (fpRcp z t)
    ∧ (s = false → rounds rm false (fun b => y < b * b) (fun b => y = b * b) (fpSqrt rm z t)
      ∧ rounds .rne false (fun b => 1 < b * b * y) (fun b => 1 = b * b * y) (fpRsq z t))
    ∧ (s = true → fpSqrt rm z t = bad ∧ fpRsq z t = bad ∧ fpLog2 z t = bad))
  ∧ (m = 0 → fpRcp z t = (inf s, flDZ) ∧ fpRsq z t = (inf s, flDZ) ∧ fpSqrt rm z t = (zero s, 0) ∧ fpExp2 z t = one false
    ∧ fpLog2 z t = (inf true, flDZ) ∧ fpSinPi z t = (zero s, 0) ∧ fpCosPi z t = one false)
  ∧ (fpRcp z .nan = canon ∧ fpRsq z .nan = canon ∧ fpSqrt rm z .nan = canon ∧ fpExp2 z .nan = canon ∧ fpLog2 z .nan = canon
    ∧ fpSinPi z .nan = canon ∧ fpCosPi z .nan = canon)
  ∧ (fpRcp z (.inf s) = (zero s, 0) ∧ fpRsq z (.inf s) = (if s then bad else (zero false, 0)) ∧ fpSqrt rm z (.inf s) = (if s then bad else (inf false, 0))
    ∧ fpExp2 z (.inf s) = (if s then zero false else inf false, 0) ∧ fpLog2 z (.inf s) = (if s then bad else (inf false, 0))
    ∧ fpSinPi z (.inf s) = bad ∧ fpCosPi z (.inf s) = bad)
  ∧ (∀ n : Int, t.num = n → -256 < n → n < 256 → fpExp2 z t = rndFin f32 .rne z false 1 n)
  ∧ (∀ j : Nat, s = false → m = 2 ^ j → fpLog2 z t = rndFin f32 .rne z (decide (j + e < 0)) (j + e).natAbs 0)
  ∧ (∀ n : Nat, y = n → fpSinPi z t = (zero s, 0) ∧ fpCosPi z t = one (n % 2 == 1))
  ∧ (∀ n : Nat, y = n + 1 / 2 → fpSinPi z t = one (s != (n % 2 == 1)) ∧ fpCosPi z t = (zero false, 0))

/-- R202 (the precision of the series: log 8): FEXP2, FLOG2, FSINPI and FCOSPI of a finite FP32 number outside the exact cases round, to nearest even, a number that differs
from the exact result by less than 2^-140 of it. -/
def Obligations.TranscendentalFunctions : Prop := ∀ (z s : Bool) (m : Nat) (e : Int), m ≠ 0 → m < 2 ^ 24 → -149 ≤ e → e ≤ 104 →
  let t : Term := .fin s m e
  let a : ℝ := (if s then -1 else 1) * (m : ℝ) * (2 : ℝ) ^ e
  let rounds (r : Nat × Nat) (y : ℝ) : Prop := ∃ (neg : Bool) (M : Nat) (E : Int), M ≠ 0 ∧ r = rndFin f32 .rne z neg M E
    ∧ |(if neg then -1 else 1) * (M : ℝ) * (2 : ℝ) ^ E - y| < |y| * (2 : ℝ) ^ (-140 : Int)
  (|a| < 256 → (∀ n : Int, a ≠ n) → rounds (fpExp2 z t) ((2 : ℝ) ^ a))
  ∧ (s = false → (∀ j : Int, a ≠ (2 : ℝ) ^ j) → rounds (fpLog2 z t) (Real.logb 2 a))
  ∧ ((∀ n : Int, 2 * a ≠ n) → rounds (fpSinPi z t) (Real.sin (Real.pi * a)) ∧ rounds (fpCosPi z t) (Real.cos (Real.pi * a)))

/-- R208, R223-R229: the predicate words combine predicates lane by lane; BALLOT collects the executing lanes' bits and PVOTE decides all, any or
alike; XL reads the lane that b names (0, or the own value, past lane 31); SCAN and REDUCE fold the executing lanes in ascending order by the step of
their operation, from the lowest lane's value after the input rule (exclusive from the identity), the flags of FADD's steps ORed; COMPACT moves the kept lanes down; PLNPACK and PLNUNPACK move one bit plane.
R230, R231, R252, R251, R345: REBAL gives each lane the row and offset of its work item (the first of 32 row ends above w = k + b), LBOUND the
first of min(c, 32) lanes that is at least b; MRD reads raw cells of a bank and MVER its version; CNTR reads the group's counter, which holds the
events up to the cycle before. -/
def Obligations.LaneCrossAndLookupWords : Prop :=
  (∀ (s : State) (x : Issue) (g : Guard) (d : Dst) (p q r : BitVec 3) (a b : Src),
  let A := valAt x.vs 0
  let B := valAt x.vs 1
  let ls := lanesOf x.w.ex
  let bit (v : Word64) : Bool := v == 1
  let pred (f : Nat → Bool) : Res := .next (x.wrote (.p r) false 2 (fun l => if f l then 1 else 0) 0)
  let ballot := (ls.map (fun l => boolNat ((A l).getLsbD 0) * 2 ^ l)).sum
  let put (f : Nat → Word64) : Res := .next (x.wrote d false 6 f 0)
  let z := x.w.z
  let flushed (n : Nat) : Nat := if z = true ∧ n / 2 ^ 23 % 256 = 0 then n / 2 ^ 31 % 2 * 2 ^ 31 else n
  let first (op : ScanOp) (n : Nat) : Nat := match op with
    | .fadd | .fmin | .fmax => if (f32.unpack z n).ext = none then f32.canon else flushed n
    | _ => n
  let fold (op : ScanOp) (m n : Nat) : Nat × Nat :=
    let i : Word := BitVec.ofNat 32 m
    let j : Word := BitVec.ofNat 32 n
    match op with
    | .add => ((m + n) % 2 ^ 32, 0)
    | .min => (if j.toInt < i.toInt then j.toNat else i.toNat, 0)
    | .max => (if i.toInt < j.toInt then j.toNat else i.toNat, 0)
    | .umin => (if m ≤ n then m else n, 0)
    | .umax => (if m ≤ n then n else m, 0)
    | .fadd => rndSum f32 .rne z [f32.unpack z m, f32.unpack z n]
    | .fmin => (fpMinMax false z m n, 0)
    | .fmax => (fpMinMax true z m n, 0)
  let identity (op : ScanOp) : Nat := match op with
    | .add | .umax => 0 | .min => 0x7FFFFFFF | .max | .fadd => 0x80000000 | .umin => 0xFFFFFFFF | .fmin => 0x7F800000 | .fmax => 0xFF800000
  -- the fold along the first n + 1 executing lanes, with its flags
  let upTo (op : ScanOp) (n : Nat) : Nat × Nat := ((ls.take (n + 1)).drop 1).foldl (fun y l =>
      ((fold op y.1 (x.a 0 l).toNat).1, y.2 ||| (fold op y.1 (x.a 0 l).toNat).2)) (first op (x.a 0 (ls.headD 0)).toNat, 0)
  (LaneFixes s g true (.p r) false 2 [(.p p, false), (.p q, false)] x →
    exec (.pand g r p q) s = pred (fun l => bit (A l) && bit (B l)) ∧ exec (.por g r p q) s = pred (fun l => bit (A l) || bit (B l))
    ∧ exec (.pxor g r p q) s = pred (fun l => bit (A l) != bit (B l)) ∧ exec (.pandn g r p q) s = pred (fun l => bit (A l) && !bit (B l)))
  ∧ (LaneFixes s g true (.p r) false 2 [(a, false)] x → exec (.pset g r a) s = pred (fun l => x.a 0 l != 0))
  ∧ (LaneFixes s g true d false 6 [(.p p, false)] x → exec (.ballot g d p) s = put (fun _ => BitVec.ofNat 64 ballot))
  ∧ (∀ m, LaneFixes s g true (.p r) false 6 [(.p p, false)] x → exec (.pvote g m r p) s = .next (x.wrote (.p r) false 6 (fun _ =>
      if (match m with | .all => ballot == x.w.ex.toNat | .any => ballot != 0 | .uni => ballot == 0 || ballot == x.w.ex.toNat) then 1 else 0) 0))
  ∧ (∀ own, LaneFixes s g true d false 6 [(a, false), (b, false)] x → exec (.xl g own d a b) s = put (fun l =>
      if (B l).toNat < 32 then A (B l).toNat else if own then A l else 0))
  ∧ (∀ op excl, LaneFixes s g true d false 6 [(a, false)] x → exec (.scan g op excl d a) s =
      .next (x.wrote d false 6 (fun l => if l ∈ ls then BitVec.ofNat 64 (if excl then
          (if ls.idxOf l = 0 then identity op else (upTo op (ls.idxOf l - 1)).1) else (upTo op (ls.idxOf l)).1) else 0)
        (if ls = [] then 0 else (upTo op (ls.length - 1)).2)))
  ∧ (∀ op, LaneFixes s g true d false 6 [(a, false)] x → exec (.reduce g op d a) s =
      .next (x.wrote d false 6 (fun _ => if ls = [] then 0 else BitVec.ofNat 64 (upTo op (ls.length - 1)).1)
        (if ls = [] then 0 else (upTo op (ls.length - 1)).2)))
  ∧ (LaneFixes s g true d false 6 [(a, false), (.p p, false)] x → exec (.compact g d a p) s = put (fun l =>
      match (ls.filter (fun j => bit (B j)))[l]? with | some j => A j | none => 0))
  ∧ (∀ i n, LaneFixes s g true d false 4 [(a, false)] x → exec (.plnpack g i n d a) s = .next (x.wrote d false 4 (fun _ =>
      BitVec.ofNat 64 (ls.map (fun l => boolNat ((A l).getLsbD (n.toNat - i.toNat)) * 2 ^ l)).sum) 0))
  ∧ (∀ i n, LaneFixes s g true d false 4 [(a, false), (b, false)] x → exec (.plnunpack g i n d a b) s = .next (x.wrote d false 4 (fun l =>
      (B l &&& ~~~(1#64 <<< (n.toNat - i.toNat))) ||| ((if (A l).getLsbD l then 1 else 0) <<< (n.toNat - i.toNat))) 0)))
  ∧ (∀ (s : State) (x : Issue) (g : Guard) (d : Dst) (a b c : Src) (k n : BitVec 4)
    (bank : BitVec 2) (col : BitVec 5),
  let first (p : Nat → Bool) (n : Nat) : Nat := ((List.range n).find? p).getD n
  (LaneFixes s g false d true 12 [(a, false), (b, false), (.k k, false)] x → exec (.rebal g d a b k) s = .next (x.wrote d true 12 (fun l =>
      let w := x.a 2 l + x.a 1 l
      let r := first (fun j => decide (w.toNat < (x.a 0 j).toNat)) 32
      (if r = 0 then w else w - x.a 0 (r - 1)) ++ BitVec.ofNat 32 r) 0))
  ∧ (LaneFixes s g false d false 16 [(a, false), (b, false), (c, false)] x → exec (.lbound g d a b c) s = .next (x.wrote d false 16 (fun l =>
      BitVec.ofNat 64 (first (fun j => decide ((valAt x.vs 1 l).toNat ≤ (valAt x.vs 0 j).toNat)) (min (valAt x.vs 2 l).toNat 32))) 0))
  ∧ (LaneGo s g false false [] { wv := dstCodes d 1, wp := dstPreds d, bank := some bank.toNat, code := (dstCode d).toNat, lat := 8 } x →
      (∀ q, d = .oq q → (Map.get [] x.u.lg.oq q.toNat).length < 16) →
      x.u.cmdWait x.u.focus.h x.u.focus.t x.u.lb.pos [0] (bankSpan bank.toNat false) = false →
      exec (.mrd g d bank col) s = .next (x.wrote d false 8 (fun l =>
        BitVec.ofNat 64 (Map.get 0 x.u.lg.acc ((32 * bank.toNat + l) * 32 + col.toNat)).toNat) 0))
  ∧ (LaneGo s g false false [] { wv := dstCodes d 1, wp := dstPreds d, bank := some bank.toNat, code := (dstCode d).toNat, lat := 4 } x →
      (∀ q, d = .oq q → (Map.get [] x.u.lg.oq q.toNat).length < 16) →
      exec (.mver g d bank) s = .next (x.wrote d false 4 (fun _ => BitVec.ofNat 64 (Map.get 0 x.u.lg.ver bank.toNat)) 0))
  ∧ (LaneFixes s g false d false 2 [] x → exec (.cntr g d n) s
      = .next (x.wrote d false 2 (fun _ => BitVec.ofNat 64 ((x.u.perfRead x.u.focus.h x.u.focus.t n.toNat).toNat % 2 ^ 32)) 0)
      ∧ (x.u.lg.perfAt ≠ x.u.gcc + 1 → x.u.perfRead x.u.focus.h x.u.focus.t n.toNat = Map.get 0 x.u.lg.perf n.toNat)
      ∧ (x.u.lg.perfAt = x.u.gcc + 1 → x.u.perfRead x.u.focus.h x.u.focus.t n.toNat
          = Map.get 0 x.u.lg.perf n.toNat - BitVec.ofNat 64 (Map.get 0 x.u.lg.perfNow n.toNat))))

/-- R86, R187-R190, R298: the result of a fixed-latency word is written when its latency has passed, in the executing lanes alone: a register, or a
pair low word first, a predicate bit, or %fflags from the lowest executing lane. Until it is due nothing of it shows. The word's flags are
ORed into %fflags with its result. Other lanes, registers and predicates keep. An oq takes its entry at issue, 0 in the lanes that do not execute
(at issue: the model's reading, its log entry 41).
R32, R35, R41, R163, R164, R185, R307: a group with no block takes the block at the head of its BQ (N = 0 is consumed at once); KSET and window
entries change their register or WA and go, an entry of another kind, or with a reserved field set, is an encoding trap. A pass starts at word 0 on the words fetched for the
first pass; a word that has issued is followed by the next word of the body in the next cycle, or by the next pass, and the last of
N + S - 1 passes ends the block once its results are written and its PRETs have pushed.
What the model settles itself: when side results take place (log 24), the cause of a failing spill or fill (log 27), an oq element pushed at issue
(log 41) and reserved bits of queue and frame entries (log 96). -/
def Obligations.LanePassesAndResults : Prop :=
  (∀ (s : State) (w : Lw) (i : BitVec 7) (p : BitVec 3) (q : BitVec 2) (lat fl c : Nat) (v : Vals),
  s.lg.pend = [] →
  let u (d : Dst) (wide : Bool) : Group := ((writeResult d wide lat w v fl s).lg).settle c
  let reg := s.phys i.toNat
  let reg' := s.phys (i.toNat + 1)
  (c < s.lcyc + lat → ∀ j l, (u (.v i) false).vAt j l = s.lg.vAt j l ∧ (u (.v i) true).vAt j l = s.lg.vAt j l
    ∧ (u (.p p) false).pAt j l = s.lg.pAt j l ∧ (u (.v i) false).fflags = s.lg.fflags ∧ (u .fflags false).fflags = s.lg.fflags)
  ∧ (s.lcyc + lat ≤ c →
    (u (.v i) false).fflags = s.lg.fflags ||| fl ∧ (u (.p p) false).fflags = s.lg.fflags ||| fl
    ∧ (∀ j l, l < 32 → (u (.v i) false).vAt j l = if j = reg ∧ w.ex.getLsbD l = true then lo32 (v l) else s.lg.vAt j l)
    ∧ (reg ≠ reg' → ∀ j l, l < 32 → (u (.v i) true).vAt j l =
        if j = reg ∧ w.ex.getLsbD l = true then lo32 (v l) else if j = reg' ∧ w.ex.getLsbD l = true then hi32 (v l) else s.lg.vAt j l)
    ∧ (∀ j l, l < 32 → (u (.p p) false).pAt j l = if j = p.toNat ∧ w.ex.getLsbD l = true then (v l).getLsbD 0 else s.lg.pAt j l)
    ∧ (u .fflags false).fflags = (match (lanesOf w.ex).head? with | some l => (v l).toNat % 32 | none => s.lg.fflags) ||| fl)
  ∧ (∀ n, Map.get [] (writeResult (.oq q) false lat w v fl s).lg.oq n =
      Map.get [] s.lg.oq n ++ (if n = q.toNat then [(natsFrom 0 32).map (fun l => if w.ex.getLsbD l then lo32 (v l) else 0)] else [])))
  ∧ (∀ (s : State) (h g : Nat) (e : BqE) (rest : List BqE),
  let k := ckey h g
  let gr := s.group k
  let ready := s.settleGroup h g = s ∧ s.mayTake h g = true ∧ (s.ctx k).bq = e :: rest ∧ e.reserved = false
  let n := e.bits.toNat
  let delta := e.delta
  let inside := 0 ≤ gr.wa + delta ∧ gr.lo ≤ (gr.wa + delta).toNat ∧ (gr.wa + delta).toNat + 15 < gr.lo + 64
  (ready → n / 2 ^ 124 = 0 → e.phase = none → inside → ∃ t, exec (.blockTake h g) s = .next t ∧ (t.ctx k).bq = rest
      ∧ (t.group k).wa = (gr.wa + delta).toNat ∧ (t.group k).v = gr.v ∧ t.mem = s.mem
      ∧ (t.group k).blk = (if n / 2 ^ 32 % 2 ^ 32 = 0 then none else some (blkOf e)))
  ∧ (ready → n / 2 ^ 124 = 1 → ∃ t, exec (.ksetApply h g) s = .next t ∧ (t.ctx k).bq = rest ∧ (t.group k).blk = none
      ∧ (∀ i, Map.get 0 (t.group k).k i = if i = n / 2 ^ 80 % 16 then BitVec.ofNat 64 n else Map.get 0 gr.k i) ∧ (t.group k).v = gr.v)
  ∧ (ready → n / 2 ^ 124 = 2 → gr.winTo = none → inside → ∃ t, exec (.windowChangeApply h g) s = .next t ∧ (t.ctx k).bq = rest
      ∧ (t.group k).wa = (gr.wa + delta).toNat ∧ (t.group k).v = gr.v)
  ∧ (ready → n / 2 ^ 124 = 2 → gr.winTo = none → gr.wa + delta < 0 → exec (.windowChangeApply h g) s
      = .next ((s.modCtx k (fun x => { x with bq := rest })).takeTrap h g
          { cause := 0x12, sub := 3, agent := 6, pos := some (n / 2 ^ 108 % 2 ^ 16) }))
  ∧ (s.settleGroup h g = s → s.mayTake h g = true → (s.ctx k).bq = e :: rest →
      let trap : Res := .next (s.takeTrap h g { cause := 0x01, agent := 1, pos := some (n / 2 ^ 108 % 2 ^ 16), who := .group h g })
      (n / 2 ^ 124 = 0 → e.phase = none → n / 2 ^ 64 % 2 ^ 20 ≠ 0 → exec (.blockTake h g) s = trap)
      ∧ (n / 2 ^ 124 = 1 → (n / 2 ^ 102 % 2 ^ 6 ≠ 0 ∨ n / 2 ^ 84 % 2 ^ 12 ≠ 0 ∨ n / 2 ^ 64 % 2 ^ 16 ≠ 0) → exec (.ksetApply h g) s = trap)
      ∧ (n / 2 ^ 124 = 2 → (n / 2 ^ 107 % 2 ≠ 0 ∨ n % 2 ^ 96 ≠ 0) → exec (.windowChangeApply h g) s = trap))
  ∧ (ready → 2 < n / 2 ^ 124 → exec (.bqEntryOtherKind h g) s
      = .next (s.takeTrap h g { cause := 0x01, agent := 1, pos := some (n / 2 ^ 108 % 2 ^ 16), who := .group h g }))
  ∧ (∀ b, gr.blk = some b → b.inPass = false → b.fin = false → gr.winTo = none → s.groupFree h g = true → gr.xfs = [] →
      (0 < b.k → ∃ t, exec (.passStart h g) s = .next t ∧ (t.group k).blk = some { b with inPass := true, w := 0 }
        ∧ (t.group k).v = gr.v ∧ t.mem = s.mem)
      ∧ (b.k = 0 → ∀ body, s.bodyWords h (s.ctx k).part b.tab.body b.tab.len = (body, none) → ∃ t, exec (.passStart h g) s = .next t
        ∧ (t.group k).blk = some { b with inPass := true, w := 0, body := body } ∧ (t.group k).pts = max gr.pts gr.acqPts
        ∧ (t.group k).v = gr.v ∧ (s.NoFrames → t.mem = s.mem)))
  ∧ (∀ b, s.lg.blk = some b → b.fin = false → s.lg.pend = [] → s.lg.prets = [] → let t := s.wordDone
      (b.w + 1 < b.tab.len → t.lg.blk = some { b with w := b.w + 1 } ∧ t.lg.nextIssue = s.lcyc + 1 ∧ t.mem = s.mem)
      ∧ (b.tab.len ≤ b.w + 1 → b.k + 2 < b.n + b.tab.s → t.lg.blk = some { b with w := 0, k := b.k + 1, inPass := false })
      ∧ (b.tab.len ≤ b.w + 1 → b.n + b.tab.s ≤ b.k + 2 → t.lg.blk = none))
  ∧ (∀ b, gr.blk = some b → b.fin = true → gr.prets = [] → (∀ p ∈ gr.pend, p.due ≤ s.cycle h) → ∃ t, exec (.fixedLatencyWriteback h g) s = .next t
      ∧ (t.group k).blk = none ∧ (t.group k).pend = [])
  ∧ (∃ t, exec (.fixedLatencyWriteback h g) s = .next t ∧ ∀ p ∈ (t.group k).pend, s.cycle h < p.due))

/-- R37, R41, R114, R133, R213, R301, R302: what a lane word does where it does not execute. Outside an open pass, before its cycle, in a
parked group, or once its phase is over nothing issues; a register outside NEED is an encoding trap, a word that a phase block may not hold, or that comes at another phase
cycle than its own, a transfer-phase trap, whatever its guard; a word whose stage guard is off issues with no effect; a comparator's word, when it would issue, is a debug trap and has no effect; an empty iq and the word's own reason hold it (a trap in a phase
block); a schedule violation traps in an exposed block and stalls in an interlocked one; an uncorrectable register traps. Said of `laneIssue`,
which every lane word is.
R301, R304: the schedule violations of a word that reads or writes one register: a pending fixed-latency result or an outstanding load of a
register read is subcause 1; a write that would come before a pending one is subcause 2; a write of an outstanding load's register is
subcause 4. The record names the register (as the word has it, and physical), the earlier word's offset, pass and sequence number, and the
missing cycles or the operation's number (the register code as the word has it: the model's reading, log entry 42).
What the model settles itself: the register code of the record (log 42), late words at a reduced clock (log 50), corners of PRET (log 101), the guard
of a NOP (log 102), corners of phases (log 110) and class-L writes and subcause 2 (log 112). -/
def Obligations.LaneIssueChecks : Prop :=
  (∀ (s : State) (g : Guard) (inPhase always : Bool) (srcs : List (Src × Bool)) (r : Regs)
    (pre : Lw → State → Option Nat) (body : Lw → List Vals → State → Ans Unit) (x : Issue) (ev : Nat) (t : Trap) (q : Poison),
  let u := s.settleGroup s.focus.h s.focus.t
  let word := laneIssue g inPhase always srcs r pre body s
  let r' := r.with g srcs
  let ex : Word := if stageOn x.b g then u.executing g else 0
  let at_ := u.lg.blk = some x.b ∧ x.b.inPass = true ∧ u.lg.nextIssue ≤ u.lcyc ∧ u.lg.fault = none ∧ u.phaseOver x.b = false
  let fits := x.b.k = 0 → r'.outside x.b.tab.need = false
  let own := 8 + x.b.k * x.b.tab.len + x.b.w
  let admits := x.b.phase = none ∨ (inPhase = true ∧ u.ph = own)
  let held (e : Nat) : Res := .next (if x.b.phase = none then u.stall e else phaseTrap ex 9 (u.stall e))
  (u.lg.blk = none → word = .next u)
  ∧ (u.lg.blk = some x.b → (x.b.inPass = false ∨ u.lcyc < u.lg.nextIssue ∨ u.lg.fault ≠ none ∨ u.phaseOver x.b = true) → word = .next u)
  ∧ (at_ → x.b.k = 0 → r'.outside x.b.tab.need = true → word = .next (laneTrap ex { cause := 0x01 } u))
  ∧ (at_ → fits → x.b.phase ≠ none → inPhase = false → word = .next (phaseTrap ex 7 u))
  ∧ (at_ → fits → x.b.phase ≠ none → inPhase = true → u.ph ≠ own → word = .next (phaseTrap ex 9 u))
  ∧ (at_ → fits → admits → stageOn x.b g = false → always = false → ∀ vs,
      word = .next (Issue.issued { u := u, b := x.b, w := {}, vs := vs, pops := [] } u))
  ∧ (at_ → fits → admits → stageOn x.b g = true → u.lg.unfinished = none → ∀ j, u.bplwHit = some j →
      let w : Lw := { act := u.active, ex := ex, z := !x.b.tab.inter }
      (readSrcs u w [] srcs = none → word = held 0x05)
      ∧ (readSrcs u w [] srcs = some (x.vs, x.pops) → pre w u = some ev → word = held ev)
      ∧ (∀ v, readSrcs u w [] srcs = some (x.vs, x.pops) → pre w u = none → violation u r' = none → poisonHit u r' = none → body w x.vs u = .ok () v →
          word = .next (laneTrap ex { cause := 0x17, sub := 2, d8 := j } u)))
  ∧ (LaneAt s g inPhase always srcs r x → readSrcs u x.w [] srcs = none → word = held 0x05)
  ∧ (LaneAt s g inPhase always srcs r x → readSrcs u x.w [] srcs = some (x.vs, x.pops) → pre x.w u = some ev → word = held ev)
  ∧ (LaneAt s g inPhase always srcs r x → readSrcs u x.w [] srcs = some (x.vs, x.pops) → pre x.w u = none → violation u r' = some t →
      word = (if x.b.tab.inter then held 0x0A else .next (laneTrap ex t u)))
  ∧ (LaneAt s g inPhase always srcs r x → readSrcs u x.w [] srcs = some (x.vs, x.pops) → pre x.w u = none → violation u r' = none →
      poisonHit u r' = some q → q.f.cause ≠ 0x07 → word = .next (laneTrap ex (poisonTrap q) u))
  ∧ (LaneGo s g inPhase always srcs r x → pre x.w u = none → ∀ v, body x.w x.vs u = .ok () v → word = .next (x.issued v)))
  ∧ (∀ (s : State) (i lat : Nat) (p : Pend) (o : LaneOp),
  let ph := s.phys i
  let d8 (word pass : Nat) : Nat := i + ph * 2 ^ 8 + word * 2 ^ 17 + pass * 2 ^ 29
  let fixed (sub short : Nat) : Trap := { cause := 0x02, sub := sub, d8 := d8 p.word p.pass, d9 := p.seq + short % 2 ^ 16 * 2 ^ 16 }
  let load (sub : Nat) : Trap := { cause := 0x02, sub := sub, d8 := d8 o.word o.pass, d9 := o.seq + o.no % 2 ^ 32 * 2 ^ 32 }
  (s.lg.pendOf (.v ph) = some p → violation s { rv := [i] } = some (fixed 1 (p.due - s.lcyc)))
  ∧ (s.lg.pendOf (.v ph) = none → s.lg.loadOf ph = some o → violation s { rv := [i] } = some (load 1))
  ∧ (s.lg.pendOf (.v ph) = none → s.lg.loadOf ph = none → violation s { rv := [i] } = none)
  ∧ (0 < lat → s.lg.pendOf (.v ph) = some p → s.lcyc + lat < p.due →
      violation s { wv := [i], lat := lat } = some (fixed 2 (p.due - (s.lcyc + lat))))
  ∧ (s.lg.pendOf (.v ph) = none → s.lg.loadOf ph = some o → violation s { wv := [i], lat := lat } = some (load 4))
  ∧ (s.lg.pendOf (.v ph) = some p → p.due ≤ s.lcyc + lat → s.lg.loadOf ph = none → violation s { wv := [i], lat := lat } = none))

/-- R131, R188, R210, R214, R215, R218-R221: a load, store, atomic, compare-and-swap, LDP or STP that may issue, whose class has room for one more
operation (R232) and whose executing lanes all translate, issues and leaves ONE operation with one access for each executing lane: at
base + offset · 2^shift + immediate, of the word's width, scope and class, with the lane's operands, and its destination. A word
with no lane leaves one that has completed. PREF, its pages once walked, asks for the lines that it does not find and faults on none.
R211, R212: the checks of a word that accesses memory, over its executing lanes, before any lane accesses: misaligned addresses first, then
ranges and permissions; the trap's mask has the failing lanes and word 8 the address of the lowest. A lane whose translation misses asks for a walk
and the word waits; when the walk has found no valid entry, the lanes that translate are issued, a fault entry is made, and the word stands with the
other lanes.
What the model settles itself: the order of a group's accesses (log 23), an oq element pushed at issue (log 41) and the mask of a fault entry (log
103). -/
def Obligations.LaneMemoryWords : Prop :=
  (∀ (s : State) (x : Issue) (g : Guard) (m : Lm) (d : Dst) (base off c : Src) (v vc : BitVec 7) (tg : Nat → Tgt),
  let A := fun l => (x.addr m l).toNat
  let room (k : OpCls) : Prop := x.u.lg.outstanding k < 64
  let go (srcs : List (Src × Bool)) (r : Regs) : Prop := LaneGo s g false false ([(base, true), (off, false)] ++ srcs) r x
  let op (k : OpCls) (kind : OpKind) (n : Nat) : LaneOp := { cls := k, kind := kind, width := n, scope := m.scope.toNat, acls := m.cls.toNat }
  let into (o : LaneOp) (n : Nat) : LaneOp := { o with dst := x.u.physOf d n, oq := dstOq d, ff := d == .fflags }
  let zero : Nat → Nat := fun _ => 0
  (∀ i n sgn, (i, n, sgn) ∈ [(Instr.ldb g m d base off, 1, false), (.ldbs g m d base off, 1, true), (.ldh g m d base off, 2, false),
      (.ldhs g m d base off, 2, true), (.ldw g m d base off, 4, false), (.ldd g m d base off, 8, false)] →
    go [] { wv := dstCodes d (if n = 8 then 2 else 1) } → room .l → x.reaches .read n A tg →
    exec i s = .next (x.left (into (op .l (.load sgn) n) (if n = 8 then 2 else 1)) A zero zero tg))
  ∧ (∀ i n, (i, n) ∈ [(Instr.stb g m base off c, 1), (.sth g m base off c, 2), (.stw g m base off c, 4), (.std g m base off c, 8)] →
    go [(c, n == 8)] {} → room .s → x.reaches .write n A tg →
    exec i s = .next (x.left (op .s .store n) A (fun l => (valAt x.vs 2 l).toNat % 2 ^ (8 * n)) zero tg))
  ∧ (∀ i k, (i, k) ∈ [(Instr.aadd g m d base off c, AtOp.add), (.amin g m d base off c, .min), (.amax g m d base off c, .max),
      (.aumin g m d base off c, .minu), (.aumax g m d base off c, .maxu), (.aand g m d base off c, .and), (.aor g m d base off c, .or),
      (.axor g m d base off c, .xor), (.axchg g m d base off c, .swap), (.aaddf g m d base off c, .addf)] →
    go [(c, false)] { wv := dstCodes d 1 } → room .l → x.reaches .atomic 4 A tg →
    exec i s = .next (x.left (into (op .l (.atomic k) 4) 1) A (fun l => (x.a 2 l).toNat) zero tg))
  ∧ (go [(c, false)] { rv := [v.toNat], wv := [v.toNat] } → room .l → x.reaches .atomic 4 A tg → exec (.acas g m v base off c) s
      = .next (x.left { op .l (.atomic .cas) 4 with dst := [x.u.phys v.toNat] } A (fun l => (x.u.lg.vAt (x.u.phys v.toNat) l).toNat)
          (fun l => (x.a 2 l).toNat) tg))
  ∧ (∀ i n, (i, n) ∈ [(Instr.acas64 g m v base off vc, 2), (.acas128 g m v base off vc, 4)] →
    go [] { rv := natsFrom v.toNat n ++ natsFrom vc.toNat n, wv := natsFrom v.toNat n } → room .l → x.reaches .atomic (4 * n) A tg →
    exec i s = .next (x.left { op .l (.atomic .cas) (4 * n) with dst := (natsFrom v.toNat n).map x.u.phys } A
      (x.u.regsAt v.toNat n) (x.u.regsAt vc.toNat n) tg))
  ∧ (let o := fun l => A l % 2 ^ 32
    let P := fun l => x.u.pbase x.u.lc.part x.u.focus.h x.u.focus.t + o l / 4 * 128 + 4 * l + o l % 4
    let inside : Prop := ∀ l ∈ lanesOf x.w.ex, o l < x.u.psize x.u.lc.part
    (LaneGo s g false false [(base, false), (off, false)] { wv := dstCodes d 1 } x → room .l → inside → x.reaches .read 4 P tg →
      exec (.ldp g m d base off) s = .next (x.left (into { op .l (.priv false) 4 with scope := 0 } 1) P zero zero tg))
    ∧ (LaneGo s g false false [(base, false), (off, false), (c, false)] {} x → room .s → inside → x.reaches .write 4 P tg →
      exec (.stp g m base off c) s = .next (x.left { op .s (.priv true) 4 with scope := 0 } P (fun l => (x.a 2 l).toNat) zero tg)))
  ∧ (let xl := fun l => x.u.reach x.u.focus.h x.u.lc.part (A l) .read
    let lost := fun l => xl l = .miss ∧ x.u.lg.nopage.any (fun q => q.va / 4096 == A l / 4096) = false
    go [] {} → x.u.lg.xfs = [] →
    ((∀ l ∈ lanesOf x.w.ex, ¬ lost l) → ∃ u, exec (.pref g m base off) s = .next (x.issued u) ∧ u.mem = x.u.mem ∧ u.l1 = x.u.l1 ∧ u.groups = x.u.groups
      ∧ (∀ l ∈ lanesOf x.w.ex, ∀ t, xl l = .ok t → t.external = false → x.u.l1Find x.u.focus.h t = none →
          ∃ q ∈ u.reqs, q.kind = .rd ∧ q.tgt = t.atomBase ∧ q.who = .nobody)
      ∧ ((∀ l ∈ lanesOf x.w.ex, ∀ t, xl l ≠ .ok t) → u = x.u))
    ∧ (∀ l0 ∈ lanesOf x.w.ex, lost l0 → (∀ l ∈ lanesOf x.w.ex, l < l0 → ¬ lost l) → x.u.lg.walking = false →
      exec (.pref g m base off) s = .next (((x.u.askWalk x.u.focus.h x.u.lc.part (A l0) .read (.group x.u.focus.h x.u.focus.t)).onLg
        (fun g => { g with walking := true })).stall 0x09))))
  ∧ (∀ (s : State) (w : Lw) (o : LaneOp) (acc : Acc) (a : LaneArgs) (l0 : Nat),
  let ls := lanesOf w.ex
  let mask (p : Nat → Bool) : Nat := ((ls.filter p).map (fun l => 2 ^ l)).sum
  let mis (l : Nat) : Bool := a.va l % o.width != 0
  let go := laneAccess w o acc (fun _ => none) a s
  let xl (l : Nat) : Xl := s.reach s.focus.h s.lc.part (a.va l) acc
  s.lg.unfinished = none → s.lg.xfs = [] →
  ((ls.filter mis).head? = some l0 → go = .trap { cause := 0x0D, mask := mask mis, d8 := a.va l0 } s)
  ∧ ((∀ l ∈ ls, mis l = false) →
    (∀ c, (∀ l ∈ ls, (∃ t, xl l = .ok t) ∨ ∃ u, xl l = .bad c u) → ∀ u, xl l0 = .bad c u → l0 ∈ ls → (∀ l ∈ ls, l < l0 → ∃ t, xl l = .ok t) →
      go = .trap { cause := c, sub := u, mask := mask (fun l => match xl l with | .bad .. => true | _ => false), d8 := a.va l0 } s)
    ∧ (l0 ∈ ls → xl l0 = .miss → (∀ l ∈ ls, l < l0 → xl l ≠ .miss) → s.lg.nopage = [] → s.lg.walking = false →
        go = .wait (((s.askWalk s.focus.h s.lc.part (a.va l0) acc (.group s.focus.h s.focus.t)).onLg
          (fun g => { g with walking := true })).stall 0x09))
    ∧ (∀ tg : Nat → Tgt, l0 ∈ ls → xl l0 = .miss → (∀ l ∈ ls, xl l = .ok (tg l) ∨ (xl l = .miss ∧ s.lg.nopage.any (fun q => q.va / 4096 == a.va l / 4096) = true)) →
        (∀ l ∈ ls, s.watchHit s.lc.part s.focus.h s.focus.t (a.va l) o.width (acc != .write) (acc != .read) s.lg.suppress = none) →
        ∃ t, go = .wait t ∧ t.lg.fault = some (s.part s.lc.part).token ∧ t.lg.unfinished = some (BitVec.ofNat 32 (mask (fun l => xl l == .miss)))
          ∧ (t.part s.lc.part).faults.length = (s.part s.lc.part).faults.length + 1
          ∧ (∃ n, t.lg.ops.getLast? = some n ∧ n.acc.map (fun c => (c.lane, c.va, c.ready)) = ls.map (fun l => (l, a.va l, xl l != .miss))))))

/-- R60, R133, R156, R213, R214, R217, R220, R221, R305: an outstanding operation with nothing of its group before it, all of whose lanes but one
have been performed, completes when the answer for that one has come: a load or atomic gives the lanes their values (sign-extended where the word
says), a pair or quad its low word first; an oq takes one entry when it has room, in the order of issue; a store or atomic off the L1 leaves
nothing else; at H scope on device memory it is made in the L1's copy. The operation leaves its class's count.
What the model settles itself: free values and orders (log 5), the order of a group's accesses (log 23), when side results take place (log 24) and an
oq element pushed at issue (log 41). -/
def Obligations.LaneAccessesComplete : Prop := ∀ (s : State) (h g : Nat) (o : LaneOp) (rest : List LaneOp) (a b : List LaneAcc) (c : LaneAcc) (v : Nat),
  let k := ckey h g
  let gr := s.group k
  let o' : LaneOp := { o with acc := a ++ { c with val := v } :: b }
  let ready := gr.ops = o :: rest ∧ (∀ p ∈ rest, o.id < p.id) ∧ o.done = false ∧ o.acc = a ++ c :: b ∧ (o.acc.map (·.lane)).Nodup
    ∧ (∀ d ∈ a ++ b, d.done = true ∧ d.ready = true ∧ d.bad = none) ∧ c.ready = true ∧ c.done = false ∧ c.bad = none ∧ c.again = false
    ∧ max gr.pts (s.localGcc h) ≤ s.localGcc h + 64
  let answered (val : Got → Nat) : Prop := ∃ q, c.x.got = some q ∧ q.ok = true ∧ v = val q
  let load (q : Got) : Nat := natOfBytes (if c.tgt.external then q.data.take o.width else (q.data.drop (tgtOff c.tgt)).take o.width)
  let lands (t : State) : Prop := (∀ i ph, o.dst[i]? = some ph → o.dst.Nodup → ∀ e ∈ o'.acc, e.lane < 32 → (t.group k).vAt ph e.lane = loadWord o e.val i)
    ∧ (∀ ph l, l < 32 → (∀ e ∈ o'.acc, e.lane < 32) → (ph ∉ o.dst ∨ l ∉ o.acc.map (·.lane)) → (t.group k).vAt ph l = gr.vAt ph l) ∧ t.mem = s.mem
  (ready → o.cls = .l → o.oq = none → ((∃ sgn, o.kind = .load sgn) ∨ o.kind = .priv false) → answered load →
    ∃ t, exec (.laneLoadComplete h g o.id) s = .next t ∧ lands t ∧ (t.group k).ops = retireOps [] rest)
  ∧ (ready → o.cls = .l → o.oq = none → (∃ at_, o.kind = .atomic at_) → l1Only c.tgt o.scope = false → answered (fun q => q.val) →
    ∃ t, exec (.laneLoadComplete h g o.id) s = .next t ∧ lands t ∧ (t.group k).ops = retireOps [] rest)
  ∧ (∀ n, ready → o.cls = .l → o.oq = some n → o.dst = [] → (∃ sgn, o.kind = .load sgn) → answered load → (Map.get [] gr.oq n).length < 16 →
    ∃ t, exec (.laneLoadComplete h g o.id) s = .next t ∧ Map.get [] (t.group k).oq n = Map.get [] gr.oq n ++ [o'.entry]
      ∧ (t.group k).ops = retireOps [] rest)
  ∧ (∀ n, ready → o.cls = .l → o.oq = some n → o.dst = [] → (∃ sgn, o.kind = .load sgn) → answered load → 16 ≤ (Map.get [] gr.oq n).length →
    ∃ t, exec (.laneLoadComplete h g o.id) s = .next t ∧ (t.group k).oq = gr.oq ∧ (t.group k).ops.length = gr.ops.length)
  ∧ (∀ n, gr.ops = o :: rest → (∀ p ∈ rest, o.id < p.id) → o.done = false → o.oq = some n → (∀ e ∈ o.acc, e.done = true ∧ e.ready = false) →
      (Map.get [] gr.oq n).length < 16 → ∃ t, exec (.oqLoadPush h g o.id) s = .next t
        ∧ Map.get [] (t.group k).oq n = Map.get [] gr.oq n ++ [o.entry] ∧ (t.group k).ops = retireOps [] rest ∧ (t.group k).v = gr.v)
  ∧ (ready → o.cls = .s → o.oq = none → o.dst = [] → o.kind = .store → l1Only c.tgt o.scope = false → (∃ q, c.x.got = some q ∧ q.ok = true) →
    ∃ t, exec (.laneStoreComplete h g o.id) s = .next t ∧ (t.group k).ops = retireOps [] rest ∧ (t.group k).v = gr.v ∧ t.mem = s.mem)
  ∧ (∀ e, ready → o.cls = .s → o.oq = none → o.dst = [] → o.kind = .store → l1Only c.tgt o.scope = true → c.x = {} → (s.ctx k).trapped = none → (s.ctx k).st ≠ .killing →
      s.l1Owner h c.tgt = h →
      s.aliasWait h g o.pos o.acls c.va o.width true = false → s.l1Find h c.tgt = some e →
      (2 ^ o.width - 1) * 2 ^ tgtOff c.tgt &&& e.dirty = (2 ^ o.width - 1) * 2 ^ tgtOff c.tgt →
    ∃ t, exec (.laneStoreComplete h g o.id) s = .next t ∧ (t.group k).ops = retireOps [] rest ∧ (t.group k).v = gr.v ∧ t.mem = s.mem
      ∧ (t.l1Find h c.tgt).map (·.data) = some (patch e.data (tgtOff c.tgt) (bytesOf c.a o.width)))

/-- R56, R57, R60, R76, R156, R211, R216, R217: LDS and STS of an executing lane that is misaligned trap with 0x0D, outside the scratchpad (or in
the upper half of the exchange window) with 0x0C subcause 1; otherwise LDS gives the 4 bytes after 24 cycles, STS writes them (one executing lane,
or lanes with different words), both as they issue (log 109); both wait for bytes that an earlier MSCAT has still to store (the model's reading of R303:
log 94) and for a row that is being copied; an LDS that meets bytes that cannot be read writes no lane and leaves its register uncorrectable, or traps
with 0x0F where it names none (log 66). STX of a target
that the partition or its window does not allow traps the same way; otherwise it leaves one operation with an exchange write for each executing
lane, which sets out behind the earlier ones, and whose arrival writes the shadow half, or is refused, the answer going back by the same route.
What the model settles itself: free values and orders (log 5) and an oq element pushed at issue (log 41). -/
def Obligations.ScratchpadWords : Prop := ∀ (s : State) (x : Issue) (g : Guard) (m : Lm) (d : Dst) (a b c : Src),
  let A := fun l => (x.addr m l).toNat % 2 ^ 32
  let ls := lanesOf x.w.ex
  let hh := x.u.hearth x.u.focus.h
  let place (l : Nat) : Nat := (hh.padAddr (A l)).getD 0
  let inside := ∀ l ∈ ls, A l % 4 = 0 ∧ (hh.padAddr (A l)).isSome = true
  let lds := LaneGo s g true false [(a, false), (b, false)] { wv := dstCodes d 1, lat := 24 } x ∧ oqFull d x.w x.u = none
  let sts := LaneGo s g true false [(a, false), (b, false), (c, false)] {} x
  let stx := LaneGo s g false false [(a, false), (b, false), (c, false)] {} x ∧ x.u.lg.outstanding .s < 64
  let mask (bad : Nat → Bool) : Nat := ((ls.filter bad).map (fun l => 2 ^ l)).sum
  let traps (i : Instr) (cause : Nat) (bad : Nat → Bool) (at_ : Nat → Nat) : Prop := ∀ l0, (ls.filter bad).head? = some l0 →
    exec i s = .next (laneTrap x.w.ex { cause := cause, sub := if cause = 0x0C then 1 else 0, mask := mask bad, d8 := at_ l0 } x.u)
  let mis (at_ : Nat → Nat) (l : Nat) : Bool := at_ l % 4 != 0
  let out (l : Nat) : Bool := (hh.padAddr (A l)).isNone
  let free := x.u.scatters A x.w = false ∧ x.u.rowHeld x.u.focus.h true (ls.map place) = false
  let sour (l : Nat) : Bool := hh.padBad (place l) 4
  let asks (u : State) : State := u.modHearth x.u.focus.h (fun hh => hh.bankAsk x.u.focus.t (ls.map place))
  let held : Res := .next (if x.u.lb.phase.isSome then phaseTrap x.w.ex 9 (x.u.stall 0x0B) else x.u.stall 0x0B)
  (lds → traps (.lds g m d a b) 0x0D (mis A) A) ∧ (sts → traps (.sts g m a b c) 0x0D (mis A) A)
  ∧ (lds → (∀ l ∈ ls, A l % 4 = 0) → traps (.lds g m d a b) 0x0C out A) ∧ (sts → (∀ l ∈ ls, A l % 4 = 0) → traps (.sts g m a b c) 0x0C out A)
  ∧ (lds → inside → ¬ free → exec (.lds g m d a b) s = held) ∧ (sts → inside → ¬ free → exec (.sts g m a b c) s = held)
  ∧ (lds → inside → free → (∀ l ∈ ls, sour l = false) → exec (.lds g m d a b) s
      = .next (x.issued (writeResult d false 24 x.w (fun l => BitVec.ofNat 64 (hh.padNum (place l) 4)) 0 (asks x.u))))
  ∧ (∀ l0, lds → inside → free → (ls.filter sour).head? = some l0 →
      (dstCodes d 1 = [] → exec (.lds g m d a b) s = .next (laneTrap x.w.ex { cause := 0x0F, mask := mask sour, d8 := A l0 } (asks x.u)))
      ∧ (∀ i, d = .v i → ∃ u, exec (.lds g m d a b) s = .next (x.issued u) ∧ u.lg.pend = x.u.lg.pend ∧ u.lg.v = x.u.lg.v ∧ u.mem = x.u.mem
        ∧ ∃ q ∈ u.lg.poisoned, q.phys = x.u.phys i.toNat ∧ q.f.cause = 0x0F ∧ q.f.va = A l0))
  ∧ (sts → inside → free → ls.Pairwise (fun i j => place i + 4 ≤ place j ∨ place j + 4 ≤ place i) →
      ∃ u, exec (.sts g m a b c) s = .next (x.issued u) ∧ u.mem = x.u.mem
      ∧ u.lg = { x.u.lg with ops := u.lg.ops } ∧ u.lg.ops.map (fun o => { o with keep := [] }) = x.u.lg.ops.map (fun o => { o with keep := [] })
      ∧ (∀ l ∈ ls, (u.hearth x.u.focus.h).padNum (place l) 4 = (x.a 2 l).toNat)
      ∧ (∀ p, (∀ l ∈ ls, p < place l ∨ place l + 4 ≤ p) → Map.get 0 (u.hearth x.u.focus.h).pad p = Map.get 0 hh.pad p)
      ∧ (∀ h, h ≠ x.u.focus.h → u.hearth h = x.u.hearth h))
  ∧ (let o := fun l => (BitVec.ofInt 32 ((if m.sx then (x.a 1 l).toInt else (x.a 1 l).toNat) * 2 ^ m.shift.toNat + m.imm.toInt)).toNat
    let tg := fun l => (x.a 0 l).toNat % 256
    let bad (l : Nat) : Bool := x.u.badXTarget x.u.focus.h x.u.lc.part (tg l) (o l) 4
    (stx → traps (.stx g m a b c) 0x0D (mis o) o)
    ∧ (stx → (∀ l ∈ ls, o l % 4 = 0) → traps (.stx g m a b c) 0x0C bad o)
    ∧ (stx → (∀ l ∈ ls, o l % 4 = 0 ∧ bad l = false) → exec (.stx g m a b c) s = .next (x.issued ((x.u.addOp
      { cls := .s, kind := .stx, done := x.w.ex == 0, acc := ls.map (fun l => { lane := l, va := o l, a := tg l, b := (x.a 2 l).toNat, ready := true }) }).onLg Group.retire))))
  ∧ (∀ h k o y, (s.group (ckey h k)).ops = [o] → o.kind = .stx → o.cls = .s → o.done = false → o.acc = [y] → y.ready = true → y.done = false →
      y.again = false → y.x = {} → (s.ctx (ckey h k)).trapped = none → (s.ctx (ckey h k)).st ≠ .killing → s.cmdWait h k o.pos [1] winSpan = false →
      ∃ t, exec (.laneStoreComplete h k o.id) s = .next t ∧ t.mem = s.mem ∧ t.hearths = s.hearths
        ∧ t.stxs = s.stxs ++ [{ t := y.a, o := y.va, src := h, v := BitVec.ofNat 32 y.b, who := .lane h k o.id y.lane, due := s.gcc + transit (stopOf h) (.hearth y.a) }])
  ∧ (∀ n q, s.stxs[n]? = some q → (s.gcc < q.due → exec (.stxArrive n) s = .next s)
      ∧ (∀ g, q.due ≤ s.gcc → q.ack = some g → exec (.stxArrive n) s = .next (State.deliver { s with stxs := dropAt s.stxs n } q.who g))
      ∧ (q.due ≤ s.gcc → q.ack = none → (∀ e ∈ s.stxs.take n, e.ack = none → ¬ (e.t = q.t ∧ e.o = q.o ∧ e.src = q.src)) →
        let back (g : Got) : Stx := { q with ack := some g, due := s.gcc + transit (.hearth q.t) (stopOf q.src) }
        (∀ y, (s.hearth q.t).xwin = some y → s.rowHeld q.t true [y.shadowAddr q.o] = false → q.o + 4 ≤ y.size / 2 →
          ∃ u, exec (.stxArrive n) s = .next u ∧ u.stxs[n]? = some (back { ok := true }) ∧ u.stxs.length = s.stxs.length ∧ u.mem = s.mem
          ∧ (u.hearth q.t).padNum (y.shadowAddr q.o) 4 = q.v.toNat
          ∧ ∀ p, (p < y.shadowAddr q.o ∨ y.shadowAddr q.o + 4 ≤ p) → Map.get 0 (u.hearth q.t).pad p = Map.get 0 (s.hearth q.t).pad p)
        ∧ ((∀ y, (s.hearth q.t).xwin = some y → s.rowHeld q.t true [y.shadowAddr q.o] = false ∧ y.size / 2 < q.o + 4) →
          ∃ u, exec (.stxArrive n) s = .next u ∧ u.stxs[n]? = some (back { ok := false, cause := 0x0C, sub := 1 }) ∧ u.hearths = s.hearths ∧ u.mem = s.mem)))

/-- R67, R213, R232-R235: WAIT issues once each class that it names holds no more operations than its field, whatever its guard, and traps on an
uncorrectable load or a refused store that it covers; FENCE, once no L or S operation is outstanding, reports a refused store, issues at H scope, and at D or S scope
once the dirty atoms have been written back, the group's timestamp following them (and host and peer accesses acknowledged, for S). NBARRIVE asks for one arrival when a lane
executes, which is performed once the group's earlier stores have been, and those at H scope written back, and
NBWAIT passes a barrier that is not armed, joins the waiters of one that is, and issues when it is released.
R38, R39, R49, R137, R138, R225, R237, R238: EXIT takes the executing lanes out of the block's mask for good; BRK traps in a lane that
executes it and otherwise issues; TMARK marks a traced task; an unassigned word is an encoding trap
with the lanes of its G field; PRET holds its ballot as an entry with the
block's sequence number, slot and generation, traps when the generation has passed, at the word or at the push, and the entry enters the PRQ behind the group's earlier stores,
two cycles later at the earliest.
What the model settles itself: when side results take place (log 24) and corners of PRET (log 101). -/
def Obligations.LaneWaitAndSystemWords : Prop :=
  (∀ (s : State) (x : Issue) (g : Guard) (l st c t n : BitVec 4) (scope : BitVec 2),
  let u := x.u
  let below (f : BitVec 4) (k : Nat) : Prop := f = 15#4 ∨ k ≤ f.toNat
  let may := below l (u.lg.outstanding .l) ∧ below st (u.lg.outstanding .s) ∧ below c u.classC ∧ below t (u.lg.outstanding .t)
  let held : State := if u.lb.phase.isSome then phaseTrap x.w.ex 9 (u.stall 0x08) else u.stall 0x08
  let go (always : Bool) : Prop := LaneGo s g false always [] {} x
  let idle := u.lg.outstanding .l = 0 ∧ u.lg.outstanding .s = 0
  let covered (q : Poison) : Prop := l ≠ 15#4 ∧ l.toNat + q.no + 1 ≤ Map.get 0 u.lg.issued 0
  let nb := Map.get {} u.lc.nb n.toNat
  let stamped := u.onLg (fun y => { y with pts := max y.pts (u.wbStamp u.focus.h) })
  (go true → ¬ may → exec (.wait g l st c t) s = .next held)
  ∧ (go true → may → u.lg.poisoned = [] → u.lg.refused = [] → exec (.wait g l st c t) s = .next (x.issued u))
  ∧ (∀ q, go true → may → u.lg.poisoned = [q] → covered q → q.f.cause ≠ 0x07 → exec (.wait g l st c t) s = .next (laneTrap x.w.ex (poisonTrap q) u))
  ∧ (∀ q, go true → may → u.lg.poisoned = [] → u.lg.refused = [q] → st ≠ 15#4 → st.toNat + q.1 + 1 ≤ Map.get 0 u.lg.issued 1 → q.2.cause ≠ 0x07 →
      exec (.wait g l st c t) s = .next (laneTrap x.w.ex { cause := q.2.cause, sub := q.2.sub, d8 := q.2.va } u))
  ∧ (go false → ¬ idle → exec (.fence g scope) s = .next held)
  ∧ (go false → idle → u.lg.refused = [] → scope = 0#2 → exec (.fence g scope) s = .next (x.issued u))
  ∧ (∀ q r, go false → idle → u.lg.refused = q :: r → (q.2.cause = 0x0C ∨ scope = 2#2) → q.2.cause ≠ 0x07 → exec (.fence g scope) s
      = .next (laneTrap x.w.ex { cause := q.2.cause, sub := q.2.sub, d8 := q.2.va } u))
  ∧ (∀ w, go false → idle → u.lg.refused = [] → scope ≠ 0#2 → u.lg.wait = some w → w.a = 1 → (∀ h ∈ u.l1Hearths u.focus.h, u.flushed h = true) →
      (scope = 2#2 → u.extQuiet u.lk = true ∧ stamped.lg.pts + 8 ≤ u.localGcc u.focus.h) → exec (.fence g scope) s = .next (x.issued stamped))
  ∧ (go false → x.w.ex = 0 → exec (.nbarriveLane g n) s = .next (x.issued u) ∧ exec (.nbwaitLane g n) s = .next (x.issued u))
  ∧ (go false → x.w.ex ≠ 0 → nb.st ≠ .armed → exec (.nbarriveLane g n) s = .next (laneTrap x.w.ex { cause := 0x0C, sub := 4 } u))
  ∧ (go false → x.w.ex ≠ 0 → nb.st = .armed → exec (.nbarriveLane g n) s = .next (x.issued ((u.onLg
      (fun y => { y with nbArr := y.nbArr ++ [{ n := n.toNat, ops := y.nextOp }] })).nbArrivals u.focus.h u.focus.t)))
  ∧ (∀ h k a, (s.group (ckey h k)).nbArr = [a] →
      (a.sent = false → (s.group (ckey h k)).storesBefore a.ops = false → (s.nbArrivals h k).group (ckey h k) = s.group (ckey h k))
      ∧ (a.sent = true → (∀ i ∈ s.l1Hearths h, s.flushed i = true) → s.nbArrivals h k
        = (s.modGroup (ckey h k) (fun y => { y with nbArr := [], pts := max y.pts (s.wbStamp h) })).nbArrive (ckey h k) a.n))
  ∧ (go false → x.w.ex ≠ 0 → u.lg.wait = none → nb.st ≠ .armed → exec (.nbwaitLane g n) s = .next (x.issued u))
  ∧ (go false → x.w.ex ≠ 0 → u.lg.wait = none → nb.st = .armed → u.lb.phase = none → ∃ v, exec (.nbwaitLane g n) s = .next v
      ∧ Map.get {} v.lc.nb n.toNat = { nb with waiters := nb.waiters ++ [.group u.focus.h u.focus.t] } ∧ v.lg.blk = u.lg.blk
      ∧ v.lg.wait = some { kind := .nbwait, since := u.gcc })
  ∧ (∀ w, go false → x.w.ex ≠ 0 → u.lg.wait = some w → w.kind = .nbwait → w.a = 1 → exec (.nbwaitLane g n) s
      = .next (x.issued (u.onLg (fun y => { y with pts := max y.pts (u.taskPts u.focus.h u.focus.t) })))))
  ∧ (∀ (s : State) (x : Issue) (g : Guard) (code : BitVec 16) (p : BitVec 3) (tag : BitVec 8) (wd : BitVec 64),
  let u := x.u
  let go (inPhase : Bool) : Prop := LaneGo s g inPhase false [] {} x
  let b := u.lb
  let pret := LaneGo s g false false [(.p p, false)] {} x ∧ u.lc.prq.length + u.lg.prets.length < 64
  let ballot := ((lanesOf x.w.ex).map (fun l => boolNat ((valAt x.vs 0 l).getLsbD 0) * 2 ^ l)).sum
  (go false → exec (.exit g) s = .next (x.issued (u.onLg (fun y => { y with exited := y.exited ||| x.w.ex }))))
  ∧ (go false → x.w.ex = 0 → exec (.brk g code) s = .next (x.issued u))
  ∧ (go false → x.w.ex ≠ 0 → exec (.brk g code) s = .next (laneTrap x.w.ex { cause := 0x17, d8 := code.toNat } u))
  ∧ (go true → u.lc.trace.on = false → exec (.tmarkLane g code) s = .next (x.issued u))
  ∧ (go true → u.lc.trace.on = true → ∃ v, exec (.tmarkLane g code) s = .next (x.issued v) ∧ v.groups = u.groups ∧ v.hearths = u.hearths
      ∧ (v.lc.trace.head ≠ u.lc.trace.head ∨ v.lc.trace.lost ≠ u.lc.trace.lost))
  ∧ (LaneGo s (guardOf (laneFields wd).g) true true [] {} x → exec (.unassignedLaneOpcode wd) s = .next (laneTrap x.w.ex { cause := 0x01 } u))
  ∧ (pret → Map.get 0 u.lc.gens b.slot ≠ b.gen → exec (.pret g p tag) s = .next (laneTrap x.w.ex { cause := 0x11 } u))
  ∧ (pret → Map.get 0 u.lc.gens b.slot = b.gen → exec (.pret g p tag) s = .next (x.issued (u.onLg (fun y => { y with prets := y.prets ++
      [{ e := { w := BitVec.ofNat 64 (2 ^ 63 + tag.toNat * 2 ^ 48 + b.seq * 2 ^ 32 + ballot), slot := b.slot, gen := b.gen }
         notBefore := u.gcc + 2, ops := y.nextOp, pos := blkPos b, mask := x.w.ex.toNat }] }))))
  ∧ (∀ h k e r, (s.group (ckey h k)).prets = e :: r →
      ((s.gcc < e.notBefore ∨ (s.group (ckey h k)).storesBefore e.ops = false ∨ 64 ≤ (s.ctx (ckey h k)).prq.length) → exec (.prqPush h k) s = .next s)
      ∧ (e.notBefore ≤ s.gcc → (s.group (ckey h k)).storesBefore e.ops = true → (s.ctx (ckey h k)).prq.length < 64 →
        Map.get 0 (s.ctx (ckey h k)).gens e.e.slot ≠ e.e.gen → exec (.prqPush h k) s
        = .next ((s.modGroup (ckey h k) (fun y => { y with prets := r })).takeTrap h k
            { cause := 0x11, agent := 1, slot := e.e.slot, pos := some e.pos, mask := e.mask, who := .group h k }))
      ∧ (e.notBefore ≤ s.gcc → (s.group (ckey h k)).storesBefore e.ops = true → (s.ctx (ckey h k)).prq.length < 64 →
        Map.get 0 (s.ctx (ckey h k)).gens e.e.slot = e.e.gen → exec (.prqPush h k) s
        = .next ((s.modGroup (ckey h k) (fun y => { y with prets := r })).modCtx (ckey h k) (fun y => { y with prq := y.prq ++ [e.e] })))))

/-- R248-R252: MMA, MZERO, MWR and MSCAT with no executing lane are one class-T count that completes at once. An MMA whose lanes name different
format words traps with 0x03, an invalid one with 0x01, a misaligned row or tile with 0x0D, one out of range with 0x0C, every alignment before any
range, with the mask of R249 (all executing lanes, and the offset in word 8, when the tile offset fails); in version mode it waits for its version;
a VMODE bears only on MMAs of later cycles; otherwise it leaves one tile operation with the rows of its lanes and the exchange window of its issue. The feeder reads
the rows of one tile at a time: of the two oldest MMAs of a quarter that are not complete it takes the oldest whose rows it does not hold, asks the banks for their 16-byte units,
and holds them when every bank has served it (R15, R17; that short rows take less than the 48 cycles of a whole buffer is the model's choice, log 117). The other words leave theirs; MSCAT's addresses are checked as MMA's rows.
What the model settles itself: what is one bank access (log 93) and executing lanes in the record (log 100). -/
def Obligations.TileWords : Prop := ∀ (s : State) (x : Issue) (g : Guard) (bank : BitVec 2) (fmt idx : BitVec 7) (k : BitVec 4) (ver : BitVec 16)
    (a : Src) (rm : Rm) (f : AccFmt) (col : BitVec 5) (l0 : Nat),
  let ls := lanesOf x.w.ex
  let put (t : TileK) (lanes : List (Nat × Word)) : State := (x.u.addOp
    { cls := .t, tile := some t, bank := bank.toNat, lanes := lanes, z := x.w.z, done := x.w.ex == 0, xw := (x.u.hearth x.u.focus.h).xwin }).onLg Group.retire
  let left (t : TileK) (lanes : List (Nat × Word)) : Res := .next (x.issued (put t lanes))
  let mask (p : Nat → Bool) : Nat := ((ls.filter p).map (fun l => 2 ^ l)).sum
  let trap (cause sub m d8 : Nat) : Res := .next (laneTrap x.w.ex { cause := cause, sub := sub, mask := m, d8 := d8 } x.u)
  let hh := x.u.hearth x.u.focus.h
  let go (srcs : List Src) : Prop := LaneGo s g false false (srcs.map (fun r => (r, false))) {} x ∧ tileFull x.u = none
  let mma : Res := exec (.mma g bank fmt idx k ver) s
  let F := (x.a 0 l0).toNat
  let row := fun l => (x.a 1 l).toNat
  let o := (Map.get 0 x.u.lg.k k.toNat).toNat
  let nA := (fmtHalf F 0).span
  let nB := (fmtHalf F 1).span
  let same := ∀ l ∈ ls, (x.a 0 l).toNat = F
  let aligned := (∀ l ∈ ls, row l % 16 = 0) ∧ o % 16 = 0
  let inside := (∀ l ∈ ls, hh.padOk (row l) nA = true) ∧ o + nB ≤ 2 ^ 19
  let e0 := x.u.eng (qkey x.u.focus.h x.u.focus.t 0)
  let waits := (if e0.vmodeAt = x.u.gcc + 1 then e0.vmodeWas else e0.vmode) = true ∧ x.u.lg.verOf bank.toNat ≠ ver.toNat
  (go [.v fmt, .v idx] → ls = [] → mma = left (.mma 0 0) [])
  ∧ (go [.v fmt, .v idx] → ls.head? = some l0 →
    (¬ same → mma = trap 0x03 0 (mask (fun l => (x.a 0 l).toNat != F)) 0)
    ∧ (same → fmtValid F = false → mma = trap 0x01 0 x.w.ex.toNat 0)
    ∧ (same → fmtValid F = true →
      (o % 16 ≠ 0 → mma = trap 0x0D 0 (mask (fun _ => true)) o)
      ∧ (∀ l1, o % 16 = 0 → (ls.filter (fun l => row l % 16 != 0)).head? = some l1 → mma = trap 0x0D 0 (mask (fun l => row l % 16 != 0)) (row l1))
      ∧ (aligned → 2 ^ 19 < o + nB → mma = trap 0x0C 1 (mask (fun _ => true)) o)
      ∧ (∀ l1, aligned → o + nB ≤ 2 ^ 19 → (ls.filter (fun l => !hh.padOk (row l) nA)).head? = some l1 →
          mma = trap 0x0C 1 (mask (fun l => !hh.padOk (row l) nA)) (row l1))
      ∧ (aligned → inside → waits → x.u.lb.phase = none → ∃ v, mma = .next v ∧ v.lg.blk = x.u.lg.blk ∧ v.lg.ops = x.u.lg.ops ∧ v.mem = x.u.mem
          ∧ ∃ w, v.lg.wait = some w ∧ w.kind = .version)
      ∧ (aligned → inside → ¬ waits → mma = left (.mma F o) (ls.map (fun l => (l, x.a 1 l))))))
  ∧ (∀ (u : State) (h j : Nat),
      let hq := u.hearth h
      let rowsOf (o : LaneOp) : List (Nat × Nat) := match o.tile with
        | some (.mma f _) => o.lanes.map (fun l => ((({ hq with xwin := o.xw } : Hearth).padAddr l.2.toNat).getD 0, (fmtHalf f 0).span))
        | _ => []
      let fed (j id : Nat) : State := u.modGroup (ckey h j) (fun gr => { gr with ops := gr.ops.map (fun p => if p.id = id then { p with fed := true } else p) })
      let two := ((u.group (ckey h j)).ops.filter (fun o => o.cls == .t && !o.done && (match o.tile with | some (.mma ..) => true | _ => false))).take 2
      (∀ b id, hq.feeding = some (b, id) → hq.asking 7 = true → u.feedStep h j = u)
      ∧ (∀ b id, hq.feeding = some (b, id) → hq.asking 7 = false →
          u.feedStep h j = ((fed b id).modHearth h (fun hh => { hh with feeding := none })).feedStep h j)
      ∧ (hq.feeding = none → (∀ o ∈ two, o.fed = true) → u.feedStep h j = u)
      ∧ (∀ o, hq.feeding = none → two.find? (fun o => !o.fed) = some o →
          (Map.find? hq.feed j = some (rowsOf o) → u.feedStep h j = fed j o.id)
          ∧ (Map.find? hq.feed j ≠ some (rowsOf o) → u.feedStep h j = u.modHearth h (fun hh =>
              ({ hh with feed := Map.put hh.feed j (rowsOf o), feeding := some (j, o.id) } : Hearth).bankAsk 7 (rowUnits (rowsOf o))))))
  ∧ (go [] → exec (.mzero g bank) s = left .mzero (ls.map (fun l => (l, 0))))
  ∧ (go [a] → exec (.mwr g a bank col) s = left (.mwr col.toNat) (ls.map (fun l => (l, x.a 0 l))))
  ∧ (let at_ := fun l => (valAt x.vs 0 l).toNat
    let n := if f = .f32 then 128 else 64
    let mscat : Res := exec (.mscat g rm a bank f) s
    (∀ l1, go [a] → (ls.filter (fun l => at_ l % 16 != 0)).head? = some l1 → mscat = trap 0x0D 0 (mask (fun l => at_ l % 16 != 0)) (at_ l1))
    ∧ (∀ l1, go [a] → (∀ l ∈ ls, at_ l % 16 = 0) → (ls.filter (fun l => !hh.padOk (at_ l) n)).head? = some l1 →
        mscat = trap 0x0C 1 (mask (fun l => !hh.padOk (at_ l) n)) (at_ l1))
    ∧ (go [a] → (∀ l ∈ ls, at_ l % 16 = 0 ∧ hh.padOk (at_ l) n = true) → mscat = left (.mscat rm f) (ls.map (fun l => (l, x.a 0 l)))))

/-- R15, R94-R96, R250-R253: when the feeder has been moved on, the oldest tile operation of a group starts when none is in progress, no earlier command on its bank (or, an MMA, an
earlier BLOADB) is unfinished, its rows, if an MMA's, are in the feeder, and no row of its operands is being copied to a spare; an MSCAT asks the banks for its stores. It holds the quarter for KRD_A * KRD_B cycles, 8 for the 16-bit families, 1 for MZERO and MWR, 2 or 4 for MSCAT; then
its lanes' cells take their new values (one MMA step on the A row, as the STSs before it left it, and the B column, 0, the value given), or the scratchpad the narrowed cells, no
other cell or byte changes, the bank's version rises (not for MSCAT, not without lanes), and the operation leaves its count; addresses are mapped
by the window of its issue. An MMA one of whose operands cannot be read ends without a cell and traps with 0x0F (R417, R439; the agent code and the offset are the model's, log 66).
One MMA step on a cell: the BPI families add the exact sum over 384 elements, scaled by 2^(ea + eb - 254) and read as an infinity outside FP32, to the accumulator in one rounding;
BF16 and FP16 add 24 exact products in one rounding (R94, R95; log 28 has the OF of that infinity as the model's choice).
What the model settles itself: free values and orders (log 5) and what is one bank access (log 93). -/
def Obligations.TileOperations : Prop := ∀ (s : State) (h g : Nat) (o : LaneOp) (rest : List LaneOp),
  let k := ckey h g
  let gr := s.group k
  let hh := s.hearth h
  let fs := s.feedStep h g
  let under (q : Hearth) : Hearth := { q with xwin := o.xw }
  let unfed : Prop := o.tile.any (fun z => match z with | .mma .. => true | _ => false) = true ∧ o.fed = false
  let time : Nat := match o.tile with
    | some (.mma f _) => if f / 2 ^ 8 % 16 = 0 then (f / 2 ^ 4 % 16) * (f / 2 ^ 20 % 16) else 8
    | some (.mscat _ .f32) => 4 | some (.mscat ..) => 2 | _ => 1
  let first := gr.ops = o :: rest ∧ (∀ p ∈ rest, o.id < p.id) ∧ o.cls = .t ∧ o.done = false
  let now := (fs.group k).ops = o :: rest ∧ (∀ p ∈ rest, o.id < p.id) ∧ o.cls = .t ∧ o.done = false
  let due := first ∧ o.started = true ∧ o.t0 + time ≤ s.gcc ∧ o.bank < 4 ∧ (o.lanes.map (·.1)).Nodup ∧ (∀ q ∈ o.lanes, q.1 < 32)
    ∧ s.settleGroup h g = s ∧ s.scattering h g o = false ∧ hh.mmaBad o = none
  let other (b r c : Nat) : Prop := r < 32 ∧ c < 32 ∧ (b ≠ o.bank ∨ r ∉ o.lanes.map (·.1))
  let gone (t : State) : Prop := (t.group k).ops = retireOps [] rest ∧ t.mem = s.mem ∧ (t.group k).v = gr.v
      ∧ (∀ b r c, other b r c → (t.group k).accAt b r c = gr.accAt b r c) ∧ (∀ b, b ≠ o.bank → (t.group k).verOf b = gr.verOf b)
  let raised (t : State) : Prop := (t.group k).verOf o.bank = if o.lanes = [] then gr.verOf o.bank else (gr.verOf o.bank + 1) % 2 ^ 16
  (now → o.started = false → ¬ unfed → fs.tileWaits h g o = false → fs.tileHeld h o = false → ∃ t, exec (.tileOpStart h g) s = .next t
      ∧ (t.group k).ops = { o with started := true, t0 := fs.gcc } :: rest ∧ (t.group k).v = (fs.group k).v ∧ t.mem = fs.mem
      ∧ t.hearth h = (fs.hearth h).bankAsk g ((fs.hearth h).scatUnits o))
  ∧ (now → (o.started = true ∨ unfed ∨ fs.tileWaits h g o = true ∨ fs.tileHeld h o = true) → exec (.tileOpStart h g) s = .next fs)
  ∧ (∀ a, first → o.started = true → o.tile ≠ none → o.t0 + time ≤ s.gcc → s.scattering h g o = false → hh.mmaBad o = some a → ∃ t, exec (.tileOpComplete h g) s = .next t
      ∧ t = (s.modGroup k (fun gr => { gr with ops := retireOps [] rest })).takeTrap h g
          { cause := 0x0F, agent := 1, d8 := a, mask := maskOf (o.lanes.map (·.1)), who := .group h g
            slot := (gr.blk.getD {}).slot, pos := some (o.pass * 2 ^ 28 + o.word * 2 ^ 16 + o.seq) })
  ∧ (first → o.started = true → o.tile ≠ none → (s.gcc < o.t0 + time ∨ s.scattering h g o = true) → exec (.tileOpComplete h g) s = .next s)
  ∧ (∀ f off, due → o.tile = some (.mma f off) → ∃ t, exec (.tileOpComplete h g) s = .next t ∧ gone t ∧ raised t
      ∧ t.hearths = s.hearths ∧ ∀ q ∈ o.lanes, ∀ c, c < 32 →
        let row := (((under hh).padBytes q.2.toNat (fmtHalf f 0).span).zipIdx).map (fun z => (Map.find? o.keep (q.2.toNat + z.2)).getD z.1)
        let column := hh.bstBytes c off (fmtHalf f 1).span
        (t.group k).accAt o.bank q.1 c
          = (mmaCell f o.z (fun i => row.getD i 0) (fun i => column.getD i 0) (gr.accAt o.bank q.1 c)).1 % 2 ^ 32)
  ∧ (due → o.tile = some .mzero → ∃ t, exec (.tileOpComplete h g) s = .next t ∧ gone t ∧ raised t ∧ t.hearths = s.hearths
      ∧ ∀ q ∈ o.lanes, ∀ c, c < 32 → (t.group k).accAt o.bank q.1 c = 0)
  ∧ (∀ col, col < 32 → due → o.tile = some (.mwr col) → ∃ t, exec (.tileOpComplete h g) s = .next t ∧ gone t ∧ raised t ∧ t.hearths = s.hearths
      ∧ ∀ q ∈ o.lanes, ∀ c, c < 32 → (t.group k).accAt o.bank q.1 c = if c = col then q.2.toNat else gr.accAt o.bank q.1 c)
  ∧ (∀ rm f, due → o.tile = some (.mscat rm f) →
      let w := if f = .f32 then 4 else 2
      let place (q : Nat × Word) (c : Nat) : Nat := ((under hh).padAddr (q.2.toNat + c * w)).getD 0
      (∀ q ∈ o.lanes, ∀ q' ∈ o.lanes, ∀ c c', c < 32 → c' < 32 → (q ≠ q' ∨ c ≠ c') → place q c + w ≤ place q' c' ∨ place q' c' + w ≤ place q c) →
      ∃ t, exec (.tileOpComplete h g) s = .next t ∧ gone t ∧ (t.group k).verOf o.bank = gr.verOf o.bank
        ∧ (∀ b r c, (t.group k).accAt b r c = gr.accAt b r c)
        ∧ (∀ q ∈ o.lanes, ∀ c, c < 32 → (t.hearth h).padNum (place q c) w = (accNarrow f rm o.z (gr.accAt o.bank q.1 c)).1 % 2 ^ (8 * w))
        ∧ (∀ p, (∀ q ∈ o.lanes, ∀ c, c < 32 → p < place q c ∨ place q c + w ≤ p) → Map.get 0 (t.hearth h).pad p = Map.get 0 hh.pad p))
  ∧ (∀ (fm : Nat) (z : Bool) (ra rb : Nat → Byte) (acc : Nat),
      let fa := fmtHalf fm 0
      let fb := fmtHalf fm 1
      let total : Int := ((natsFrom 0 384).map (fun j => bpiElem fa ra j * bpiElem fb rb j)).sum
      let e : Int := ((ra (48 * fa.pst)).toNat : Int) + ((rb (48 * fb.pst)).toNat : Int) - 254
      let term := rangeTerm (decide (total < 0)) total.natAbs e
      let fmt16 := if fa.fam = 1 then bf16 else f16
      let el (r : Nat → Byte) (j : Nat) : Term := fmt16.unpack z ((r (2 * j)).toNat + 256 * (r (2 * j + 1)).toNat)
      (fa.fam = 0 → mmaCell fm z ra rb acc = ((rndSum f32 .rne z [f32.unpack z acc, term.1]).1, term.2 ||| (rndSum f32 .rne z [f32.unpack z acc, term.1]).2))
      ∧ (fa.fam ≠ 0 → mmaCell fm z ra rb acc = rndSum f32 .rne z (f32.unpack z acc :: (natsFrom 0 24).map (fun j => (el ra j).mul (el rb j))))
      ∧ (∀ j, j < 384 → bpiElem fa ra j
          = bpiRead (bpiInt (((natsFrom 0 fa.krd).map (fun i => 2 ^ (fa.pst - 1 - i) * boolNat ((ra (48 * i + j / 8)).getLsbD (j % 8)))).sum) fa.pst fa.uns) fa.pst fa.krd fa.cen
          ∨ fa.pst < fa.krd))

/-- R115-R117, R236, R406: XMIT over port 6 or 7 is an encoding trap, outside a phase block subcause 11, over a port with no circuit link 5, over a
busy port 3; otherwise the register of all 32 lanes is under way, its first beat due after 2 cycles (6 across a die edge), and the port is busy for 2. XSEL
and XSEL.F at another phase cycle are subcause 4, with no readable register 1; otherwise the oldest register at the port is the result, 2 cycles
after it was complete, leaves the port, and XSEL.F forwards it; a register that comes in the word's own cycle is there (`settleBeats`).
R112-R114, R116, R117: at ph = 8 the member's phase block starts if it stands at the head of the BQ with the block before it finished, its mode
exposed and its body at hand; otherwise it is subcause 6, 7 or 9. A register reaches its input port at its cycle, a fifth one there is subcause 2.
At ph = LPH the phase closes, with subcause 8 in every member that still runs its block or has an unread register, at its ports or on its way;
C cycles after the first trap every other running member traps and the phase closes. A block runs until its last result has been written (R164; log 110 has the order within that cycle
as the model's choice). A closed phase has no registers. It binds no member whose task has ended since its arrival.
What the model settles itself: an oq element pushed at issue (log 41), the order of XSEL's checks (log 44), late words at a reduced clock (log 50),
overlapping phases (log 88), one port, two phases (log 92) and corners of PRET (log 101). -/
def Obligations.TransferPhases : Prop :=
  (∀ (s : State) (x : Issue) (g : Guard) (a : BitVec 7) (d : Dst) (port port2 : BitVec 3) (cyc : BitVec 16) (n peer : Nat)
    (r : Reg),
  let u := x.u
  let h := u.focus.h
  let hh := u.hearth h
  let xmit : Res := exec (.xmit g a port) s
  let trap (t : Trap) : Res := .next (laneTrap x.w.ex t u)
  let broken (sub : Nat) : Res := .next (phaseTrap x.w.ex sub u)
  let head := hh.ports.find? (fun q => q.port == port.toNat)
  let lat := 2 + (match head with | some q => q.at1 + 1 - u.gcc | none => 0)
  let go := LaneGo s g true false [(.v a, false)] {} x
  let z := s.settleBeats s.focus.h s.regsInFlight.length
  let sel := z.lc.trapped = none ∧ LaneGo z g true false [] { wv := dstCodes d 1, lat := lat } x
  let inPhase := u.lb.phase = some n
  let xs : Res := exec (.xsel g d port cyc) s
  let xf : Res := exec (.xselF g d port port2 cyc) s
  let link (p : BitVec 3) : Option Nat :=
    let e := Map.get 0 (u.part u.lc.part).wires h
    if p.toNat < 6 ∧ e.testBit (48 + p.toNat) = true then some (e / 2 ^ (8 * p.toNat) % 256) else none
  let cost := if h / 48 = peer / 48 then 2 else 6
  let opp (p : BitVec 3) : Nat := [1, 0, 3, 2, 4, 5, 6, 7].getD p.toNat 0
  let sent (p : BitVec 3) (vals : List Word) (t : State) : State :=
    let r : Reg := { h := peer, port := opp p, at1 := u.gcc + cost, vals := vals, ch := n, t0 := u.lb.t0 }
    { t.modHearth h (fun y => { y with outBusy := Map.put y.outBusy p.toNat (u.gcc + 2) }) with regsInFlight := t.regsInFlight ++ [r] }
  let taken (t : State) : State := t.modHearth h (fun y => { y with ports := dropPort port.toNat y.ports })
  let busy (p : BitVec 3) : Prop := u.gcc < Map.get 0 hh.outBusy p.toNat
  let value : Vals := fun l => (r.vals.getD l 0).zeroExtend 64
  (go → 6 ≤ port.toNat → xmit = trap { cause := 0x01 })
  ∧ (go → port.toNat < 6 → u.lb.phase = none → xmit = trap { cause := 0x07, sub := 11 })
  ∧ (go → port.toNat < 6 → inPhase → link port = none → xmit = broken 5)
  ∧ (go → port.toNat < 6 → inPhase → link port = some peer → busy port → xmit = broken 3)
  ∧ (go → port.toNat < 6 → inPhase → link port = some peer → ¬ busy port →
      xmit = .next (x.issued (sent port ((natsFrom 0 32).map (fun l => x.a 0 l)) u)))
  ∧ (sel → 6 ≤ port.toNat → xs = trap { cause := 0x01 } ∧ xf = trap { cause := 0x01 })
  ∧ (sel → port.toNat < 6 → 6 ≤ port2.toNat → xf = trap { cause := 0x01 })
  ∧ (sel → port.toNat < 6 → port2.toNat < 6 →
    (u.lb.phase = none → xs = trap { cause := 0x07, sub := 11 } ∧ xf = trap { cause := 0x07, sub := 11 })
    ∧ (inPhase → u.ph ≠ cyc.toNat → xs = broken 4 ∧ xf = broken 4)
    ∧ (inPhase → u.ph = cyc.toNat →
      (head = none → xs = broken 1 ∧ xf = broken 1)
      ∧ (head = some r → (r.bad = true ∨ u.gcc < r.at1 + 1) → xs = broken 1)
      ∧ (head = some r → (r.bad = true ∨ u.gcc < r.at1) → xf = broken 1)
      ∧ (head = some r → r.bad = false → r.at1 + 1 ≤ u.gcc → xs = .next (x.issued (writeResult d false 2 x.w value 0 (taken u))))
      ∧ (head = some r → r.bad = false → r.at1 ≤ u.gcc →
        (link port2 = none → xf = broken 5) ∧ (link port2 = some peer → busy port2 → xf = broken 3)
        ∧ (link port2 = some peer → ¬ busy port2 →
          xf = .next (x.issued (writeResult d false (2 + (r.at1 + 1 - u.gcc)) x.w value 0 (taken (sent port2 r.vals u)))))))))
  ∧ (∀ (s : State) (h g n t0 : Nat) (e : BqE) (rest : List BqE) (r : Reg) (p : Phase),
  let k := ckey h g
  let u := s.settleGroup h g
  let v := u.modChan n (fun c => c.onPhase t0 (fun p => { p with begun := k :: p.begun }))
  let x := u.ctx k
  let gr := u.group k
  let begin_ : Res := exec (.phaseBlockStart h g) s
  let standing := u.phaseStart k = some (n, t0) ∧ x.st ≠ .idle ∧ x.trapped = none
  let ready := x.bq = e :: rest ∧ e.kind = 0 ∧ e.phase = some n ∧ gr.blk = none ∧ gr.pend = [] ∧ gr.winTo = none ∧ u.groupFree h g = true
  let here (k : Nat) : Prop := k ∉ p.absent ∧ s.inPhase n p.t0 k = true
  let late (k : Nat) : Prop := k ∉ p.absent ∧ (s.inPhase n p.t0 k = true ∨ (∃ r ∈ (s.hearth (k / 4)).ports, r.ch = n ∧ r.t0 = p.t0)
    ∨ ∃ r ∈ s.regsInFlight, r.h = k / 4 ∧ r.ch = n ∧ r.t0 = p.t0)
  let settled := ∀ k ∈ (s.chan n).cfg.members, s.settleGroup (k / 4) (k % 4) = s
  let closed (t : State) : Prop := (t.chan n).phases = (s.chan n).phases.filter (fun q => q.t0 != p.t0)
    ∧ (∀ r ∈ t.regsInFlight, ¬ (r.ch = n ∧ r.t0 = p.t0))
    ∧ (∀ k ∈ (s.chan n).cfg.members, ∀ r ∈ (t.hearth (k / 4)).ports, ¬ (r.ch = n ∧ r.t0 = p.t0))
  let frozen (t : State) (who : Nat → Prop) : Prop := ∀ k ∈ (s.chan n).cfg.members, (s.ctx k).trapped = none →
    (who k → (s.ctx k).st ≠ .idle → (t.ctx k).trapped.isSome = true) ∧ (¬ who k → (t.ctx k).trapped = none)
  (u.phaseStart k = none → begin_ = .next u)
  ∧ (u.phaseStart k = some (n, t0) → ∃ c q, (n, c) ∈ u.chans ∧ k ∈ c.cfg.members ∧ q ∈ c.phases ∧ q.t0 = t0 ∧ k ∉ q.begun ∧ k ∉ q.absent
      ∧ t0 + 8 ≤ u.gcc)
  ∧ (standing → x.bq = [] → begin_ = .next (v.phaseTrapAt n t0 h g 6 true))
  ∧ (standing → x.bq = e :: rest → (e.kind ≠ 0 ∨ e.phase ≠ some n ∨ gr.blk ≠ none ∨ gr.pend ≠ [] ∨ gr.winTo ≠ none) →
      begin_ = .next (v.phaseTrapAt n t0 h g 6 true))
  ∧ (standing → ready → e.tab.inter = true → begin_ = .next (v.phaseTrapAt n t0 h g 7 true))
  ∧ (∀ body, standing → ready → e.tab.inter = false → e.reserved = false → v.bodyWords h x.part e.tab.body e.tab.len = (body, none) →
      (blkOf e).n ≠ 0 → 0 ≤ gr.wa + e.delta → gr.lo ≤ (gr.wa + e.delta).toNat → (gr.wa + e.delta).toNat + 15 < gr.lo + 64 → ∃ t, begin_ = .next t
        ∧ (t.ctx k).bq = rest ∧ (t.group k).blk = some { blkOf e with t0 := t0, inPass := true, w := 0, body := body } ∧ (s.NoFrames → t.mem = u.mem))
  ∧ (standing → ready → e.tab.inter = false → (∀ body, v.bodyWords h x.part e.tab.body e.tab.len ≠ (body, none)) →
      begin_ = .next (v.phaseTrapAt n t0 h g 9 true))
  ∧ (∀ j, s.regsInFlight[j]? = some r →
      let d : State := { s with regsInFlight := dropAt s.regsInFlight j }
      let full := 4 ≤ ((s.hearth r.h).ports.filter (fun q => q.port == r.port)).length
      (s.gcc < r.at1 → exec (.xmitBeatArrive j) s = .next s)
      ∧ (r.at1 ≤ s.gcc → ¬ full → exec (.xmitBeatArrive j) s = .next (d.modHearth r.h (fun y => { y with ports := y.ports ++ [r] })))
      ∧ (∀ m, r.at1 ≤ s.gcc → full → (s.chan r.ch).cfg.members.find? (fun m => m / 4 == r.h) = some m →
          exec (.xmitBeatArrive j) s = .next (d.phaseTrapAt r.ch r.t0 (m / 4) (m % 4) 2 true)))
  ∧ (∀ ps, (s.chan n).phases = p :: ps → (s.gcc < p.t0 + (s.chan n).cfg.lph → exec (.phaseEnd n) s = .next s)
      ∧ (settled → p.t0 + (s.chan n).cfg.lph ≤ s.gcc → ∃ t, exec (.phaseEnd n) s = .next t ∧ closed t ∧ frozen t late))
  ∧ (((s.chan n).phases.map (·.t0)).Nodup →
      ((∀ q ∈ (s.chan n).phases, ∀ t, q.abort = some t → s.gcc < t) → exec (.phaseAbort n) s = .next s)
      ∧ (settled → (s.chan n).phases.find? (fun q => match q.abort with | some t => decide (t ≤ s.gcc) | none => false) = some p →
          ∃ t, exec (.phaseAbort n) s = .next t ∧ closed t ∧ frozen t here)))

/-- R74-R76, R105-R110, R113, R156, R175: a complete barrier instance releases C cycles after its last arrival: its early arrivals count in
the next, and a PHASE channel opens a phase at that cycle; a complete reduction gives the saturated sum, the smallest or the largest contribution (none where
its members used different instructions); an exchange swaps the halves of every participant two cycles after its release; values of a broadcast
arrive C cycles after they were sent, and a held one is sent when every receiver has room. The exchanges of a tensor that are due flip its active set,
which carries the timestamps of their publishers (R65), and a window setting reaches the hearths of the partition at its cycle.
R99-R102, R118, R122, R269, R295: a merge node emits the least segment number that all its ports allow, merged in port order, to its parent's port, and
its trailer once every port has one; else it waits, as it does while a transfer phase of the partition is open (R113). Integer sums saturate. A package that is not the pod root sends its
merged stream, in 32-bit values, to the parent package and port of the tree's PTREE entry (R440). The root stores one word of the stream at a time from its destination up, at its home, once no access that a leaf's task issued earlier holds it back (R68) and the homes of its tables and of the word are ready (log 113); the
reduction's SLREDs complete with the last, their queues taking its timestamp, and a destination that is not aligned, or not mapped, ends them all with its trap.
What the model settles itself: the order of checks in an element (log 29), the pod's wiring (log 35), corners of leaf streams (log 40) and a malformed
child stream (log 63). -/
def Obligations.CausewayAndSluiceSteps : Prop :=
  (∀ (s : State) (n h : Nat) (v : Word64),
  let c := s.chan n
  let cost := if n < 320 then 24 else 64
  let due := c.part ≠ none ∧ c.here ≠ [] ∧ (∀ m ∈ c.cfg.members, m ∈ c.here) ∧ c.last + cost ≤ s.gcc
  let vals := c.contrib.map (fun (q : Nat × Contrib) => q.2.v)
  let contributed := c.part ≠ none ∧ c.contrib ≠ [] ∧ (∀ m ∈ c.cfg.members, (Map.find? c.contrib m).isSome = true) ∧ c.last + cost ≤ s.gcc
  let others := c.cfg.members.filter (fun m => m != c.cfg.sender)
  (due → (c.cfg.kind = 1 ∨ c.cfg.kind = 2 ∨ c.cfg.kind = 3) → ∃ t, exec (.causewayRelease n) s = .next t
      ∧ (t.chan n).inst = c.inst + 1 ∧ (t.chan n).here = c.early ∧ (t.chan n).early = [] ∧ (t.chan n).relAt = c.last + cost
      ∧ (c.cfg.kind = 3 → (t.chan n).phases = c.phases ++ [{ t0 := c.last + cost, absent := c.oldHere }]) ∧ t.mem = s.mem ∧ t.ctxs = s.ctxs)
  ∧ (¬ due → c.swapAt = [] → (c.cfg.kind = 1 ∨ c.cfg.kind = 3) → exec (.causewayRelease n) s = .next s)
  ∧ (contributed → c.cfg.kind = 5 → ∃ t res, exec (.reductionRelease n) s = .next t ∧ (t.chan n).inst = c.inst + 1
      ∧ (t.chan n).contrib = c.contribE ∧ (t.chan n).results.getLast? = some (c.inst, res)
      ∧ ((∀ q ∈ c.contrib, q.2.op = 0) → res = some (max (-(2 ^ 31)) (min (2 ^ 31 - 1) vals.sum)))
      ∧ ((∀ q ∈ c.contrib, q.2.op = 1) → ∃ m ∈ vals, res = some m ∧ ∀ y ∈ vals, m ≤ y)
      ∧ ((∀ q ∈ c.contrib, q.2.op = 2) → ∃ m ∈ vals, res = some m ∧ ∀ y ∈ vals, y ≤ m)
      ∧ ((∃ q ∈ c.contrib, ∃ p ∈ c.contrib, q.2.op ≠ p.2.op) → res = none))
  ∧ (due → c.cfg.kind = 2 → c.swapAt = [] → s.gcc < c.last + cost + 2 → (c.settleBarrier n s.gcc).swapAt = [c.last + cost + 2])
  ∧ (∀ at_ r, c.cfg.kind = 2 → ¬ due → c.swapAt = at_ :: r → s.gcc < at_ → exec (.exchangeSwap n) s = .next s)
  ∧ (∀ at_ r, c.cfg.kind = 2 → ¬ due → c.swapAt = at_ :: r → at_ ≤ s.gcc → (c.cfg.members.map (· / 4)).Nodup → ∃ t, exec (.exchangeSwap n) s = .next t
      ∧ (t.chan n).swaps = c.swaps + 1 ∧ (t.chan n).swapAt = r ∧ t.mem = s.mem
      ∧ ∀ j, (t.hearth j).xwin = if j ∈ c.cfg.members.map (· / 4) then (s.hearth j).xwin.map (fun w => { w with swapped := !w.swapped })
          else (s.hearth j).xwin)
  ∧ (∃ t, exec (.broadcastArrive n) s = .next t ∧ ∀ k, (t.ctx k).rx = if k ∈ c.cfg.members
      then (s.ctx k).rx.map (fun e => if e.ch = n ∧ e.due ≤ s.gcc then { e with full := true } else e) else (s.ctx k).rx)
  ∧ (c.held = none → exec (.bcastHeldSend n) s = .next s)
  ∧ (c.held = some v → (∃ m ∈ others, 4 ≤ ((s.ctx m).rx.filter (fun e => e.ch == n)).length) → exec (.bcastHeldSend n) s = .next s)
  ∧ (c.held = some v → others.Nodup → (∀ m ∈ others, ((s.ctx m).rx.filter (fun e => e.ch == n)).length < 4) → ∃ t, exec (.bcastHeldSend n) s = .next t
      ∧ (t.chan n).held = none ∧ ∀ m ∈ others, (t.ctx m).rx = (s.ctx m).rx ++ [{ ch := n, due := s.gcc + cost, v := v }])
  ∧ (∀ p tid, let sh := Map.get {} (s.part p).shadow tid
      let now := sh.pend.filter (fun t => decide (t ≤ s.gcc))
      ∃ t, exec (.publishFlip p tid) s = .next t ∧ t.mem = s.mem ∧ Map.get {} (t.part p).shadow tid
        = { act := (sh.act + now.length) % 2, tp := now.foldl max sh.tp, pend := sh.pend.filter (fun t => decide (s.gcc < t))
            pts := (sh.pubs.filter (fun q => decide (q.1 ≤ s.gcc))).foldl (fun a q => max a q.2) sh.pts, pubs := sh.pubs.filter (fun q => decide (s.gcc < q.1)) })
  ∧ (let due := (s.hearth h).xnew.filter (fun q => decide (q.1 ≤ s.gcc))
    (due = [] → exec (.exchangeWindowSettingArrive h) s = .next s)
    ∧ (∀ q p, due.getLast? = some q → s.partOfHearth h = some p → h < 192 → ∃ t, exec (.exchangeWindowSettingArrive h) s = .next t
      ∧ (t.hearth h).xnew = (s.hearth h).xnew.filter (fun q => decide (s.gcc < q.1))
      ∧ ∀ j, j < 192 → j ≠ h → Map.get 0 (t.hearth j).xseen h = if (s.part p).hset.testBit j = true
          then (match q.2 with | some x => x.size | none => 0) else Map.get 0 (s.hearth j).xseen h)))
  ∧ (∀ (s : State) (p tree node m : Nat) (t : Tree) (nd : Node) (w a cause sub : Nat),
  let rk := redKey p tree
  let r := s.reduc rk
  let far := if nd.kind = 2 then Config.childPorts tree node else 0
  let ports := ((natsFrom 0 4).filter (fun i => (t.children node).any (fun c => c.port == i) || far.testBit i)).map (portKey node)
  let ins := ports.map (fun k => Map.get {} r.ports k)
  let out (f : Strm → Strm) (s : State) : State :=
    if nd.parent = 127 then s.modReduc rk (fun r => { r with out := f r.out })
    else s.modReduc rk (fun r => { r with ports := Map.mod {} r.ports (portKey nd.parent nd.port) f })
  let here := (ins.filterMap (fun st => st.segs.head?)).filter (fun g => g.seg == m)
  let full := here.filter (fun g => g.dense || !g.vals.isEmpty)
  let popped := s.modReduc rk (fun r => { r with ports := ports.foldl (fun (ps : Map Strm) (k : Nat) => Map.mod {} ps k
    (fun st => if (st.segs.head?.map (·.seg)) = some m then { st with segs := st.segs.tail } else st)) r.ports })
  let cleared := s.modReduc rk (fun r => { r with ports := ports.foldl (fun (ps : Map Strm) (k : Nat) => Map.erase ps k) r.ports })
  let ts := ins.filterMap (·.trail)
  let ws := rootWords t.outTy r.out
  let va := t.dest + 8 * r.stored
  -- the PTREE entry is read with the first word (R367)
  let opened (u : State) : State := if r.stored = 0 then u.touchFrame (u.ptreeAt tree) false else u
  let ended (u : State) (x : Option (Nat × Nat × Nat)) : Res := .next ((u.endReduc p tree x).sysDone p)
  let goes := Map.find? (s.part p).trees tree = some t ∧ r.out.trail.isSome = true ∧ s.phaseOpen p = false
  (Map.find? (s.part p).trees tree = none → exec (.sluiceSegmentEmit p tree node) s = .next s ∧ exec (.sluiceRootStore p tree) s = .next s)
  ∧ (Map.find? (s.part p).trees tree = some t → t.nodes[node]? = some nd → nd.kind ≠ 0 → ports ≠ [] → s.phaseOpen p = false →
    (nextSeg ins = some m → full ≠ [] → exec (.sluiceSegmentEmit p tree node) s
      = .next (out (fun st => { st with segs := st.segs ++ [segMerge t.inTy t.thr full] }) popped))
    ∧ (nextSeg ins = some m → full = [] → exec (.sluiceSegmentEmit p tree node) s = .next popped)
    ∧ (nextSeg ins = none → (∀ st ∈ ins, st.segs = [] ∧ st.trail.isSome = true) → exec (.sluiceSegmentEmit p tree node) s = .next (out (fun st =>
        { st with trail := some { flags := ts.foldl (fun a x => a ||| x.flags) 0, count := ts.foldl (fun a x => a + x.count) 0 } }) cleared))
    ∧ (nextSeg ins = none → (∃ st ∈ ins, st.segs ≠ [] ∨ st.trail = none) → exec (.sluiceSegmentEmit p tree node) s = .next s))
  ∧ (s.phaseOpen p = true → exec (.sluiceSegmentEmit p tree node) s = .next s ∧ exec (.sluiceRootStore p tree) s = .next s)
  ∧ (∀ x y : Word, let sum := clamp (-2 ^ 31) (2 ^ 31 - 1) (x.toInt + y.toInt)
      sluiceAdd 2 x.toNat y.toNat = ((BitVec.ofInt 32 sum).toNat, if sum = x.toInt + y.toInt then 0 else 1))
  ∧ (Map.find? (s.part p).trees tree = some t → r.out.trail = none → exec (.sluiceRootStore p tree) s = .next s)
  ∧ (∀ parent, goes → s.podParent tree = some parent → exec (.sluiceRootStore p tree) s = .next (s.awaitRoot p tree t parent)
      ∧ (r.sent = false → s.awaitRoot p tree t parent = ((s.touchFrame (s.ptreeAt tree) false).modReduc rk (fun r => { r with sent := true })).wired
          { kind := .stream, unit := tree, addr := parent.1, n := parent.2, words := rootWords (if t.inTy = 2 then 2 else 0) r.out }))
  ∧ (goes → s.podParent tree = none → ws[r.stored]? = some w →
    (va % 8 ≠ 0 → exec (.sluiceRootStore p tree) s = .next (s.endReduc p tree (some (0x0D, 0, va))))
    ∧ (va % 8 = 0 → s.rootWaits p tree t va = true → exec (.sluiceRootStore p tree) s = .next s)
    ∧ (∀ u, va % 8 = 0 → s.rootWaits p tree t va = false → sysReady p va 8 .write s = .wait u → exec (.sluiceRootStore p tree) s = .next u)
    ∧ (∀ u, va % 8 = 0 → s.rootWaits p tree t va = false → sysReady p va 8 .write s = .ok () u →
      ((opened u).sysXl p va .write = .bad cause sub → exec (.sluiceRootStore p tree) s = ended (opened u) (some (cause, sub, va)))
      ∧ (∀ st y, (opened u).sysPut p va (opened u).gcc (bytesOf w 8) = some (st, y) →
        let kept := y.modReduc rk (fun r => { r with stored := r.stored + 1, pts := max r.pts st })
        exec (.sluiceRootStore p tree) s = if ws.length ≤ r.stored + 1 then ended kept none else .next (kept.sysDone p))))
  ∧ (∀ (u : State) (t : Tgt) (P : Nat) (bs : List Byte), u.NoFrames → u.sysXl p va .write = .ok t → (u.sysWalked p va .write).homeAddr t true = some a → ∃ st y, u.sysPut p va P bs = some (st, y)
      ∧ P ≤ st ∧ (∀ i, i < bs.length → y.byte (a + i) = bs.getD i 0)
      ∧ ∀ x, (x < a ∨ a + bs.length ≤ x) → (∀ q ∈ u.walkPath va 3 (u.rootOf p), x < q.2 ∨ q.2 + 8 ≤ x) → y.byte x = u.byte x))

/-- R146, R149, R241, R242: the words of every engine that work on the parameter stack: literals, DUP, DROP, SWAP, OVER, NEG, SHLI, ADD and GCCP take
their operands from the top and leave their results, modulo 2^64, and nothing else changes; a stack that does not hold the operands, or that would
hold more than 8 entries, traps with 0x08 at the queue position and takes nothing; SHLI by 64 or more is refused whatever the stack holds.
R93, R172, R241, R246, R251, R255, R258, R262, R265: the words that set a piece of their queue's state: MODE (codes 0 to 3), EFENCE, VMODE (where
the partition has version control; it bears on the MMAs of later cycles), FIBRE (a region that is aligned, in range and clear of the exchange window), RDLIM (1 to 63), SRCT and DSTT (a
tensor that the partition defines; DSTT with a report address where RPT is set), BOX, RXIN, RPROG, RYOUT. An operand with a reserved bit, or out of
range, is refused with 0x09; a tensor, a mode or a region that is not allowed with 0x0C subcause 4.
What the model settles itself: operands past their limits (log 48) and argument before stack (log 72). -/
def Obligations.EngineStackWordsAndSetters : Prop :=
  (∀ (s : State) (w : QWord) (rest : List QWord) (a b : Word64) (st : List Word64) (n : BitVec 14) (k : BitVec 8),
  let e := s.eng s.focus.q
  let put (n : Nat) (out : List Word64) : Res := .next (s.engTook n out (fun e => e))
  e.words = w :: rest →
  (∀ i pop push, (i, pop, push) ∈ [(Instr.litPush n, 0, 1), (.litContinue n, 1, 1), (.engineNop, 0, 0), (.dup, 1, 2), (.drop, 1, 0),
      (.swap, 2, 2), (.over, 2, 3), (.neg, 1, 1), (.add, 2, 1), (.gccp k, 0, 1)] → (e.stack.length < pop ∨ 8 + pop < e.stack.length + push) →
      exec i s = .next (s.engRefused w 0x08))
  ∧ (e.stack = st → st.length ≤ 7 → exec (.litPush n) s = put 0 [n.zeroExtend 64]
      ∧ exec (.gccp k) s = put 0 [BitVec.ofInt 64 (s.gcc + k.toInt * 256)])
  ∧ (e.stack.length ≤ 8 → exec .engineNop s = put 0 [])
  ∧ (e.stack = a :: st → st.length ≤ 7 → exec (.litContinue n) s = put 1 [BitVec.ofNat 64 (a.toNat * 2 ^ 14 + n.toNat)]
      ∧ exec .drop s = put 1 [] ∧ exec .neg s = put 1 [BitVec.ofInt 64 (-a.toInt)]
      ∧ (k.toNat < 64 → exec (.shli k) s = put 1 [BitVec.ofNat 64 (a.toNat * 2 ^ k.toNat)]))
  ∧ (64 ≤ k.toNat → exec (.shli k) s = .next (s.engRefused w 0x09))
  ∧ (e.stack = a :: st → st.length ≤ 6 → exec .dup s = put 1 [a, a])
  ∧ (e.stack = a :: b :: st → st.length ≤ 6 → exec .swap s = put 2 [b, a] ∧ exec .add s = put 2 [BitVec.ofNat 64 (a.toNat + b.toNat)])
  ∧ (e.stack = a :: b :: st → st.length ≤ 5 → exec .over s = put 2 [b, a, b])
  ∧ (∀ i, s.focus.q < 4096 → s.engFail s.focus.q w.pc .nobody i
      = s.takeTrap (s.focus.q / 16) (s.focus.q / 4 % 4) { i with agent := 2 + s.focus.q % 4, pc := w.pc }))
  ∧ (∀ (s : State) (w : QWord) (rest : List QWord) (a b c d : Word64) (st : List Word64) (rm : BitVec 3) (on : Bool)
    (lim : BitVec 8) (dim : BitVec 2) (ten : TenDesc),
  let q := s.focus.q
  let e := s.eng q
  let p := s.engPart q
  let lo (v : Word64) : Nat := v.toNat % 2 ^ 32
  let hi (v : Word64) : Nat := v.toNat / 2 ^ 32
  let set (k : Nat) (f : EngQ → EngQ) : Res := .next (s.engTook k [] f)
  let refused : Res := .next (s.engRefused w 0x09)
  let misuse : Res := .next (s.engFail q w.pc .nobody { cause := 0x0C, sub := 4 })
  let op (r : Bool) : TenOp := { tid := a.toNat % 2 ^ 16, cls := a.toNat / 2 ^ 16 % 4, rpt := r, raddr := if r then d.toNat else 0
                                 c := [lo c, hi c, lo b, hi b] }
  let extents : List Nat := [lo b, hi b, lo a, hi a].zipIdx.map (fun x => if x.2 ≤ dim.toNat then x.1 else 1)
  let overlaps := ∃ x, (s.hearth (engHearth q)).xwin = some x ∧ 0 < a.toNat ∧ b.toNat < x.base + x.size ∧ x.base < b.toNat + a.toNat
  let region := b.toNat % 4096 = 0 ∧ a.toNat % 4096 = 0 ∧ a.toNat ≤ 2 ^ 21 ∧ b.toNat + a.toNat ≤ 2 ^ 22
  e.words = w :: rest → st.length ≤ 8 →
  (e.stack = st →
    (rm.toNat < 4 → exec (.mode rm on) s = set 0 (fun e => { e with rm := rm.toNat, ftz := on }))
    ∧ (4 ≤ rm.toNat → exec (.mode rm on) s = refused)
    ∧ exec .efenceWord s = set 0 (fun e => { e with items := e.items ++ [.fence] })
    ∧ ((s.preg p 0x128).testBit 15 = true → exec (.vmode on) s = set 0 (fun e =>
        { e with vmode := on, vmodeAt := s.gcc + 1, vmodeWas := if e.vmodeAt = s.gcc + 1 then e.vmodeWas else e.vmode }))
    ∧ ((s.preg p 0x128).testBit 15 = false → exec (.vmode on) s = misuse)
    ∧ (1 ≤ lim.toNat → lim.toNat < 64 → exec (.rdlim lim) s = set 0 (fun e => { e with rdlim := lim.toNat }))
    ∧ ((lim.toNat = 0 ∨ 64 ≤ lim.toNat) → exec (.rdlim lim) s = refused))
  ∧ (e.stack = a :: b :: st →
    (region → ¬ overlaps → exec .fibre s = set 2 (fun e => { e with fibre := (b.toNat, a.toNat) }))
    ∧ (region → overlaps → exec .fibre s = misuse) ∧ (¬ region → exec .fibre s = refused)
    ∧ exec (.box dim) s = set 2 (fun e => { e with box := some (dim.toNat + 1, extents) })
    ∧ (a.toNat < 2 ^ 34 → lo a ≠ 0 → exec .rprog s = set 2 (fun e => { e with rprog := some (b.toNat, lo a, hi a, 0) }))
    ∧ ((2 ^ 34 ≤ a.toNat ∨ lo a = 0) → exec .rprog s = refused))
  ∧ (e.stack = a :: b :: c :: st →
    (b.toNat < 2 ^ 34 → 0 < a.toNat → a.toNat ≤ 2 ^ 20 → exec (.rxin on) s
      = set 3 (fun e => { e with rxin := some (c.toNat, b.toNat, a.toNat, on) }))
    ∧ ((2 ^ 34 ≤ b.toNat ∨ a.toNat = 0 ∨ 2 ^ 20 < a.toNat) → exec (.rxin on) s = refused)
    ∧ (b.toNat < 2 ^ 34 → a.toNat < 2 ^ 32 → exec .ryout s = set 3 (fun e => { e with ryout := some (c.toNat, b.toNat, a.toNat) }))
    ∧ ((2 ^ 34 ≤ b.toNat ∨ 2 ^ 32 ≤ a.toNat) → exec .ryout s = refused)
    ∧ (2 ^ 18 ≤ a.toNat → exec .srct s = refused)
    ∧ (a.toNat < 2 ^ 18 → s.tensor p (a.toNat % 2 ^ 16) = none → exec .srct s = misuse ∧ exec .dstt s = misuse)
    ∧ (a.toNat < 2 ^ 18 → s.tensor p (a.toNat % 2 ^ 16) = some ten → exec .srct s = set 3 (fun e => { e with src := some (op false) })))
  ∧ (e.stack = a :: b :: c :: d :: st → a.toNat < 2 ^ 19 → s.tensor p (a.toNat % 2 ^ 16) = some ten →
    (2 ^ 18 ≤ a.toNat → exec .dstt s = set 4 (fun e => { e with dst := some (op true) }))
    ∧ (a.toNat < 2 ^ 18 → st.length ≤ 7 → ∃ o, exec .dstt s = set 3 (fun e => { e with dst := some o }) ∧ o.rpt = false ∧ o.tid = a.toNat % 2 ^ 16
        ∧ o.cls = a.toNat / 2 ^ 16 % 4 ∧ o.c = [lo c, hi c, lo b, hi b])))

/-- R27, R172, R173, R180, R244, R274: POST and ARRIVE of a copy record are refused with 0x09. POST is performed once everything ahead of it in its
queue has completed, and behind a cycle that has served a waiter of its counter: the counter rises by 1 (at 2^31 - 1 it traps with 0x0C); ARRIVE of a barrier that is not armed is refused with 0x0C, raises P when it
is decoded, and arrives when it is performed. SCLOSE of a queue with no open stream does nothing; an open input stream delivers what it holds and
completes (it holds elements only while its iq has fewer than 16 entries, R270); an output stream ends with the whole entries already pushed. MARKER_PERFORM performs what nothing is ahead of.
What the model settles itself: corners of the barriers (log 20), the order of checks in an element (log 29) and SCLOSE with elements on the way (log
49). -/
def Obligations.EngineMarkers : Prop := ∀ (s : State) (w : QWord) (rest : List QWord) (n : BitVec 3) (b : BitVec 4) (o : BitVec 2),
  let q := s.focus.q
  let e := s.eng q
  let k := ckey (q / 16) (q / 4 % 4)
  let held (e : EngQ) : Prop := ∃ m r, e.items = .cmd m :: r ∧ (Map.get {} e.cmds m).done = false
  let v := Map.get 0 (s.ctx k).cmp n.toNat
  let nb := Map.get {} (s.ctx k).nb b.toNat
  let served := Map.get 0 (s.ctx k).cmpServed n.toNat = s.gcc + 1
  let misuse : Res := .next (s.engFail q w.pc .nobody { cause := 0x0C, sub := 4 })
  let raise (x : Ctx) : Ctx := { x with nb := Map.mod {} x.nb b.toNat (fun y => { y with p := y.p + 1 }) }
  (e.words = w :: rest → e.stack.length ≤ 8 →
    (4096 ≤ q → exec (.post n) s = .next (s.engRefused w 0x09) ∧ exec (.arrive b) s = .next (s.engRefused w 0x09))
    ∧ (q < 4096 → (held e ∨ (e.items = [] ∧ served)) → exec (.post n) s = .next (s.engTook 0 [] (fun e => { e with items := e.items ++ [.post n.toNat e.taken w.pc] })))
    ∧ (q < 4096 → e.items = [] → ¬ served → v < 2 ^ 31 - 1 → ∃ t, exec (.post n) s = .next t ∧ (t.eng q).items = [] ∧ (t.eng q).words = rest ∧ t.mem = s.mem
        ∧ (∀ i, Map.get 0 (t.ctx k).cmp i = if i = n.toNat then v + 1 else Map.get 0 (s.ctx k).cmp i))
    ∧ (q < 4096 → e.items = [] → ¬ served → v = 2 ^ 31 - 1 → (s.ctx k).st = .running → (s.ctx k).trapped = none → ∃ t, exec (.post n) s = .next t
        ∧ (t.ctx k).trapped.isSome = true ∧ (t.ctx k).cmp = (s.ctx k).cmp)
    ∧ (q < 4096 → nb.st ≠ .armed → exec (.arrive b) s = misuse)
    ∧ (q < 4096 → nb.st = .armed → held e → exec (.arrive b) s
        = .next ((s.modCtx k raise).engTook 0 [] (fun e => { e with items := e.items ++ [.arrive b.toNat e.taken w.pc] })))
    ∧ (q < 4096 → nb.st = .armed → e.items = [] → nb.a + 1 ≠ nb.e → ∃ t, exec (.arrive b) s = .next t ∧ (t.eng q).items = [] ∧ t.mem = s.mem
        ∧ Map.get {} (t.ctx k).nb b.toNat = { nb with a := nb.a + 1 })
    ∧ (openStream false n.toNat e = none → exec (.scloseIq n) s = .next (s.engTook 0 [] (fun e => e)))
    ∧ (openStream true o.toNat e = none → exec (.scloseOq o) s = .next (s.engTook 0 [] (fun e => e)))
    ∧ (∀ i c, q < 4096 → openStream false n.toNat e = some (i, c) → (c.buf ≠ [] → (Map.get [] (s.group k).iq n.toNat).length < 16) → ∃ t, exec (.scloseIq n) s = .next t ∧ (t.eng q).words = rest
        ∧ (∀ c', Map.find? (t.eng q).cmds i = some c' → c'.done = true)
        ∧ Map.get [] (t.group k).iq n.toNat = Map.get [] (s.group k).iq n.toNat
            ++ (if c.buf = [] then [] else [(natsFrom 0 32).map (fun l => c.buf.getD l 0)]))
    ∧ (∀ i c, q < 4096 → openStream true o.toNat e = some (i, c) → c.elem < c.elem / 32 * 32 + 32 * (Map.get [] (s.group k).oq o.toNat).length → c.elem < c.total →
        ∃ t, exec (.scloseOq o) s = .next t ∧ (t.eng q).words = rest ∧ ∃ c', Map.find? (t.eng q).cmds i = some c' ∧ c'.done = false
        ∧ c'.total = min c.total (c.elem / 32 * 32 + 32 * (Map.get [] (s.group k).oq o.toNat).length)))
  ∧ (e.items = [] → exec (.markerPerform q) s = .next s)
  ∧ (held e → exec (.markerPerform q) s = .next s)
  ∧ (∀ m, e.items = [.cmd m, .post n.toNat 0 0] → (Map.get {} e.cmds m).done = true → q < 4096 → ¬ served → v < 2 ^ 31 - 1 → ∃ t, exec (.markerPerform q) s = .next t
      ∧ (t.eng q).items = [] ∧ Map.get 0 (t.ctx k).cmp n.toNat = v + 1 ∧ Map.find? (t.eng q).cmds m = none)

/-- R241, R243, R246, R254, R256, R258, R263-R269, R271-R273: a launch word whose operands its row allows leaves one command behind the queue's items,
with the operands, the setters and the mode in force, and the turn passes to the next queue; an operand with a reserved bit or outside its limits, a missing
setter, a not-before time more than 2^31 cycles ahead is refused with 0x09; a copy word waits while 64 copy commands of the hearth pend.
What the model settles itself: operands past their limits (log 48) and argument before stack (log 72). -/
def Obligations.EngineLaunches : Prop := ∀ (s : State) (w : QWord) (rest : List QWord) (st : List Word64) (a b c d e : Word64)
    (bank fmt oq : BitVec 2) (iq r : BitVec 3) (wide : Bool) (so dd : TenOp) (bx : Nat × List Nat) (ta tb : TenDesc),
  let q := s.focus.q
  let en := s.eng q
  let lo (v : Word64) : Nat := v.toNat % 2 ^ 32
  let hi (v : Word64) : Nat := v.toNat / 2 ^ 32
  let launched (k : Nat) (c : Cmd) : Res := .next (s.engLaunched w k c)
  let refused : Res := .next (s.engRefused w 0x09)
  -- it waits, and the watchdog counts from its first try (R418)
  let stays : Res := .next (s.modEng q (fun e => { e with since := if e.since = 0 then s.gcc + 1 else e.since }))
  let plain : List (Instr × List Word64 × Bool × Cmd) :=
    [(.accst bank fmt, [a, b], fmt != 3#2 && b.toNat < 2 ^ 34, { kind := .accst bank.toNat fmt.toNat, total := 1024 }),
     (.accld bank fmt, [a, b], fmt != 3#2 && b.toNat < 2 ^ 34, { kind := .accld bank.toNat fmt.toNat, total := 1024 }),
     (.accclr bank, [], true, { kind := .accclr bank.toNat, total := 1 }),
     (.spgemm, [a, b, c], c.toNat < 2 ^ 34 && hi b != 0 && hi b ≤ 2 ^ 31, { kind := .spgemm, total := 1 }),
     (.rvtab, [a], true, { kind := .rvtab, total := 64 }),
     (.strm iq, [a, b, c, d], d.toNat < 16, { kind := .strm iq.toNat, total := lo b * hi b }),
     (.ostrm oq, [a, b, c, d], d.toNat < 16 && d.toNat / 4 != 2, { kind := .ostrm oq.toNat, total := lo b * hi b })]
  let copy : List (Instr × List Word64 × Bool × Cmd) :=
    [(.cpy, [a, b, c, d], c.toNat < 2 ^ 42, { kind := .cpy }), (.zero, [a, b, d], b.toNat < 2 ^ 42, { kind := .zero }),
     (.bloadb, [a, b, c, d], c.toNat < 2 ^ 42 && engHearth q < 1000, { kind := .bloadb }),
     (.xch, [a, b, c, d], c.toNat < 2 ^ 42 && a.toNat < 2 ^ 40, { kind := .xch }),
     (.slred, [a, b, c, d], b.toNat < 2 ^ 42 && c.toNat < 2 ^ 16, { kind := .slred })]
  let tensor : List (Instr × List Word64 × Bool × Cmd) :=
    [(.tcpy, [d], true, { kind := .tcpy }), (.tgath wide, [a, b, d], b.toNat < 2 ^ 32, { kind := .tgath wide }),
     (.tscat wide, [a, b, d], b.toNat < 2 ^ 32, { kind := .tscat wide })]
  let room := ((s.copyCmds (engHearth q)).filter (fun c => c.2.2.pending)).length < 64
  let setters := en.src = some so ∧ en.dst = some dd ∧ en.box = some bx
  let defined := s.tensor (s.engPart q) so.tid = some ta ∧ s.tensor (s.engPart q) dd.tid = some tb
  en.words = w :: rest → st.length ≤ 8 →
  (∀ i ops ok cmd, (i, ops, ok, cmd) ∈ plain → en.stack = ops.reverse ++ st →
    exec i s = if ok then launched ops.length { cmd with args := ops.map BitVec.toNat } else refused)
  ∧ (∀ i ops ok cmd, (i, ops, ok, cmd) ∈ copy → en.stack = ops.reverse ++ st →
    (room → d.toNat ≤ s.gcc + 2 ^ 31 → exec i s = if ok then launched ops.length { cmd with args := ops.map BitVec.toNat, t := d.toNat } else refused)
    ∧ (room → s.gcc + 2 ^ 31 < d.toNat → exec i s = refused) ∧ (¬ room → exec i s = stays))
  ∧ (∀ i ops ok cmd, (i, ops, ok, cmd) ∈ tensor → en.stack = ops.reverse ++ st →
    (room → d.toNat ≤ s.gcc + 2 ^ 31 → ok = true → setters → defined →
      exec i s = if convOk ta tb so dd bx.2 then launched ops.length { cmd with args := ops.map BitVec.toNat, t := d.toNat } else refused)
    ∧ (room → d.toNat ≤ s.gcc + 2 ^ 31 → (ok = false ∨ en.src = none ∨ en.dst = none ∨ en.box = none) → exec i s = refused)
    ∧ (room → s.gcc + 2 ^ 31 < d.toNat → exec i s = refused) ∧ (¬ room → exec i s = stays))
  ∧ (∀ xi pr yo, en.stack = st → en.rxin = some xi → en.rprog = some pr → en.ryout = some yo →
      exec (.reval r) s = launched 0 { kind := .reval (r.toNat + 1), total := pr.2.1 })
  ∧ (en.stack = st → (en.rxin = none ∨ en.rprog = none ∨ en.ryout = none) → exec (.reval r) s = refused)
  ∧ (en.stack = [a, b, c, d, e].reverse ++ st → e.toNat < 2 ^ 18 → s.tensor (s.engPart q) (e.toNat % 2 ^ 16) = some ta →
      exec (.strmt iq) s = if fmtBpi ta.fmt || decide (4 < fmtSize ta.fmt ta.p) then refused else launched 5
        { kind := .strmt iq.toNat, src := some { tid := e.toNat % 2 ^ 16, cls := e.toNat / 2 ^ 16, rpt := false, raddr := 0, c := [lo c, hi c, lo d, hi d] }
          box := some (4, [lo a, hi a, lo b, hi b]), total := lo a * hi a * lo b * hi b })

/-- R152, R372, R373, R380, R384, R389, R421: a home performs a request on an atom that is at hand: RD answers the whole atom with its stamps and
raises RTS to the lease; RNW with the current WTS renews, else it is a read; a WR or WB writes its enabled bytes at WTS = max(P, RTS + 1) and no
other byte, an AT its operation's new value, answering the old; a store-conditional stores only while its reservation holds. Reservations of others
on the unit break. A poisoned atom takes only a whole WR; that, an old epoch and a target that no longer translates are refused; an absent atom is fetched first; the requests for one
atom keep their order, none is performed before its route has brought it (R11), and none while the atom is being recalled for another (R386, R388). A read of the host for sharing leaves 01
on both atoms of its line, one for ownership 10 (R385).
R67, R380-R382, R385: a write at S scope first recalls the atom: SEQ rises, every hearth is sent a REC, which its route brings within 100 cy (R11), and the request stays until every PACK
has come; then, the last having come in cycle c, RTS is at most c + 71 and the write is performed (its acknowledgement comes no sooner than c + 8, the model's choice, log 108). A write of an atom that the host holds first asks for the line back.
What the model settles itself: which message is taken (log 16), host memory as requests (log 21), unreadable SRAM bytes (log 66) and who reports a bad
write-back (log 77). -/
def Obligations.HomeRequestsAndRecalls : Prop :=
  (∀ (s : State) (n a : Nat) (r : Req) (t : Atom),
  let base := (s.slice (homeOf a)).base
  let lease := r.pts + s.lease r.part - base
  let rts := max (max t.rts lease) t.wts
  let w := max (r.pts - base) (t.rts + 1)
  let dat : Rep := { repOf s r .dat with
    data := s.bytes (a / 32 * 32) 32, wts := base + t.wts, rts := base + rts, seq := t.seq, tag := s.winTag r.tgt }
  let full := r.bytes.length = 32 ∧ ∀ b ∈ r.bytes, b ≠ none
  let old := r.src = 0 ∧ r.who ≠ .nobody ∧ r.epoch ≠ (s.ctx r.ctx).epoch
  let own := (r.src, r.who)
  let free := t.ho = 0
  let readable := t.psn = false ∧ r.own = 0 ∧ t.ho ≠ 2
  let breaks (u : State) : Prop := ∀ k v, (s.thread k).resv = some v → v.unit = tgtUnit r.tgt → r.who ≠ .thread (k / 8) (k % 8) →
    (∀ c va, r.who = .wback c va → c / 4 ≠ k / 8) →
    (u.thread k).resv = some { v with valid := false }
  let gone : Res := .next (({ s with reqs := dropAt s.reqs n }.unrecall own).reply
    { repOf s r .nack with val := 0, due := s.gcc + transit (.home r.home) (s.reqStop r r.home) })
  let m := s.num a r.width
  let at_ (x : Nat) : List (Option Byte) := (bytesOf x r.width).map some
  let value : Rep := { repOf s r .dat with atomic := true }
  (Performs s n .rd r a t → readable → ∃ u, exec (.rd n) s = .next u ∧ Answered s n a dat { t with rts := rts } u ∧ u.mem = s.mem)
  ∧ (Performs s n .rd r a t → t.psn = false → t.ho ≠ 2 → r.own ≠ 0 → ∃ u, exec (.rd n) s = .next u ∧ u.mem = s.mem ∧ u.reqs = dropAt s.reqs n
      ∧ u.reps = s.reps ++ [{ dat with due := s.replyDue r a }] ∧ u.atom a = { t with rts := rts, ho := r.own }
      ∧ ∀ b, (b / 64 = a / 64 → (u.atom b).ho = r.own) ∧ (b / 64 ≠ a / 64 → u.atom b = s.atom b))
  ∧ (Performs s n .rnw r a t → t.psn = false → base + t.wts = r.wts → ∃ u, exec (.rnw n) s = .next u ∧ u.mem = s.mem
      ∧ Answered s n a { repOf s r .rnwok with wts := r.wts, rts := base + max t.rts lease, seq := t.seq, val := r.a } { t with rts := max t.rts lease } u)
  ∧ (Performs s n .rnw r a t → readable → base + t.wts ≠ r.wts → ∃ u, exec (.rnw n) s = .next u ∧ Answered s n a dat { t with rts := rts } u
      ∧ u.mem = s.mem)
  ∧ (∀ k i, (k, i) ∈ [(ReqK.wr, Instr.wr n), (.wb, .wb n)] → Performs s n k r a t → ¬ old → (k = .wb → r.epoch = (s.ctx r.ctx).epoch) →
      (t.psn = true → k = .wr ∧ full) → free → r.scope ≠ 2 → ∃ u, exec i s = .next u ∧ Wrote s a r.bytes u ∧ breaks u
        ∧ ∃ p, Answered s n a { repOf s r .wack with wts := base + w } { t with rts := w, wts := w, psn := p } u ∧ (r.psn = true → p = true) ∧ (r.psn = false → full → p = false) ∧ (r.psn = false → ¬ full → p = t.psn))
  ∧ (∀ k i, (k, i) ∈ [(ReqK.wr, Instr.wr n), (.wb, .wb n)] → Performs s n k r a t → ¬ old → (k = .wb → r.epoch = (s.ctx r.ctx).epoch) → t.psn = true →
      (k = .wb ∨ ¬ full) → ∃ u, exec i s = .next u ∧ u.mem = s.mem ∧ Answered s n a (repOf s r .err) t u)
  ∧ (Performs s n .at r a t → ¬ old → t.psn = false → free → r.scope ≠ 2 →
    (r.sc = false → ∃ u, exec (.at_ n) s = .next u ∧ Wrote s a (at_ (atNew homeAdd r.op r.width m r.a r.b)) u ∧ breaks u
      ∧ Answered s n a { value with val := m, wts := base + w } { t with rts := w, wts := w } u)
    ∧ (r.sc = true → s.scHolds r = false → ∃ u, exec (.at_ n) s = .next u ∧ u.mem = s.mem
      ∧ Answered s n a { value with val := 1, wts := base + t.wts } t u)
    ∧ (r.sc = true → s.scHolds r = true → ∃ u, exec (.at_ n) s = .next u ∧ Wrote s a (at_ r.b) u ∧ breaks u
      ∧ Answered s n a { value with val := 0, wts := base + w } { t with rts := w, wts := w } u))
  ∧ (Performs s n .rd r a t → t.psn = true → ∃ u, exec (.rd n) s = .next u ∧ u.mem = s.mem ∧ Answered s n a (repOf s r .err) t u)
  ∧ (Performs s n .wr r a t → old → ∃ u, exec (.wr n) s = .next u ∧ u.mem = s.mem ∧ Answered s n a { repOf s r .nack with val := 1 } t u)
  ∧ (∀ k i, (k, i) ∈ [(ReqK.rd, Instr.rd n), (.rnw, .rnw n), (.wr, .wr n), (.wb, .wb n), (.at, .at_ n)] → s.reqs[n]? = some r → r.kind = k →
    (s.gcc < r.due → exec i s = .next s)
    ∧ (r.due ≤ s.gcc → (∀ a, s.reqLoc r ≠ .at a) → exec i s = gone)
    ∧ (s.reqLoc r = .at a → (s.behind n a = true ∨ s.recalled own a = true) → exec i s = .next s)
    ∧ (r.due ≤ s.gcc → s.reqLoc r = .at a → s.behind n a = false → (r.src = 0 → s.homeRoom a r.part = true) → s.gated a = false → s.recalled own a = false →
        (∀ x, Map.find? s.atoms (a / 32) = some x → x.gone = true) →
        exec i s = .next (if s.l2Room a then s.modAtom a (fun t => { t with fp := true }) else s))))
  ∧ (∀ (s : State) (n a : Nat) (r : Req) (t : Atom),
  let base := (s.slice (homeOf a)).base
  let q := (t.seq + 1) % 256
  let mine (c : Recall) : Bool := c.key == a / 32 && c.home != 64
  let own := (r.src, r.who)
  let rec_ : Probe := { kind := .recall, h := 0, key := a / 32, seq := q, lim := s.gcc + 100 }
  let ok := Performs s n .wr r a t ∧ s.oldEpoch r = false ∧ t.psn = false
  (ok → r.scope = 2 → t.ho = 0 → s.recalls.find? mine = none → ∃ u, exec (.wr n) s = .next u
      ∧ u.reqs = s.reqs ∧ u.atom a = { t with seq := q } ∧ u.mem = s.mem
      ∧ u.recalls = s.recalls ++ [{ key := a / 32, home := homeOf a, seq := q, missing := natsFrom 0 192, own := own }]
      ∧ ∀ h, h < 192 → { rec_ with h := h, due := s.gcc + transit (.home (homeOf a)) (.hearth h) } ∈ u.probes)
  ∧ (∀ c, ok → r.scope = 2 → t.ho = 0 → s.recalls.find? mine = some c → c.done = false → exec (.wr n) s = .next s)
  ∧ (∀ c, ok → r.scope = 2 → t.ho = 0 → s.recalls.find? mine = some c → c.done = true →
      let w := max (r.pts - base) (min t.rts (c.doneAt + 71 - base) + 1)
      ∃ u, exec (.wr n) s = .next u ∧ Wrote s a r.bytes u ∧ (u.atom a).wts = w ∧ (u.atom a).rts = w ∧ u.reqs = dropAt s.reqs n
        ∧ u.reps = s.reps ++ [{ repOf s r .wack with wts := base + w, due := max (c.doneAt + 8) (s.replyDue r a) }] ∧ u.recalls.find? mine = none)
  ∧ (ok → t.ho ≠ 0 → (∀ b ∈ s.bisnps, b.line ≠ a / 64) →
      exec (.wr n) s = .next { s with bisnps := s.bisnps ++ [{ line := a / 64, inv := true }] }))

/-- R376, R377, R382, R383, R389, R421, R439: a reply is taken once its route has brought it (R11), unless the data-reply network is in circuit mode for its
partition. DAT installs the atom, its dirty bytes kept, and hands the access its data, or hands an atomic its old value; one that is stale, older
than the copy, or overtaken by a write of its hearth (log 76), serves its access and is not kept; an engine's atom takes what its hearth's L1 holds before it and is not
kept (R72); bytes of a line frame with an uncorrectable error are none (log 66); RNWOK extends the lease of a copy that still holds the bytes renewed, else
the access asks again; an answer to the host or a peer leaves on the link (log 114); WACK, NACK and ERR hand over the stamp, or the cause of the
refusal, and a write-back's go to its hearth and to its context (log 77).
R369, R381-R383: a probe that has arrived (R11) is answered with a PACK, and its hearth's L1 drops exactly the copies that the probe names (REC: of the
atom, unless newer; TREC: through the tensor's window; ZREC: of the granule), the dirty bytes of each leaving for their home as one WB of its context (the model's choice, log 17); of a copy with held stores of a trapped task these alone
stay (the model's reading, notes/assumptions/58). REC leaves its SEQ for each of the hearth's misses of the atom, and a miss of a granule that is zeroed is not kept. A
hearth's PACK is one fewer for its recall, which ends with the last; with that of a host snoop the atom leaves the I/O stop (R386).
What the model settles itself: which message is taken (log 16) and a second stamp of a copy (log 85). -/
def Obligations.HomeRepliesAndProbes : Prop :=
  (∀ (s : State) (n : Nat) (r : Rep),
  let u : State := { s with reps := dropAt s.reps n }
  let e := u.metBy r
  let d := (natsFrom 0 32).map (fun i => if e.dirty.testBit i || ((e.rts == 0 || decide (r.wts < e.wts)) && e.valid.testBit i)
    then e.data.getD i 0 else r.data.getD i 0)
  let leads (c : L1E) (i : Nat) : Bool := c.dirty.testBit i || ((c.rts == 0 || decide (r.wts < c.wts)) && c.valid.testBit i)
  let bad (c : L1E) : Bool := c.psn && (natsFrom 0 32).any (leads c)
  let e' : L1E := { e with data := d, wts := r.wts, rts := r.rts, seq := r.seq, tag := r.tag, valid := 2 ^ 32 - 1, psn := bad e }
  let lost : Got := { ok := false, cause := 0x0F }
  let got : Got := if bad e then lost else { ok := true, data := d, wts := if e.dirty = 0 then max e.wts r.wts else max (max e.wts r.wts) e.hpts }
  let fresh := u.staleRep r = false ∧ u.writing r.key = false ∧ e.wts ≤ r.wts
  let past := (∃ q k, r.who = .cmd q k) ∨ ∃ h t, r.who = .line h t
  let renews (c : L1E) : Prop := r.val &&& c.valid = r.val ∧ c.wts = r.wts
  let comes (k : RepK) : Prop := s.reps[n]? = some r ∧ r.kind = k ∧ r.due ≤ s.gcc ∧ r.src = 0 ∧ s.phaseOpen r.part = false
  let refused := r.kind = .nack ∨ r.kind = .err
  let out : Sent := { kind := .answer, unit := r.src, addr := r.key % 2 ^ 110 * 32, n := r.val, data := r.data }
  let away (x : Sent) : State := { u with wire := s.wire ++ [x], hts := if r.src = 3 then s.hts else max s.hts r.wts }
  (∀ k i, (k, i) ∈ [(RepK.dat, Instr.dat n), (.rnwok, .rnwok n), (.wack, .wack n), (.nack, .nack n), (.err, .err n)] → s.reps[n]? = some r → r.kind = k →
      (s.gcc < r.due → exec i s = .next s) ∧ (r.src = 0 → s.phaseOpen r.part = true → exec i s = .next s)
      ∧ (r.due ≤ s.gcc → r.src ≠ 0 → (¬ refused → exec i s = .next (away out)) ∧ (refused → exec i s = .next (away { out with kind := .refusal, data := [] }))))
  ∧ (comes .dat → r.atomic = true → exec (.dat n) s = .next (u.deliver r.who { ok := true, val := r.val, wts := r.wts }))
  ∧ (comes .dat → r.atomic = false → past → (r.tgt.shadowed = true ∨ Map.find? s.l1 r.key = none) →
      exec (.dat n) s = .next ((u.missDone r.key).deliver r.who { ok := true, data := r.data, wts := r.wts }))
  ∧ (∀ c, comes .dat → r.atomic = false → past → r.tgt.shadowed = false → Map.find? s.l1 r.key = some c → exec (.dat n) s = .next ((u.missDone r.key).deliver r.who
      (if bad c then lost else { ok := true, data := (natsFrom 0 32).map (fun i => if leads c i then c.data.getD i 0 else r.data.getD i 0), wts := r.wts })))
  ∧ (comes .dat → r.atomic = false → ¬ past → fresh → exec (.dat n) s = .next (((u.putL1 r.key e').missDone r.key).deliver r.who got)
      ∧ Map.find? (u.putL1 r.key e').l1 r.key = some e')
  ∧ (comes .dat → r.atomic = false → ¬ past → ¬ fresh → exec (.dat n) s = .next ((u.missDone r.key).deliver r.who got))
  ∧ (∀ c, comes .rnwok → Map.find? s.l1 r.key = some c → renews c → ∃ v, exec (.rnwok n) s
      = .next ((v.missDone r.key).deliver r.who (if c.psn then lost else { ok := true, data := c.data, wts := if r.val &&& c.dirty = 0 then c.wts else max c.wts c.hpts }))
      ∧ (u.staleRep r = true → v = u)
      ∧ (u.staleRep r = false → v = { u with l1 := Map.put s.l1 r.key { c with rts := max c.rts r.rts, seq := r.seq } }))
  ∧ (comes .rnwok → (∀ c, Map.find? s.l1 r.key = some c → ¬ renews c) → exec (.rnwok n) s = .next ((u.missDone r.key).setXact r.who {}))
  ∧ (comes .wack → isWback r.who = false → exec (.wack n) s = .next (u.deliver r.who { ok := true, wts := r.wts }))
  ∧ (comes .wack → isWback r.who = true → ∃ t, exec (.wack n) s = .next t ∧ (t.hearth r.h).wbPts = max (s.hearth r.h).wbPts r.wts
      ∧ t.mem = s.mem ∧ t.atoms = s.atoms ∧ t.reps = u.reps ∧ t.threads = s.threads
      ∧ (∀ c, Map.find? s.l1 r.key = some c → c.rts = 0 → u.writing r.key = false → Map.find? t.l1 r.key = some { c with wts := r.wts, rts := r.wts })
      ∧ (∀ k, k ≠ r.key → Map.find? t.l1 k = Map.find? s.l1 k))
  ∧ (∀ c, comes .nack → (c = if r.val = 1 then (0x0C, 6) else if r.val = 2 then (0x0E, 0) else (0x0C, 2)) → exec (.nack n) s
      = .next (u.deliver r.who { ok := false, cause := c.1, sub := c.2 }))
  ∧ (comes .err → isWback r.who = false → exec (.err n) s = .next (u.deliver r.who { ok := false, cause := 0x0F, sub := r.val }))
  ∧ (∀ k va, comes .err → r.who = .wback k va → exec (.err n) s = .next (u.takeTrap (k / 4) (k % 4) { cause := 0x0F, d8 := va })))
  ∧ (∀ (s : State) (n : Nat) (p : Probe),
  let cut := dropAt s.probes n
  let drops (u : State) (gone : L1E → Prop) : Prop := u.mem = s.mem ∧ u.atoms = s.atoms ∧ ∀ k,
    (∀ e, Map.find? s.l1 k = some e → k / 2 ^ 110 = p.h → gone e → Map.find? u.l1 k
      = if e.dirty ≠ 0 ∧ s.frozen e.ctx = true then some { e with valid := 0, rts := 0 } else none)
    ∧ ((∀ e, Map.find? s.l1 k = some e → ¬ (k / 2 ^ 110 = p.h ∧ gone e)) → Map.find? u.l1 k = Map.find? s.l1 k)
  let wb (e : L1E) : Req := { kind := .wb, who := .wback e.ctx e.va, h := p.h, part := e.part, ctx := e.ctx, epoch := e.epoch, tgt := e.tgt.atomBase
                              pts := max (max e.wts e.hpts) (s.localGcc p.h), scope := 1, psn := e.psn
                              bytes := (natsFrom 0 32).map (fun i => if e.dirty.testBit i then some (e.data.getD i 0) else none) }
  let sentWb (e : L1E) : Req := { wb e with
    home := s.homeAt (wb e).who (wb e).tgt true
    due := s.gcc + transit (s.reqStop (wb e) (s.homeAt (wb e).who (wb e).tgt true)) (.home (s.homeAt (wb e).who (wb e).tgt true)) }
  let writes (u : State) (gone : L1E → Prop) : Prop := ∀ r, r ∈ u.reqs ↔ r ∈ s.reqs
    ∨ ∃ k e, Map.find? s.l1 k = some e ∧ k / 2 ^ 110 = p.h ∧ gone e ∧ e.dirty ≠ 0 ∧ s.frozen e.ctx = false ∧ r = sentWb e
  let same (r : Recall) : Bool := r.key == p.key && (if p.tp = 1 then r.home == 64 else p.tp == 0 && r.home != 64 && r.seq == p.seq)
  let pack (k due : Nat) : Probe := { p with kind := .pack, tp := k, lim := 0, due := due }
  let back (a : Nat) : Nat := s.gcc + transit (.hearth p.h) (.home (homeOf a))
  let comes (k : ProbeK) : Prop := s.probes[n]? = some p ∧ p.kind = k ∧ p.due ≤ s.gcc
  (∀ k i, (k, i) ∈ [(ProbeK.recall, Instr.rec_ n), (.trec, .trec n), (.zrec, .zrec n), (.pack, .pack n)] → s.probes[n]? = some p → p.kind = k →
      s.gcc < p.due → exec i s = .next s)
  ∧ (comes .recall → Map.sorted s.l1 = true → ∃ u, exec (.rec_ n) s = .next u ∧ u.probes = cut ++ [pack 0 (back (32 * p.key))]
      ∧ drops u (fun e => p.key ∈ s.copyAtoms e.tgt ∧ newer p.seq e.seq = true) ∧ writes u (fun e => p.key ∈ s.copyAtoms e.tgt ∧ newer p.seq e.seq = true)
      ∧ ∀ k ∈ s.missKeys p.h (fun x => x == p.key), Map.find? (u.hearth p.h).seqSeen (k % 2 ^ 110) = some p.seq)
  ∧ (comes .trec → Map.sorted s.l1 = true → ∃ u, exec (.trec n) s = .next u ∧ u.probes = cut ++ [pack 2 s.gcc]
      ∧ drops u (fun e => ∃ tp, e.tag = some (p.key, p.part, tp)) ∧ writes u (fun e => ∃ tp, e.tag = some (p.key, p.part, tp))
      ∧ p.tp ≤ Map.get 0 (u.hearth p.h).trecSeen (2 ^ 16 * p.part + p.key))
  ∧ (comes .zrec → Map.sorted s.l1 = true → ∃ u, exec (.zrec n) s = .next u ∧ u.probes = cut ++ [pack 1 (back (4096 * p.key))]
      ∧ drops u (fun e => ∃ a ∈ s.copyAtoms e.tgt, a / 128 = p.key) ∧ writes u (fun e => ∃ a ∈ s.copyAtoms e.tgt, a / 128 = p.key)
      ∧ ∀ k ∈ s.missKeys p.h (fun a => a / 128 == p.key), k % 2 ^ 110 ∈ (u.hearth p.h).noKeep)
  ∧ (let rs := s.recalls.map (fun r =>
        let left := r.missing.filter (fun h => h != p.h)
        if same r then { r with missing := left, done := left.isEmpty, doneAt := s.gcc } else r)
      -- a recall that no request waits for any more: that of a host snoop, or one whose request has left (R382, R386)
      let ended (r : Recall) : Bool := r.home != 64 && r.done && decide (6 ≤ r.own.1)
      ((∀ r ∈ rs, ended r = false) → comes .pack → exec (.pack n) s = .next { s with probes := cut, recalls := rs })
      ∧ (comes .pack → ∃ u, exec (.pack n) s = .next u ∧ u.probes = cut ∧ u.recalls = rs.filter (fun r => !ended r) ∧ u.mem = s.mem
        ∧ ∀ r ∈ rs, ended r = true → r.own.1 = 6 → ∀ x, Map.find? u.atoms r.key = some x → x.gone = true)))

/-- R348, R369, R372-R374, R380, R385-R387, R390: an evicted line leaves with its four atoms, and raises its slice's floor to the greatest RTS; a rebase lowers every offset by 2^22 and
keeps what it stands for; a fill lets the atom's requests go on, and one that the IOMMU refuses answers each that waits with a protection refusal (R359); a host response merges its dirty bytes and gives the line's atoms back; host
accesses set out at S scope, cut at 32-byte atoms, with the host stop's stamp, which does not fall (a relaxed BAR 1 write with a number of its own); a flit that must be sent again loses nothing.
What the model settles itself: host memory as requests (log 21) and marks of an evicted atom (log 22). -/
def Obligations.SlicesAndHost : Prop := ∀ (s : State) (atom line pa home die bad : Nat) (t : Atom) (b : BiSnp) (dirty : List (Nat × Byte)) (bs : List Byte)
    (v k : Nat) (rlx : Bool),
  let sl := s.slice (homeOf (32 * atom))
  let line4 := natsFrom (atom / 4 * 4) 4
  let there := (line4.filterMap (Map.find? s.atoms)).filter (fun t => !t.gone)
  let quiet := ∀ t ∈ there, t.fp = false
  let hs := s.slice home
  let stamp := max s.hts s.gcc
  let one (n : Nat) : Prop := 0 < n ∧ pa % 32 + n ≤ 32
  let req (src : Nat) : Req := { h := 255, part := 255, tgt := .dev pa, pts := stamp, scope := 2, src := src }
  let sent (r : Req) : Res := .next (State.sendReq { s with hts := stamp } r)
  let cxl := s.boot.up = true ∧ pa + 64 ≤ hbmBytes
  let rec_ : Probe := { kind := .recall, h := 0, key := 2 * line, seq := (t.seq + 1) % 256, lim := s.gcc + 100 }
  let bar1 := s.boot.up = true ∧ s.backed pa = true ∧ s.backed (pa + k - 1) = true ∧ pa + k - 1 < 2 ^ 40
  let top := (there.map (·.rts)).foldl max sl.floor
  (quiet → ∃ u, exec (.l2Evict atom) s = .next u ∧ u.mem = s.mem ∧ (u.slice (homeOf (32 * atom))).floor = top
      ∧ ∀ a ∈ line4, (u.atom (32 * a)).rts = top ∧ (u.atom (32 * a)).wts = top ∧ (u.atom (32 * a)).psn = (s.atom (32 * a)).psn
        ∧ (u.atom (32 * a)).ho = (s.atom (32 * a)).ho ∧ (u.atom (32 * a)).seq = (s.atom (32 * a)).seq ∧ ∀ x, Map.find? u.atoms a = some x → x.gone = true)
  ∧ (¬ quiet → exec (.l2Evict atom) s = .next s)
  ∧ (s.gcc < hs.base + 2 ^ 23 → exec (.sliceRebase home) s = .next s)
  ∧ (hs.base + 2 ^ 23 ≤ s.gcc → ∃ u, exec (.sliceRebase home) s = .next u ∧ (u.slice home).base = hs.base + 2 ^ 22
      ∧ (u.slice home).floor = hs.floor - 2 ^ 22 ∧ u.mem = s.mem
      ∧ ∀ a x, Map.find? s.atoms a = some x → homeOf (32 * a) = home → Map.find? u.atoms a = some { x with rts := x.rts - 2 ^ 22, wts := x.wts - 2 ^ 22 }
          ∧ (2 ^ 22 ≤ x.rts → (u.slice home).base + (x.rts - 2 ^ 22) = hs.base + x.rts))
  ∧ (Map.find? s.atoms atom = some t → t.fp = true → 2 ^ 56 ≤ 32 * atom → ∃ u, exec (.fillReturn atom none) s = .next u ∧ u.mem = s.mem
      ∧ (∀ x, Map.find? u.atoms atom = some x → x.fp = false)
      ∧ ∀ r ∈ s.reqs, (s.reqLoc r).addr / 32 = atom → r.due ≤ s.gcc → r ∉ u.reqs ∧ ∃ p ∈ u.reps, p.kind = .nack ∧ p.who = r.who ∧ p.h = r.h ∧ p.val = 0)
  ∧ (∀ host, Map.find? s.atoms atom = some t → t.fp = true → (host ≠ none ∨ 32 * atom < 2 ^ 56) → ∃ u, exec (.fillReturn atom host) s = .next u
      ∧ Map.find? u.atoms atom = some { t with fp := false } ∧ (32 * atom < 2 ^ 56 → u.mem = s.mem)
      ∧ (2 ^ 56 ≤ 32 * atom → Wrote s (32 * atom) (((host.getD []).take 32).map some) u))
  ∧ (s.bisnps.find? (fun q => q.line == line) = some b → ∃ u, exec (.birsp line dirty) s = .next u
      ∧ (∀ q ∈ u.bisnps, q.line ≠ line)
      ∧ (∀ x, (∀ q ∈ dirty, q.1 < 64 → 64 * line + q.1 ≠ x) → u.byte x = s.byte x)
      ∧ ((dirty.map (·.1)).Nodup → ∀ q ∈ dirty, q.1 < 64 → u.byte (64 * line + q.1) = q.2)
      ∧ (∀ a, a / 64 = line → (Map.find? s.atoms (a / 32)).isSome = true → (u.atom a).ho = if b.inv then 0 else min (s.atom a).ho 1))
  ∧ (2 ^ 56 ≤ 64 * line → Map.find? s.atoms (2 * line) = none → Map.find? s.atoms (2 * line + 1) = none → ∃ u, exec (.hostSnoop line) s = .next u
      ∧ u.mem = s.mem ∧ u.atoms = s.atoms ∧ ∀ k r, (s.thread k).resv = some r → r.unit / 4 = line → (u.thread k).resv = some { r with valid := false })
  ∧ (2 ^ 56 ≤ 64 * line → Map.find? s.atoms (2 * line) = some t → t.gone = false → t.fp = false → Map.find? s.atoms (2 * line + 1) = none →
      (∀ r ∈ s.recalls, r.key ≠ 2 * line) → ∃ u, exec (.hostSnoop line) s = .next u ∧ u.mem = s.mem
        ∧ ∀ h, h < 192 → { rec_ with h := h, due := s.gcc + transit (.home 48) (.hearth h) } ∈ u.probes)
  ∧ (64 * line < 2 ^ 56 → exec (.hostSnoop line) s = .next s)
  ∧ (cxl → one k → k ≤ 64 → exec (.hostCxlMemAccess pa (.read k)) s = sent { req 1 with kind := .rd, own := 1 })
  ∧ (cxl → exec (.hostCxlMemAccess pa .readOwn) s = sent { req 1 with kind := .rd, own := 2 })
  ∧ (cxl → one bs.length → exec (.hostCxlMemAccess pa (.write bs)) s = sent { req 1 with kind := .wr, bytes := bs.map some })
  ∧ (s.boot.up = true → pa + k ≤ hbmBytes → ∃ u, exec (.hostCxlMemAccess pa (.read k)) s = .next u
      ∧ u.reqs.length = s.reqs.length + ((pa + k + 31) / 32 - pa / 32))
  ∧ (∀ op, exec (.hostCxlMemAccess pa (.fetchAdd k v)) s = .next s ∧ exec (.bar1Access pa (.amo k op v) rlx) s = .next s)
  ∧ (bar1 → one k → exec (.bar1Access pa (.read k) rlx) s = sent { req 2 with kind := .rd })
  ∧ (bar1 → one bs.length → k = bs.length → exec (.bar1Access pa (.write bs) rlx) s = sent { req (if rlx then 4 else 2) with kind := .wr, bytes := bs.map some })
  ∧ (bar1 → (k = 4 ∨ k = 8) → pa % k = 0 → exec (.bar1Access pa (.fetchAdd k v) rlx) s
      = sent { req 2 with kind := .at, op := .add, width := k, a := v })
  ∧ (¬ (k = 4 ∨ k = 8) ∨ pa % k ≠ 0 → exec (.bar1Access pa (.fetchAdd k v) rlx) s = .next s)
  ∧ (exec (.flitError die bad none) s = .next (if bad = 0 then s
      else if bad = 1 then s.modDie die (fun d => { d with linkRepair := d.linkRepair + 1 })
      else s.modDie die (fun d => { d with linkRetrain := d.linkRetrain + 1 })))
  ∧ (∀ j x, s.regsInFlight[j]? = some x → ∃ u, exec (.flitError die bad (some j)) s = .next u ∧ u.regsInFlight[j]? = some { x with bad := true }
      ∧ u.regsInFlight.length = s.regsInFlight.length)

/-- R353, R354, R356, R365, R380: a walk that the last-level TLB of its die does not answer reads one entry at each level, at the entry's home (it
waits for a fill, for the atom's recall, for the host to give it back, and for the share of its partition, R407), from the lowest table that the pointer cache names: an entry that is not valid at level l is a fault of level l, a reserved bit or a
leaf at level 3 or 2 is a protection trap, subcause 8, a table or frame that is not backed subcause 1. A leaf of a device page (4 and 64 KiB at level 0, 2
and 16 MiB at level 1) enters the last-level TLB and the hearth's TLB with its permissions, A is set (D by a store that is permitted), no other byte of memory changes, and
the agent tries again.
R350, R359-R361: a completion of ATS that permits the access is cached in the die at the granted size and used; one that
denies it asks for the page under a PRG index when PRI is on, else it is a protection trap; a response asks the index's requests again, parks their agents with reason 2, or fails every
waiting agent of the partition and clears PRI; a request that the hardware made for itself is noted as refused (log 113). An invalidation drops every cached translation of its range and no other, and completes once the reads under it have
their data and the rest is on the link. A request over the link hands each access that it carries its part of the answer, when its partition's data-reply network is not in circuit mode (R113), and what was written stands in host memory (log 113);
an AtomicOp updates the host's unit and answers the old value that the completion brings; refused, it is subcause 3.
What the model settles itself: which entry of a full cache leaves (log 15), host memory as requests (log 21), low FRAME bits of window leaves (log
47), which accesses set A (log 81), shared PRG indices (log 97) and the mask of a fault entry (log 103). -/
def Obligations.Translation : Prop :=
  (∀ (s : State) (n : Nat) (w : Walk) (t2 t1 t0 e : Nat) (h t : Nat) (hit : TlbE) (ptr : PtrE),
  let p := w.part
  let va := w.va
  let d := dieOf w.h
  let root := s.preg p 0 / 2 ^ 16 % 2 ^ 36 * 2 ^ 16
  let at3 := root + 8 * (va / 2 ^ 39)
  let at2 := t2 + 8 * (va / 2 ^ 30 % 512)
  let at1 := t1 + 8 * (va / 2 ^ 21 % 512)
  let at0 := t0 + 8 * (va / 2 ^ 12 % 512)
  let takes (a : Nat) : Prop := s.gated a = false ∧ s.recalled (8, .nobody) a = false
  let there (a : Nat) : Prop := takes a ∧ ∃ m, Map.find? s.atoms (a / 32) = some m ∧ m.gone = false ∧ m.fp = false ∧ m.psn = false ∧ m.ho ≠ 2
  let sound (a : Nat) : Prop := there a ∧ (s.atom a).psn = false
  let points (a next : Nat) : Prop := sound a ∧ s.num a 8 = next + 1 ∧ next % 4096 = 0 ∧ next < 2 ^ 52 ∧ s.backed next = true
  let to3 := va < 2 ^ 52 ∧ ∀ x ∈ (s.die d).ptrs, x.has p va = false
  let to2 := to3 ∧ points at3 t2
  let to1 := to2 ∧ points at2 t1
  let to0 := to1 ∧ points at1 t0
  let ps := e / 2 ^ 6 % 4
  let lg := [12, 16, 21, 24].getD ps 0
  let frame := e / 2 ^ 12 % 2 ^ 40 * 2 ^ 12
  let leaf := e % 4 = 3 ∧ e / 2 ^ 8 % 16 = 0 ∧ e < 2 ^ 52 ∧ frame % 2 ^ lg = 0
  let st := (w.acc == .write || w.acc == .atomic) && e.testBit 2
  let entry : TlbE := { part := p, va := va / 2 ^ lg * 2 ^ lg, lg := lg, tgt := .dev frame, w := e.testBit 2, x := e.testBit 3, d := e.testBit 5 || st }
  let walk : Res := exec (.pageWalk n) s
  let seen (path : List (Nat × Nat)) : State := { path.foldl (fun v q => v.seen p q.2) s with walks := dropAt s.walks n }
  let p3 := [(3, at3)]
  let p2 := [(3, at3), (2, at2)]
  let p1 := [(3, at3), (2, at2), (1, at1)]
  let p0 := [(3, at3), (2, at2), (1, at1), (0, at0)]
  let lands (a : Nat) : Prop := (s.atom a).ho = 0 → ∃ v, walk = .next v ∧ v.walks = dropAt s.walks n ∧ (v.hearth w.h).tlb.head? = some entry
    ∧ (s.atsCount d < 65536 → (v.die d).tlb.head? = some entry)
    ∧ Wrote s a [some (s.byte a ||| (if st then 0x30 else 0x10))] v ∧ (w.who = .thread h t → (v.thread (tkey h t)).walking = false)
  let bad (path : List (Nat × Nat)) (c sub : Nat) : Res := .next ((seen path).walkBad w.who { cause := c, sub := sub, va := va })
  let fault (path : List (Nat × Nat)) (l : Nat) : Res := .next (((seen path).ptrsPut d p va path).walkFault w { va := va, level := l, reason := 0 })
  let share := s.budget p 0 = 0
  s.walks[n]? = some w → s.NoFrames →
  (tlbFind (s.die d).tlb p va = some hit → (w.acc = .read ∨ w.acc = .fetch ∨ hit.w = false ∨ hit.d = true) →
      walk = .next (State.walkLeaf { s with walks := dropAt s.walks n } w hit))
  ∧ (tlbFind (s.die d).tlb p va = none →
    (2 ^ 52 ≤ va → walk = bad [] 0x0C 1)
    ∧ (to3 → (s.gated at3 = true ∨ s.recalled (8, .nobody) at3 = true ∨ s.homeRoom at3 p = false) → walk = .next s)
    ∧ (to3 → share → takes at3 → (∀ m, Map.find? s.atoms (at3 / 32) = some m → m.gone = true) →
        walk = .next (if s.l2Room at3 then s.modAtom at3 (fun t => { t with fp := true }) else s))
    ∧ (share →
    (to3 → sound at3 → s.num at3 8 % 2 = 0 → walk = fault p3 3)
    ∧ (to2 → sound at2 → s.num at2 8 % 2 = 0 → walk = fault p2 2)
    ∧ (to1 → sound at1 → s.num at1 8 % 2 = 0 → walk = fault p1 1)
    ∧ (to0 → sound at0 → s.num at0 8 % 2 = 0 → walk = fault p0 0)
    ∧ (va < 2 ^ 52 → (s.die d).ptrs.find? (fun x => x.lv == 1 && x.has p va) = some ptr → ptr.next = t0 → sound at0 → s.num at0 8 % 2 = 0 →
        walk = fault [(0, at0)] 0)
    ∧ (to3 → takes at3 → (∃ m, Map.find? s.atoms (at3 / 32) = some m ∧ m.gone = false ∧ m.fp = false ∧ m.psn = true) → walk = bad [] 0x0F 0)
    ∧ (to3 → sound at3 → s.num at3 8 % 4 = 3 → walk = bad p3 0x0C 8)
    ∧ (to2 → sound at2 → s.num at2 8 % 4 = 3 → walk = bad p2 0x0C 8)
    ∧ (to0 → sound at0 → s.num at0 8 % 4 = 1 → s.backed (s.num at0 8 / 2 ^ 12 % 2 ^ 40 * 2 ^ 12) = true → walk = bad p0 0x0C 8)
    ∧ (to0 → sound at0 → s.num at0 8 = e → leaf → 1 < ps → walk = bad p0 0x0C 8)
    ∧ (to1 → sound at1 → s.num at1 8 = e → leaf → ps < 2 → walk = bad p1 0x0C 8)
    ∧ (to0 → sound at0 → s.num at0 8 = e → leaf → ps < 2 → s.backed frame = false → walk = bad p0 0x0C 1)
    ∧ (to0 → sound at0 → s.num at0 8 = e → leaf → ps < 2 → s.backed frame = true → lands at0)
    ∧ (to1 → sound at1 → s.num at1 8 = e → leaf → 1 < ps → s.backed frame = true → lands at1))))
  ∧ (∀ (s : State) (n size frame pasid addr len lo old : Nat) (rd wr : Bool) (r : AtsReq) (e : Ext) (data : List Byte),
  let u : State := { s with ats := dropAt s.ats n }
  let grants := if r.write then wr = true else rd = true
  let pri := (s.preg r.part 0x010).testBit 1
  let entry : AtsE := { die := dieOf r.walk.h, pasid := s.pasid r.part, iova := r.iova / 2 ^ size * 2 ^ size, lg := size
                        frame := frame / 2 ^ size * 2 ^ size, w := wr }
  let asks : Res := exec (.atsCompletion n rd wr frame size) s
  let mates := s.ats.filter (fun q => q.prg && q.ix == r.ix)
  let others := s.ats.filter (fun q => !(q.prg && q.ix == r.ix))
  let meets (a lg : Nat) : Prop := a < addr + len ∧ addr < a + 2 ^ lg
  let waits := (s.atsWaits pasid addr len).filter s.whoBusy
  let start (f : Ext) : Nat := tgtKey f.tgt * 32 + tgtOff f.tgt
  let carried := s.exts.filter (fun f => f.rq == e.rq)
  let first := (∀ f ∈ carried, lo ≤ start f) ∧ ∃ f ∈ carried, lo = start f
  -- bytes of host memory where the I/O stop holds no copy of the line
  let stands (v : State) (f : Ext) (bs : List Byte) : State := match f.tgt with
    | .host _ p i y => if (∀ m, Map.find? v.atoms (hostKey p i y / 32) = some m → m.gone = true) then v.setBytes (hostKey p i y) bs else v
    | _ => v
  let answers (v : State) (ok : Bool) (sub : Nat) (data : List Byte) : Res := .next (carried.foldl (fun v f =>
    let d := (data.drop (start f - lo)).take f.len
    (if ok = true ∧ f.kind = 1 then stands v f f.bytes else v).deliver f.who { ok := ok, data := d, val := natOfBytes d, cause := 0x0C, sub := sub }) { v with exts := s.exts.filter (fun f => f.rq != e.rq) })
  (s.ats[n]? = some r → r.denied = false → r.refused = false → r.sys = true →
    (grants → asks = .next (u.atsPut entry)) ∧ (¬ grants → asks = .next { s with ats := modAt (fun r => { r with refused := true }) s.ats n }))
  ∧ (s.ats[n]? = some r → r.denied = false → r.refused = false → r.sys = false →
    (grants → asks = .next ((u.atsPut entry).walkReady r.walk r.tlb) ∧ (u.atsPut entry).atsCache.head? = some entry)
    ∧ (¬ grants → pri = true → r.prg = false → s.ats.length ≤ 1024 → ∃ v x, asks = .next v ∧ v.mem = s.mem
        ∧ v.ats[n]? = some { r with denied := true, prg := true, ix := x }
        ∧ ((∃ q ∈ s.ats, q.prg = true ∧ s.prgSame q r = true ∧ q.ix = x) ∨ (x < 1024 ∧ ∀ q ∈ s.ats, q.prg = true → q.ix ≠ x)))
    ∧ (¬ grants → pri = false → asks = .next (u.walkBad r.walk.who { cause := 0x0C, sub := 2, va := r.walk.va })))
  ∧ (s.ats[n]? = some r → (r.denied = true ∨ r.refused = true) → asks = .next s)
  ∧ (s.ats[n]? = some r → r.prg = true → r.denied = true →
    (∃ v, exec (.prgSuccess n) s = .next v ∧ v.ats[n]? = some { r with prg := false, denied := false } ∧ v.mem = s.mem)
    ∧ exec (.prgInvalidRequest n) s = .next (State.prgSend (mates.foldl
        (fun v q => v.walkFault q.walk { va := q.walk.va, level := 0, reason := 2 }) { s with ats := others }))
    ∧ (∃ v, exec (.prgResponseFailure n) s = .next v ∧ (v.preg r.part 0x010).testBit 1 = false
        ∧ v.ats.length = (s.ats.filter (fun q => !(q.part == r.part && q.denied))).length
        ∧ ∀ h t, r.walk.who = .thread h t → ∃ f, (v.thread (tkey h t)).xf = some f ∧ f.cause = 0x0C ∧ f.sub = 2))
  ∧ (s.atsInvs.length < 32 → ∃ v, exec (.atsInvalidate pasid addr len) s = .next v ∧ v.mem = s.mem
      ∧ (waits = [] → s.atsDone < v.atsDone) ∧ (waits ≠ [] → { waits := waits } ∈ v.atsInvs)
      ∧ (∀ a, a ∈ v.atsCache ↔ a ∈ s.atsCache ∧ ¬ (a.pasid = pasid ∧ meets a.iova a.lg)))
  ∧ (32 ≤ s.atsInvs.length → exec (.atsInvalidate pasid addr len) s = .next s)
  ∧ (∀ ok c p i y, s.exts[n]? = some e → first → e.tgt = .host c p i y → e.kind ≠ 2 → s.phaseOpen e.part = false → exec (.pcieCompletion n ok data) s = answers s ok 2 data)
  ∧ (∀ ok, s.exts[n]? = some e → s.phaseOpen e.part = true → exec (.pcieCompletion n ok data) s = .next s ∧ ∀ ans, exec (.pcieAtomicCompletion n ans) s = .next s)
  ∧ (∀ c p i y, s.exts[n]? = some e → first → e.tgt = .host c p i y → e.kind = 2 → s.phaseOpen e.part = false →
      let m := old % 2 ^ (8 * e.len)
      exec (.pcieAtomicCompletion n (some old)) s = answers (stands s e (bytesOf (atNew homeAdd e.op e.len m e.a e.b) e.len)) true 3 (bytesOf m e.len)
      ∧ exec (.pcieAtomicCompletion n none) s = answers s false 3 (bytesOf 0 e.len)))

/-- R357, R365, R366: an INVCMD queues one command, when start-up has ended (R425); the oldest drops every entry of the hearths' and dies' TLBs that it covers and completes, in order,
once no access made under a dropped entry is on its way and no dirty atom of an L1 stands under it (until then it comes again). A waiting fault entry goes to FQBASE + 32 * (FQHEAD mod 2^LOG) while the ring has room, and FQHEAD advances. REPLAY of a token
that an agent holds resumes the agent, REFUSE traps it with 0x0C subcause 5 and the address; of a saved context it is kept for its restore; of no
token it is dropped.
What the model settles itself: replays of a saved context (log 74) and the mask of a fault entry (log 103). -/
def Obligations.FaultService : Prop := ∀ (s : State) (p count tid token h t : Nat) (c : InvC) (rest : List InvC) (f : FaultE) (fs : List FaultE) (k : FaultTok),
  let q := s.part p
  let pushed (c : InvC) : Res := .next (if s.boot.up = false then s else s.modPart p (fun q => { q with invIssued := (q.invIssued + 1) % 2 ^ 32, invs := q.invs ++ [c] }))
  let size := 2 ^ (s.preg p 0x038 % 32)
  let slot := s.preg p 0x030 / 2 ^ 12 % 2 ^ 40 * 2 ^ 12 + 32 * (q.fqHead % size)
  let token? := q.faultToks.find? (fun y => y.token == token)
  let drops (u : State) : Prop := ∀ g e, (e ∈ (u.hearth g).tlb ↔ e ∈ (s.hearth g).tlb ∧ c.covers p e = false)
    ∧ (e ∈ (u.die g).tlb ↔ e ∈ (s.die g).tlb ∧ c.covers p e = false)
  let c' : InvC := { c with dropped := c.dropped ++ (s.invEntries p c).filter (fun e => !c.dropped.contains e) }
  let left := (s.invDrop p c').loseHeld p c'
  let held := left.inFlight p c' = true ∨ left.invDirty p c' ≠ []
  (0 < count → count < 2 ^ 32 → exec (.invcmdRange p count) s
      = pushed { kind := 0, a := s.preg p 0x018 / 2 ^ 12 % 2 ^ 40 * 2 ^ 12, n := count })
  ∧ (count = 0 ∨ 2 ^ 32 ≤ count → exec (.invcmdRange p count) s = .next s)
  ∧ exec (.invcmdPartition p) s = pushed { kind := 1 }
  ∧ (tid < 2 ^ 16 → exec (.invcmdTensor p tid) s = pushed { kind := 2, a := tid })
  ∧ (2 ^ 16 ≤ tid → exec (.invcmdTensor p tid) s = .next s)
  ∧ (q.invs = [] → exec (.invalidationComplete p) s = .next s)
  ∧ (q.invs = c :: rest → held → ∃ u, exec (.invalidationComplete p) s = .next u ∧ drops u ∧ (u.part p).invs = c' :: rest ∧ u.mem = s.mem)
  ∧ (q.invs = c :: rest → ¬ held → ∃ u, exec (.invalidationComplete p) s = .next u ∧ drops u ∧ (u.part p).invs = rest
      ∧ (u.part p).invDone = (q.invDone + 1) % 2 ^ 32 ∧ u.mem = s.mem)
  ∧ (q.faults = f :: fs → size ≤ q.fqHead - s.preg p 0x048 → exec (.faultEntryWrite p) s = .next s)
  ∧ (q.faults = f :: fs → f.words.length = 4 → s.NoFrames → q.fqHead - s.preg p 0x048 < size → ∃ u, exec (.faultEntryWrite p) s = .next u
      ∧ (u.part p).fqHead = q.fqHead + 1 ∧ (u.part p).faults = fs
      ∧ (∀ i, i < 4 → u.num (slot + 8 * i) 8 = (f.words.getD i 0).toNat)
      ∧ (∀ a, (a < slot ∨ slot + 32 ≤ a) → u.byte a = s.byte a))
  ∧ (token? = none → exec (.replay p token) s = .next s ∧ exec (.replayRefuse p token) s = .next s)
  ∧ (token? = some k → k.who = .thread h t → (s.thread (tkey h t)).fault = some k.token →
    (∃ u, exec (.replay p token) s = .next u ∧ (u.thread (tkey h t)).fault = none ∧ (u.thread (tkey h t)).pc = (s.thread (tkey h t)).pc
      ∧ (∀ y ∈ (u.part p).faultToks, y.token ≠ token) ∧ u.mem = s.mem)
    ∧ (∀ v, v = (s.modPart p (fun q => { q with faultToks := q.faultToks.filter (fun y => y.token != k.token) })).modThread (tkey h t)
        (fun th => { th with fault := none }) → exec (.replayRefuse p token) s = .next (v.trapCc h t { cause := 0x0C, sub := 5, d8 := k.va })))
  ∧ (token? = some k → k.who = .group h t → (s.group (ckey h t)).fault = some k.token → ∃ u, exec (.replay p token) s = .next u
      ∧ (u.group (ckey h t)) = { s.group (ckey h t) with fault := none } ∧ (∀ y ∈ (u.part p).faultToks, y.token ≠ token))
  ∧ (token? = some k → s.holdsFault k = false →
    (∃ u, exec (.replay p token) s = .next u ∧ u.mem = s.mem ∧ u.threads = s.threads ∧ u.groups = s.groups
      ∧ ((u.part p).faultToks.find? (fun y => y.token == token)) = some { k with replayed := true })
    ∧ (∃ u, exec (.replayRefuse p token) s = .next u ∧ u.mem = s.mem ∧ u.threads = s.threads ∧ u.groups = s.groups
      ∧ ((u.part p).faultToks.find? (fun y => y.token == token)) = some { k with refused := !k.replayed }))

/-- R169, R171, R243, R245, R263: the queue whose turn it is runs its head word; a word that leaves a command, or that waits, ends the turn; a queue
whose last word has run passes the turn on; a word of another engine is a trap. The turn is made at an edge of the hearth's clock. The fetcher appends the next halfword of a script while the queue has room; from host or peer memory it
first asks for the atom (log 113). Of the copy commands that
may start and whose time has come the one with the least time, then the first decoded, starts, while fewer than four run.
R18, R370, R371, R375, R451: at a multiple of 1,024 of the GCC the taps that disagree are set right and counted; a hearth takes a new step there,
its clock starting again from the GCC, while no transfer phase of its partition is open, nor, where a ceiling comes or goes, one of any partition with hearths on its die. It takes its partition's step, or the
ceiling where that is lower, and never a step whose VBIN code is 0 (R424; which it takes where the ceiling's own code is 0 is the model's choice, log 115); at other times nothing changes. A hearth at step code k (16, 12, 8, 4 tenths of
1.6 GHz: ratios 1, 4/3, 2, 4) reads, n edges after it was set, s + ⌊n q⌋. The end of a timestamp wait makes a group's oldest access again.
What the model settles itself: the order of checks in an element (log 29), parked commands and their engine (log 45), when a turn passes (log 61) and
argument before stack (log 72). -/
def Obligations.EngineTurnsAndClocks : Prop :=
  (∀ (s : State) (h e q : Nat) (w : QWord) (r : List QWord) (i : Instr) (a n pc ip : Nat) (tg : Tgt) (k : Nat) (c : Cmd),
  let u : State := { s with focus := { h := h, t := e, q := q } }
  let f := s.eng q
  let hq := engHearth q
  let live (x : Nat × Nat × Cmd) : Prop := x.2.2.t ≤ s.gcc ∧ s.startable x.1 x.2.1 = true
  let cmds := s.copyCmds (engHearth (crecKey e))
  (s.turnOf h e = none → exec (.engineTurn h e) s = .next s)
  ∧ (s.turnOf h e = some q → f.words = w :: r → engTakes q w.w = some i → ∃ t, exec i u = .next t
      ∧ ((t.eng q).nextCmd ≠ f.nextCmd → exec (.engineTurn h e) s = .next t)
      ∧ ((t.eng q).words.length = f.words.length → exec (.engineTurn h e) s = .next t)
      ∧ (r = [] → (t.eng q).words = [] → (t.eng q).nextCmd = f.nextCmd → exec (.engineTurn h e) s = .next (t.passTurn q)))
  ∧ (s.turnOf h e = some q → f.words = [w] → engTakes q w.w = some .engineNop → f.stack.length ≤ 8 → ∃ t, exec (.engineTurn h e) s = .next t
      ∧ (t.eng q).words = [] ∧ (t.eng q).stack = f.stack ∧ (t.eng q).taken = (f.taken + 1) % 2 ^ 32 ∧ t.mem = s.mem
      ∧ Map.get 0 (t.hearth (engHearth q)).turn (engCode q) = ((if q < 4096 then engCtx q else 4) + 1) % 5)
  ∧ (s.turnOf h e = some q → f.words = w :: r → engTakes q w.w = none → ∃ t, exec (.engineTurn h e) s = .next t ∧
      (t = u.badWord q ∨ t = (u.badWord q).passTurn q))
  ∧ (f.fetch = none → exec (.scriptFetchAppend q) s = .next s)
  ∧ (128 ≤ f.words.length → 0 < n → f.fetch = some (a, n, pc, ip) → exec (.scriptFetchAppend q) s = .next s)
  ∧ (f.fetch = some (a, n, pc, ip) → 0 < n → f.words.length < 128 → f.fetchHead = false → f.fetchFault = none → f.fetchXf = none → s.engFree q = true →
      (∀ v, s.reach hq (s.engPart q) a .read = .ok tg → s.fetched hq tg 2 = .ok v → exec (.scriptFetchAppend q) s
        = .next (((s.dropLines hq (s.engPart q)).touchTgt tg).modEng q (fun e => { e with
          words := e.words ++ [{ w := BitVec.ofNat 16 v, pc := pc, ipos := ip }]
          fetch := if n = 1 then none else some (a + 2, n - 1, pc, ip) })) ∧ (tg.far = false → v = s.peekNum hq tg 2))
      ∧ (∀ x, s.reach hq (s.engPart q) a .read = .ok tg → s.fetched hq tg 2 = .absent x →
        exec (.scriptFetchAppend q) s = .next (s.askLine hq (s.engPart q) (engCtx q) x))
      ∧ (∀ cs sub, s.reach hq (s.engPart q) a .read = .bad cs sub →
        exec (.scriptFetchAppend q) s = .next (s.engFail q pc (.script q) { cause := cs, sub := sub, d8 := a })))
  ∧ (4 ≤ (cmds.filter (fun x => x.2.2.running)).length → exec (.copyCommandStart e) s = .next s)
  ∧ ((∀ x ∈ cmds, ¬ live x) → exec (.copyCommandStart e) s = .next s)
  ∧ ((cmds.filter (fun x => x.2.2.running)).length < 4 → (q, k, c) ∈ cmds → live (q, k, c) →
      (∀ x ∈ cmds, live x → (x.1, x.2.1) ≠ (q, k) → c.t < x.2.2.t ∨ (c.t = x.2.2.t ∧ c.no < x.2.2.no)) →
      (∀ x ∈ cmds, (x.1, x.2.1) = (q, k) → x.2.2 = c) →
      exec (.copyCommandStart e) s = .next (s.startCmd q k)))
  ∧ (∀ (s : State) (h d p g q n : Nat) (c : Cmd) (o : LaneOp),
  let hh := s.hearth h
  let new := s.stepWanted h
  (s.gcc % 1024 ≠ 0 → exec (.gccResync d) s = .next s ∧ exec (.clockStepChange h) s = .next s)
  ∧ (s.gcc % 1024 = 0 → (s.die d).gccLag ≠ 0 → exec (.gccResync d) s
      = .next (s.modDie d (fun x => { x with gccLag := 0, gccFix := x.gccFix + x.gccLag })))
  ∧ ((s.die d).gccLag = 0 → exec (.gccResync d) s = .next s)
  ∧ (new = hh.step → exec (.clockStepChange h) s = .next s)
  ∧ (s.partOfHearth h = some p → s.phaseOpen p = true → exec (.clockStepChange h) s = .next s)
  ∧ (s.gcc % 1024 = 0 → new ≠ hh.step → s.partOfHearth h = some p → s.phaseOpen p = false →
      (s.pstep p h < new ∨ hh.capped = true → s.diePhase (h / 48) = false) → exec (.clockStepChange h) s = .next (s.modHearth h (fun x =>
        { x with step := new, sync := s.gcc, cycBase := s.cycle h, capped := decide (s.pstep p h < new) })))
  ∧ (s.partOfHearth h = some p → (s.pstep p h < new ∨ hh.capped = true) → s.diePhase (h / 48) = true → exec (.clockStepChange h) s = .next s)
  ∧ (∀ k, s.partOfHearth h = some p →
      let own := s.preg p (0x210 + 8 * (h / 32)) / 2 ^ (2 * (h % 32)) % 4
      let top := s.ceiling (h / 48)
      let off (j : Nat) : Prop := natOfBytes ((s.boot.record.drop (48 + 4 * (h / 48) + j)).take 1) = 0
      (top ≤ own → new = own)
      ∧ (own < top → top ≤ k → k < 4 → ¬ off k → (∀ j, top ≤ j → j < k → off j) → new = k)
      ∧ (own < top → k < top → ¬ off k → (∀ j, k < j → j < 4 → off j) → new = max own k))
  ∧ (∀ num den k, (hh.step, num, den, k) ∈ [(0, 1, 1, 2), (1, 4, 3, 3), (2, 2, 1, 4), (3, 4, 1, 8)] →
      s.localGcc h = hh.sync + s.edges h * num / den ∧ s.guardBand h = k)
  ∧ (exec (.programTimestampWaitEnd (.cc h g)) s = .next s)
  ∧ ((s.group (ckey h g)).ops.find? (fun y => y.cls != .t && !y.done) = some o →
      exec (.programTimestampWaitEnd (.grp h g)) s = .next (s.laneProgress h g o.id))
  ∧ (List.find? (fun (y : Nat × Cmd) => y.2.running) (s.eng q).cmds = some (n, c) → c.kind.stream = none →
      exec (.programTimestampWaitEnd (.eng q)) s = exec (.engineCommandComplete q n) s))

/-- R72, R243, R245, R254, R264, R270-R275: a started command makes one element at a time and completes with its last: then its flags reach %fflags, after every result that is due by then, and a
written bank's version rises. One that has accessed host or peer memory releases at S scope: it completes once pts + 8 is no more than the local GCC (R65, R379). ACCCLR clears the 1,024 cells of its bank; ACCST of a row that is not aligned to 16 traps with 0x0D and the address; ZERO stores
zeros up to the next 16-byte boundary; an OSTRM element stores from the entry at the head of the queue. An element that stands at a page fault parks; one
that fails a check ends its command with a trap. A stream opens once the one before it on its queue has completed.
R11, R72, R73, R375-R377, R380, R420: an engine's new load or store goes to its home over the mesh as any other: a load past the L1, as an RD of the atom behind the timestamp
of those who have published the set that the command is bound to; a store as a WR of its bytes, with the epoch of its task, at D scope, S scope in host memory. It waits while an earlier access of the task
holds it back (R68), while its timestamp runs more than 64 cy ahead, and a store of a task that has trapped is held. The reply gives a load its bytes and leaves a store's in the hearth's L1; the queue's
timestamp follows both, and a refusal is a trap with the address.
What the model settles itself: free values and orders (log 5), accesses of a command one after another (log 11), the order of checks in an element
(log 29), where a misaligned row is found (log 43), the address of an engine record (log 46), SCLOSE with elements on the way (log 49), leases by
bytes (log 76) and corners of SPGEMM, REVAL, BPI slices (log 111). -/
def Obligations.EngineElements : Prop :=
  (∀ (s u : State) (q n b f : Nat) (d : List Byte) (i : Trap) (t : Tgt) (ent : List Word) (rest : List (List Word)) (oq : Nat),
  let c := s.cmd q n
  let g := (s.settleGroup (engHearth q) (engCtx q)).group (engKey q)
  let ended (v : State) : State := if !(v.cmd q n).ext || decide ((v.eng q).pts + 8 ≤ v.localGcc (engHearth q)) then v.completeCmd q n else v
  let made (k : Nat) (v : State) : State := let w := v.elemDone q n k; if w.allMade q n then ended w else w
  let held := u.onCmd q n (fun c => { c with part := 1, hold := c.hold ++ d })
  let len := unitLen (c.arg 0) c.elem (c.arg 1 % 2 ^ 40)
  let zva := (c.arg 0 + c.elem) % 2 ^ 64
  let sva := strmAddr c.args c.elem
  let sw := strmWidth (c.arg 3)
  let goes := Map.find? (s.eng q).cmds n = some c ∧ c.started = true ∧ c.pending = true ∧ c.fault = none ∧ s.cmdGo q = true ∧ c.xf = none
  let older := ∃ x ∈ (s.eng q).cmds, x.1 < n ∧ x.2.pending = true ∧ x.2.kind.stream = c.kind.stream
  (goes → c.kind.stream = none → (s.sizeCmd q n).allMade q n = true → exec (.engineCommandComplete q n) s = .next (ended (s.sizeCmd q n)))
  ∧ (q < 4096 → (s.eng q).items = [.cmd n] → ∀ v, v = s.completeCmd q n → (v.group (engKey q)).fflags = g.fflags ||| c.flags
      ∧ (c.kind = .accclr b ∨ c.kind = .accld b f → (v.group (engKey q)).verOf b = (g.verOf b + 1) % 2 ^ 16))
  ∧ (goes → c.kind = .accclr b → c.elem = 0 → c.total = 1 → c.ext = false → s.aliasCmd q c (bankSpan b true) = false → q < 4096 → b < 4 → (s.eng q).items = [.cmd n] →
      ∃ v, exec (.engineCommandComplete q n) s = .next v ∧ ((s.group (engKey q)).blk = none → v.mem = s.mem) ∧ (v.group (engKey q)).fflags = g.fflags ||| c.flags
        ∧ (∀ r k, r < 32 → k < 32 → (v.group (engKey q)).accAt b r k = 0)
        ∧ (∀ b' r k, b' ≠ b → b' < 4 → r < 32 → k < 32 → (v.group (engKey q)).accAt b' r k = g.accAt b' r k))
  ∧ (goes → c.kind = .zero → c.elem < c.arg 1 % 2 ^ 40 → s.copyRoom q len = true → c.part = 0 → c.xact.bound = none →
      s.reachBy (s.cmdPlace q n) (engHearth q) (s.engPart q) zva .write = .ok t →
      eWrite q n zva t (List.replicate len 0) (c.arg 1 / 2 ^ 40 % 4) s = .ok d u →
      exec (.engineCommandComplete q n) s = .next (made len (held.copied q n len)))
  ∧ (goes → c.kind = .accst b f → c.elem < 1024 → c.total = 1024 → s.aliasCmd q c (bankSpan b false) = false → accRow c % 16 ≠ 0 → q < 4096 →
      exec (.engineCommandComplete q n) s = .next s
      ∧ exec (.commandElementFault q n) s = .next (((s.trapFlags q n).onCmd q n (fun c => { c with dead := true })).engFail q c.pc (.cmd q n)
          { cause := 0x0D, d8 := accRow c }))
  ∧ (goes → c.kind.stream = none → (s.sizeCmd q n).allMade q n = false → cmdElem q n (s.sizeCmd q n) = .trap i u → i.cause = 0x0B →
      exec (.commandElementFault q n) s = .next (u.parkCmd q n i))
  ∧ (c.started = false → exec (.commandElementFault q n) s = .next s)
  ∧ (goes → c.kind = .ostrm oq → c.elem < c.total → q < 4096 → (s.ctx (engKey q)).st = .running → Map.get [] (s.group (engKey q)).oq oq = ent :: rest → sva % sw = 0 → c.part = 0 → c.xact.bound = none →
      s.reachBy (s.cmdPlace q n) (engHearth q) (s.engPart q) (sva % 2 ^ 64) .write = .ok t →
      eWrite q n sva t ((bytesOf (ent.getD (c.elem % 32) 0).toNat sw).take sw) (c.arg 3 % 4) s = .ok d u →
      exec (.streamElement q n) s = .next (
        let v := if c.elem % 32 = 31 ∨ c.total ≤ c.elem + 1 then held.modGroup (engKey q) (fun g => { g with oq := Map.put g.oq oq rest }) else held
        let w := v.elemDone q n 1
        if (w.cmd q n).total ≤ (w.cmd q n).elem then ended w else w))
  ∧ (goes → c.kind.stream ≠ none → (q < 4096 → (s.ctx (engKey q)).st = .running) → c.total ≤ c.elem → exec (.streamElement q n) s = .next (ended s))
  ∧ (c.kind.stream = none → exec (.streamOpen q n) s = .next s ∧ exec (.streamElement q n) s = .next s)
  ∧ (c.kind.stream ≠ none → older → exec (.streamOpen q n) s = .next s)
  ∧ (c.kind.stream ≠ none → ¬ older → s.startable q n = true → c.total ≠ 0 → Map.find? (s.eng q).cmds n = some c →
      exec (.streamOpen q n) s = .next (s.startCmd q n) ∧ ((s.startCmd q n).cmd q n).started = true))
  ∧ (∀ (s : State) (q n va cls len : Nat) (t : Tgt) (bs : List Byte) (g : Got),
  let port := s.cmdPort q n
  let x := port.x
  let now := s.localGcc port.h
  let held (st : Bool) (k : Nat) : Prop := s.cmdHeld q n { va := va, n := k, cls := cls, st := st } = true
  let bound := if t.shadowed then (s.cmd q n).setPts else 0
  let lp := max (if x.out = true ∨ x.got.isSome = true then port.pts else max port.pts bound) now
  let sp := max (if x.out = true ∨ x.got.isSome = true then port.pts else max port.pts (s.tgtPts t)) now
  let stops := q < 4096 ∧ (s.ctx (engKey q)).trapped.isSome = true ∧ x.bound = none
  let new := x.out = false ∧ x.got = none
  let load : Ans (List Byte) := eRead q n va t len cls s
  let store : Ans (List Byte) := eWrite q n va t bs cls s
  let req (k : ReqK) (pts scope : Nat) : Req := { kind := k, who := .cmd q n, h := port.h, part := port.p, ctx := ckey port.h port.c, pts := pts, scope := scope, cls := cls }
  let left (u : State) (r : Req) : Prop := ∃ home due, u.reqs = s.reqs ++ [{ r with home := home, due := due }] ∧ s.gcc ≤ due ∧ u.mem = s.mem ∧ (u.cmd q n).xact.out = true
  (held false len → load = .wait s) ∧ (held true bs.length → store = .wait s)
  ∧ (¬ held true bs.length → stops → store = .wait (s.onCmd q n (fun c => { c with held := some (t, bs, cls) })))
  ∧ (t.external = false → ¬ held false len →
    (now + 64 < lp → ∃ u, load = .wait u ∧ u.reqs = s.reqs ∧ u.mem = s.mem)
    ∧ (lp ≤ now + 64 → new → ∃ u, load = .wait u ∧ left u { req .rd lp (t.scopeOf 1) with tgt := t.atomBase })
    ∧ (lp ≤ now + 64 → x.got = some g → g.ok = true → ∃ u, load = .ok ((g.data.drop (tgtOff t)).take len) u ∧ u.mem = s.mem ∧ (u.cmd q n).xact = {}
        ∧ (u.eng q).pts = max (s.eng q).pts (max lp g.wts))
    ∧ (lp ≤ now + 64 → x.got = some g → g.ok = false → ∃ u, load = .trap { cause := g.cause, sub := g.sub, d8 := va } u))
  ∧ (t.external = false → ¬ held true bs.length → ¬ stops → s.l1Owner port.h t = port.h →
    (now + 64 < sp → ∃ u, store = .wait u ∧ u.reqs = s.reqs ∧ u.mem = s.mem)
    ∧ (sp ≤ now + 64 → new → ∃ u, store = .wait u
        ∧ left u { req .wr sp (t.scopeOf (t.scopeOf 1)) with tgt := t, bytes := bs.map some, epoch := (s.ctx (ckey port.h port.c)).epoch })
    ∧ (sp ≤ now + 64 → x.got = some g → g.ok = true → ∃ u, store = .ok [] u ∧ u.mem = s.mem ∧ (u.cmd q n).xact = {} ∧ (u.eng q).pts = max (s.eng q).pts (max sp g.wts)
        ∧ ∃ v : State, u.l1 = (v.l1Keep port.h t bs g.wts).l1 ∧ v.l1 = s.l1)
    ∧ (sp ≤ now + 64 → x.got = some g → g.ok = false → ∃ u, store = .trap { cause := g.cause, sub := g.sub, d8 := va } u)))

/-- R22-R24, R26, R28-R31, R44, R409: an idle context of a running partition takes the oldest record that admits it of the highest level
whose head window of 16 has one (`pickEntry`), unless a lower-numbered idle context would; the record leaves its ring, and the entry that comes into the head window is the one that stands in the ring's
memory (the 17th of the list is the window's edge: the model's choice, log 51). The records it looks at are read at their homes first (log 113), which sets A in
the page's leaf (R22, R356), and it waits for them. A record that R22 refuses leaves a trap record
of the scheduler that names it, with the address where its read failed (R417); another starts its task: thread c at CODE with x10 = FRAME, x11 = the record, every other
register 0, one split with every lane, empty queues, zero predicates, counters 0, barriers invalid, lane registers zero where ZREG or R31 asks, or is restored from
its image. A copy record starts on a copy engine with FRAME on the stack.
What the model settles itself: successors as read at the dispatch (log 19) and who finds a bad record (log 52). -/
def Obligations.Dispatches : Prop := ∀ (s : State) (p h c e l i cs sub : Nat) (w : ReadyE) (r : Record) (d : List Byte),
  let k := ckey h c
  let free := s.partOfHearth h = some p ∧ (s.part p).state = 1 ∧ s.idleCtx p h c = true
  let idle := free ∧ dispatchReady p (fun v => v.forCtx p h) s = .ok () s ∧ s.lowerCtx p k w = false ∧ pickEntry (s.forCtx p h) (s.levels p) = some (l, i, w)
  let freeE := (s.part p).state = 1 ∧ s.idleEng p e = true
  let eng := freeE ∧ dispatchReady p (fun v => v.forEng p e) s = .ok () s ∧ pickEntry (s.forEng p e) (s.levels p) = some (l, i, w)
    ∧ ∀ j, j < e → s.idleEng p j = true → s.forEng p j w = false
  let taken := s.ringTake p l i
  let read := taken.sysSeen p w.addr 64
  let done (u : State) : Res := .next (u.sysDone p)
  let cap := 2 ^ s.preg p 0x150
  let at16 := s.num (s.preg p 0x148 / 2 ^ 12 % 2 ^ 40 * 4096 + 16 * cap * l + 16 * ((Map.get 0 (s.part p).rhead l + 16) % cap)) 16
  let ring := dropAt (modAt (fun _ => { addr := at16 % 2 ^ 52, img := at16 / 2 ^ 64 % 2 ^ 13 }) (s.ring p l) 16) i
  let g := read.localGcc h
  let clear := r.kind.testBit 2 = true ∨ (read.group k).lastPart ≠ p ∨ (read.group k).everRan = false
  let refused : State := read.trapNoCtx p { cause := cs, sub := sub, agent := 7, d8 := if cs = 1 then 0 else w.addr } 0 w.addr
  (∀ f z, dispatchReady p f s = .ok () z → z = s)
  ∧ (∀ z, free → dispatchReady p (fun v => v.forCtx p h) s = .wait z → exec (.dispatch h c) s = .next z)
  ∧ (∀ z, freeE → dispatchReady p (fun v => v.forEng p e) s = .wait z → exec (.copyRecordDispatch p e) s = .next z)
  ∧ (s.NoFrames → ∀ x, (∀ q ∈ s.walkPath w.addr 3 (s.rootOf p), x < q.2 ∨ q.2 + 8 ≤ x) → read.byte x = s.byte x)
  ∧ (taken.ring p l = ring ∧ ∀ l', l' ≠ l → taken.ring p l' = s.ring p l')
  ∧ ((s.ctx k).st ≠ .idle → exec (.dispatch h c) s = .next s)
  ∧ (idle → read.readRecord p w.addr = .ok r → w.img = 0 → read.dbg p h 0xC0 = 0 → c < 4 →
      ∃ u, exec (.dispatch h c) s = .next u ∧ u.mem = read.mem ∧ u.ring p l = ring
        ∧ u.thread (tkey h c) = { pc := BitVec.ofNat 64 r.code, x := Map.set 0 (Map.set 0 [] 10 (BitVec.ofNat 64 r.frame)) 11 (BitVec.ofNat 64 r.addr),
                                  mask := 0xFFFFFFFF#32, ctx := c, st := .running, pts := g }
        ∧ (u.ctx k).st = .running ∧ (u.ctx k).task = r ∧ (u.ctx k).part = p ∧ (u.ctx k).seq = 0 ∧ (u.ctx k).bq = [] ∧ (u.ctx k).prq = []
        ∧ (u.ctx k).cmp = [] ∧ (u.ctx k).nb = [] ∧ (u.ctx k).merges = [] ∧ (u.ctx k).depth = 0 ∧ (u.ctx k).yxwin = 0 ∧ (u.ctx k).epoch = (read.ctx k).epoch
        ∧ (u.group k).p = [] ∧ (u.group k).k = [] ∧ (u.group k).iq = [] ∧ (u.group k).oq = [] ∧ (u.group k).fflags = 0 ∧ (u.group k).exited = 0
        ∧ (clear → (u.group k).v = []) ∧ (¬ clear → (u.group k).v = (read.group k).v)
        ∧ ∀ k', k' ≠ k → u.ctx k' = read.ctx k' ∧ u.group k' = read.group k')
  ∧ (idle → read.readRecord p w.addr = .ok r → 0 < w.img → exec (.dispatch h c) s = done (read.restoreImage p h c (w.img - 1)))
  ∧ (idle → read.readRecord p w.addr = .bad cs sub → w.img = 0 → exec (.dispatch h c) s = done refused)
  ∧ (s.sysRead p w.addr 64 = (some d, 0, 0) → s.readRecord p w.addr = if s.recordBad p d then .bad 1 0 else .ok (recordOf w.addr d))
  ∧ (d.length = 64 → (s.recordBad p d = true ↔ ((d.getD 20 0).toNat % 4 = 3 ∨ 8 ≤ (d.getD 20 0).toNat ∨ (∃ j, 40 ≤ j ∧ d.getD j 0 ≠ 0)
      ∨ s.affOk p ((recordOf 0 d).aff) = false ∨ (recordOf 0 d).code % 8 ≠ 0
      ∨ ((d.getD 20 0).toNat % 4 = 2 ∧ ((recordOf 0 d).frame = 0 ∨ 65535 < (recordOf 0 d).frame)))))
  ∧ ((s.eng (crecKey e)).crec.isSome = true → exec (.copyRecordDispatch p e) s = .next s)
  ∧ (eng → read.readRecord p w.addr = .ok r → exec (.copyRecordDispatch p e) s = done (read.modEng (crecKey e) (fun _ =>
      { crec := some (p, r), stack := [BitVec.ofNat 64 r.frame], fetch := some (r.code, 0, 0, 0), fetchHead := true
        pts := read.localGcc (engHearth (crecKey e)) })))
  ∧ (eng → read.readRecord p w.addr = .bad cs sub → exec (.copyRecordDispatch p e) s = done refused)

/-- R24, R25, R28, R65, R176, R325, R350, R409, R417: a push of the launch window has its record read for its level first, and a fan-out record is walked; a push takes the next position of its
ring while the ring has room (those at homes before those of the launch window), and
waits otherwise. A decrement takes the counter down by 1 at its home, when that is ready (log 113); the one that reaches 0 asks for the push of the successor, or for its walk; one that finds 0
leaves it and a trap record with 0x0C that names the successor, or, for a TJOIN, the thread's trap; a counter with no home in the package is changed by compare-and-swaps sent until one succeeds. A walk
translates every page of its list, then asks for the decrements of the listed successors
in order, one at a step, then of SUCC0 and SUCC1. A copy record completes when its script has ended and its commands have completed: its engine is free and its
successors are decremented.
What the model settles itself: successors as read at the dispatch (log 19), a list entry 0 (log 53) and clocks that reach timestamps (log 78). -/
def Obligations.RecordsComplete : Prop := ∀ (s : State) (p level e a n : Nat) (w : PushW) (d : Dec) (rest : List Dec) (f : Fan) (fans : List Fan) (r : Record)
    (b : List Byte) (t : Tgt) (l : Line),
  let cap := 2 ^ s.preg p 0x150
  let waits := (s.part p).pushes.filter (fun q => q.level == level)
  let chosen := waits.find? (fun q => !q.window) = some w ∨ (waits.find? (fun q => !q.window) = none ∧ waits.head? = some w)
  let unread := (s.part p).pushes.find? (fun q => q.level == 256)
  let push : Res := exec (.readyPush p level) s
  let slot := s.preg p 0x148 / 2 ^ 12 % 2 ^ 40 * 4096 + 16 * cap * level + 16 * ((Map.get 0 (s.part p).rhead level + (s.ring p level).length) % cap)
  let asked (who : Who) (l : List Nat) : List Dec := (l.filter (· != 0)).map (fun y => { succ := y, who := who })
  let done (u : State) : Res := .next (u.sysDone p)
  let t0 := s.modPart p (fun q => { q with decs := rest })
  let va := d.succ + 16
  let dec : Res := exec (.joinDecrement p) s
  let ready := (s.part p).decs = d :: rest ∧ sysReady p va 16 .read s = .ok () s
  let home := ready ∧ s.sysXl p va .atomic = .ok t ∧ s.homeAddr t true = some a ∧ sysReady p va 16 .atomic s = .ok () s
  let far := ready ∧ s.sysXl p va .atomic = .ok t ∧ s.homeAddr t true = none ∧ (∃ x y, s.sysRead p va 16 = (some b, x, y)) ∧ natOfBytes (b.take 4) = n
  let stored := ((t0.sysWalked p va .atomic).seen p a).sysWrite a (bytesOf (n - 1) 4)
  let walk : Res := exec (.fanoutWalk p) s
  let fanned := s.sysSeen p f.addr 64
  let less (u : State) : State := u.modPart p (fun q => { q with fans := q.fans.drop 1 })
  let at_ (u : State) (x : Record × Nat) : State := u.modPart p (fun q => { q with fans := modAt (fun f => { f with pos := some x }) q.fans 0 })
  let refused (u : State) (ra c y va : Nat) : Res := done ((less u).trapNoCtx p { cause := c, sub := y, agent := 7, d8 := if c = 1 then 0 else va } 0 ra)
  (cap ≤ (s.ring p level).length → unread = none → push = .next s)
  ∧ (waits = [] → unread = none → push = .next s)
  ∧ (∀ x y, unread = some w → sysReady p (w.addr + 20) 2 .read s = .ok () s → s.sysRead p (w.addr + 20) 2 = (some b, x, y) → ∃ u pre post, push = .next u
      ∧ (s.part p).pushes = pre ++ w :: post ∧ w ∉ pre
      ∧ ((b.getD 0 0).toNat % 4 = 2 → (u.part p).pushes = pre ++ post ∧ (u.part p).fans = (s.part p).fans ++ [{ addr := w.addr }]
          ∧ (u.part p).accepted = ((s.part p).accepted + 1) % 2 ^ 32)
      ∧ ((b.getD 0 0).toNat % 4 ≠ 2 → (u.part p).pushes = pre ++ { w with level := (b.getD 1 0).toNat } :: post ∧ (u.part p).fans = (s.part p).fans))
  ∧ ((s.ring p level).length < cap → unread = none → chosen → s.NoFrames → ∃ u, push = .next u ∧ u.ring p level = s.ring p level ++ [{ addr := w.addr }]
      ∧ u.num slot 16 = w.addr % 2 ^ 128 ∧ (∀ y, (y < slot ∨ slot + 16 ≤ y) → u.byte y = s.byte y)
      ∧ (u.part p).pushes.length + 1 = (s.part p).pushes.length
      ∧ (u.part p).accepted = if w.window then ((s.part p).accepted + 1) % 2 ^ 32 else (s.part p).accepted)
  ∧ ((s.part p).decs = [] → dec = .next s)
  ∧ (∀ z, (s.part p).decs = d :: rest → sysReady p va 16 .read s = .wait z → dec = .next z)
  ∧ (∀ c y, ready → s.sysXl p va .atomic = .bad c y → dec = done (t0.decFail p d c y))
  ∧ (home → (s.atom a).psn = true → dec = done (t0.decFail p d 0x0F 0))
  ∧ (home → (s.atom a).psn = false → natOfBytes ((s.bytes a 16).take 4) = 0 → dec = done (t0.decFail p d 0x0C 7))
  ∧ (home → (s.atom a).psn = false → s.bytes a 16 = b → natOfBytes (b.take 4) = n → 0 < n → ∃ u, dec = .next u ∧ u.mem = stored.mem
      ∧ (s.NoFrames → Wrote ((t0.sysWalked p va .atomic).seen p a) a ((bytesOf (n - 1) 4).map some) u) ∧ (u.part p).decs = rest
      ∧ (u.part p).pushes = (s.part p).pushes ++ (if n = 1 ∧ (b.getD 4 0).toNat % 4 ≠ 2 then [{ addr := d.succ, level := (b.getD 5 0).toNat }] else [])
      ∧ (u.part p).fans = (s.part p).fans ++ (if n = 1 ∧ (b.getD 4 0).toNat % 4 = 2 then [{ addr := d.succ }] else []))
  ∧ (far → 0 < n → s.lineAt casPlace t = none → s.lineOut casPlace t = false → dec
      = .next (s.sendExt { h := casPlace, p := p, who := .line casPlace t.atomBase, pts := s.gcc }
          { tgt := t, va := va, kind := 2, len := 4, op := .cas, a := n, b := n - 1 }).1)
  ∧ (far → 0 < n → s.lineAt casPlace t = some l → l.bad = none → natOfBytes (l.data.take 4) ≠ n → dec = done (s.dropLines casPlace p))
  ∧ (far → 1 < n → s.lineAt casPlace t = some l → l.bad = none → natOfBytes (l.data.take 4) = n → ∃ u, dec = .next u ∧ (u.part p).decs = rest ∧ u.mem = s.mem)
  ∧ (∀ c y h t, (d.who = .thread h t → d.join = true → t0.decFail p d c y = t0.modThread (tkey h t) (fun th => { th with xf := some { cause := c, sub := y, va := d.succ } }))
      ∧ (d.join = false → t0.decFail p d c y = t0.trapNoCtx p { cause := c, sub := y, agent := 7, d8 := d.succ } 0 d.succ))
  ∧ ((s.part p).fans = [] → walk = .next s)
  ∧ ((s.part p).fans = f :: fans → f.pos = none → sysReady p f.addr 64 .read s = .ok () s →
    (∀ c y, s.readRecord p f.addr = .bad c y → fanned.readRecord p f.addr = .bad c y → walk = refused fanned f.addr c y f.addr)
    ∧ (s.readRecord p f.addr = .ok r → fanned.readRecord p f.addr = .ok r → sysAllReady p .read ((listPages r.code r.frame).map (fun va => (va, 0))) s = .ok () s →
      ((∀ va ∈ listPages r.code r.frame, ∃ t, fanned.sysXl p va .read = .ok t) → walk = done (at_ fanned (r, 0)))
      ∧ (∀ pre post va c y, listPages r.code r.frame = pre ++ va :: post → (∀ v ∈ pre, ∃ t, fanned.sysXl p v .read = .ok t) →
          fanned.sysXl p va .read = .bad c y → walk = refused fanned r.addr c y va)))
  ∧ (∀ i, (s.part p).fans = f :: fans → f.pos = some (r, i) →
    (r.frame ≤ i → r.succ0 % 64 = 0 → r.succ1 % 64 = 0 → ∃ u, walk = .next u ∧ u.mem = s.mem ∧ (u.part p).fans = fans
        ∧ (u.part p).decs = (s.part p).decs ++ asked f.who [r.succ0, r.succ1])
    ∧ (i < r.frame → sysReady p (r.code + 8 * i) 8 .read s = .ok () s → (∃ x y, s.sysRead p (r.code + 8 * i) 8 = (some b, x, y)) → natOfBytes b = n →
        (n % 64 = 0 → ∃ u, walk = .next u ∧ (u.part p).fans = { f with pos := some (r, i + 1) } :: fans ∧ (u.part p).decs = (s.part p).decs ++ asked f.who [n])
        ∧ (n % 64 ≠ 0 → walk = done ((at_ (s.sysSeen p (r.code + 8 * i) 8) (r, i + 1)).trapNoCtx p { cause := 0x0D, agent := 7, d8 := n } 0 r.addr)))
    ∧ (∀ c y, i < r.frame → sysReady p (r.code + 8 * i) 8 .read s = .ok () s → s.sysRead p (r.code + 8 * i) 8 = (none, c, y) →
        walk = refused s r.addr c y (r.code + 8 * i)))
  ∧ ((s.eng (crecKey e)).crec = none → exec (.copyRecordComplete e) s = .next s)
  ∧ ((s.eng (crecKey e)).crec = some (p, r) → (s.eng (crecKey e)).quiet = false → exec (.copyRecordComplete e) s = .next s)
  ∧ ((s.eng (crecKey e)).crec = some (p, r) → (s.eng (crecKey e)).quiet = true → (s.eng (crecKey e)).pts ≤ s.gcc → r.succ0 % 64 = 0 → r.succ1 % 64 = 0 →
      ∃ u, exec (.copyRecordComplete e) s = .next u ∧ u.eng (crecKey e) = {} ∧ (u.part p).decs = (s.part p).decs ++ asked .nobody [r.succ0, r.succ1]
        ∧ u.mem = s.mem ∧ u.ctxs = s.ctxs ∧ u.threads = s.threads ∧ u.groups = s.groups)

/-- R400, R411-R413: with no pre-emption in progress a record that no idle context admits is served by the running context of the partition that admits it with the least
PRIO, then the latest dispatch, then the highest number, that nothing shelters: it is signalled, with an image slot of its own, where the priorities differ by PTH or more and a
slot is free; with none free the pair counts once. The signal stops the context when it arrives, or is dropped where a debugger has halted it by then (R331); a stopped context writes its dirty lines back, and once its writes are answered
its record goes ahead of its level with its slot, and the context falls idle.
What the model settles itself: the places in an image (log 10) and private memory of an image (log 55). -/
def Obligations.PreEmptions : Prop := ∀ (s : State) (p h c : Nat) (r : Record) (k t : Nat),
  let q := s.part p
  let x := s.ctx k
  let pth := s.preg p 0x128 / 2 ^ 16 % 256
  let may (j : Nat) : Prop := j < 768 ∧ (s.ctx j).st = .running ∧ (s.ctx j).part = p ∧ s.admitsHearth p r (j / 4) = true ∧ s.sheltered j = false
    ∧ (s.ctx j).task.prio < r.prio
  let before (j : Nat) : Prop := x.task.prio < (s.ctx j).task.prio ∨ (x.task.prio = (s.ctx j).task.prio ∧ ((s.ctx j).disp < x.disp ∨ (x.disp = (s.ctx j).disp ∧ j < k)))
  let go := q.state = 1 ∧ q.preempt = none ∧ s.hungry p = some r ∧ s.preemptTarget p r = some k
  let u := s.settleGroup h c
  let me := ckey h c
  let y := u.ctx me
  let stopped := u.groupStopped h c = true ∧ u.threadsStopped h c = true ∧ u.enginesStopped h c = true
  let v := (natsFrom 0 4).foldl (fun s e => s.settleQueue (qkey h c e)) u
  (s.preemptTarget p r = some k → may k ∧ ∀ j, may j → j = k ∨ before j)
  ∧ (s.preemptTarget p r = none → ∀ j, ¬ may j)
  ∧ ((q.state ≠ 1 ∨ q.preempt.isSome = true ∨ s.hungry p = none) → exec (.preemptSignal p) s = .next s)
  ∧ (go → r.prio < x.task.prio + pth → exec (.preemptSignal p) s = .next s)
  ∧ (go → x.task.prio + pth ≤ r.prio → s.preg p 0x170 ≤ q.slots.length → ∃ w, exec (.preemptSignal p) s = .next w ∧ w.ctxs = s.ctxs
      ∧ (w.part p).supp = q.supp + (if q.suppPair = some (r.addr, k) then 0 else 1) ∧ (w.part p).suppPair = some (r.addr, k) ∧ (w.part p).preempt = none)
  ∧ (go → x.task.prio + pth ≤ r.prio → q.slots.length < s.preg p 0x170 → ∃ w n, exec (.preemptSignal p) s = .next w ∧ (w.part p).preempt = some k
      ∧ w.ctx k = { x with signal := some (s.gcc + s.signalCost p), slot := some n } ∧ (x.slot = some n ∨ (x.slot = none ∧ n < s.preg p 0x170 ∧ Map.find? q.slots n = none)) ∧ w.mem = s.mem)
  ∧ (y.signal = none → exec (.preemptStop h c) s = .next u)
  ∧ (y.signal = some t → u.gcc < t → exec (.preemptStop h c) s = .next u)
  ∧ (y.signal = some t → t ≤ u.gcc → y.trapped = none → y.halted = true → ∃ w, exec (.preemptStop h c) s = .next w
      ∧ (w.ctx me).signal = none ∧ (w.ctx me).st = y.st ∧ (w.part y.part).preempt ≠ some me ∧ w.mem = u.mem)
  ∧ (y.signal = some t → t ≤ u.gcc → y.trapped = none → y.halted = false → y.st = .running →
      exec (.preemptStop h c) s = .next (u.modCtx me (fun x => { x with st := .stopping })))
  ∧ (y.signal = some t → t ≤ u.gcc → y.trapped = none → y.halted = false → y.st = .stopping → ¬ stopped → exec (.preemptStop h c) s = .next u)
  ∧ (y.signal = some t → t ≤ u.gcc → y.trapped = none → y.halted = false → y.st = .stopping → stopped →
    ((v.ctx me).trapped.isSome = true → exec (.preemptStop h c) s = .next v)
    ∧ ((v.ctx me).trapped = none → v.dirtyOf me ≠ [] → exec (.preemptStop h c) s = .next ((v.dirtyOf me).foldl State.writeBack v))
    ∧ ((v.ctx me).trapped = none → v.dirtyOf me = [] → v.writesAnswered me = false → exec (.preemptStop h c) s = .next v)
    ∧ ((v.ctx me).trapped = none → v.dirtyOf me = [] → v.writesAnswered me = true → ∃ w, exec (.preemptStop h c) s = .next w ∧ (w.ctx me).st = .idle ∧ (w.part y.part).preempt = none
        ∧ w.ring y.part y.task.prio = { addr := y.task.addr, img := y.slot.getD 0 + 1 } :: v.ring y.part y.task.prio))

/-- R416, R418, R419: the oldest trap record goes to slot TQHEAD of its ring while the ring has room, and TQHEAD advances; a record of the present cycle waits, for it may
give way to one of a lower agent code. A wait that lasts longer than 65,536 WDLIM cycles stops its task with 0x18 and the wait's code (of a lane word with its executing lanes, where no thread's has passed too), also of a thread whose instruction
names no wait (6 for an atomic that the host serves as a CAS loop, 5 for a page request without an answer, else a code that R417 does not list: the model's choice,
notes/assumptions/5), be its context about to stop; WDLIM 0 sets no limit. RESUME of a breakpoint or watchdog trap frees the task: behind the
BRK or EBREAK, at the watched word or instruction with its comparator suppressed once, or at its wait; every wait of the context begins again. Other tokens are dropped.
What the model settles itself: waits after a restore (log 104). -/
def Obligations.TrapService : Prop := ∀ (s : State) (p h t tok : Nat) (r : TrapRec) (rest : List TrapRec) (w : Wait) (k : TrapTok),
  let q := s.part p
  let size := 2 ^ (s.preg p 0x1A0 % 32)
  let slot := s.preg p 0x198 / 2 ^ 12 % 2 ^ 40 * 4096 + 128 * (q.tqHead % size)
  let th := s.thread (tkey h t)
  let x := s.ctx (ckey h th.ctx)
  let limit := 65536 * (s.preg x.part 0x128 / 2 ^ 24 % 2 ^ 16)
  let watched := (x.st = .running ∨ x.st = .stopping) ∧ x.trapped = none ∧ x.halted = false
  let codes : List (WaitK × Nat) := [(.ppop, 0), (.cmpwait, 1), (.nbwait, 2), (.causeway, 3), (.version, 4), (.page, 5), (.cas, 6)]
  let freed := (s.modPart p (fun q => { q with trapToks := q.trapToks.filter (fun y => y.token != tok) })).modCtx (ckey k.h k.c) (fun x => { x with trapped := none })
  let held := q.trapToks.find? (fun y => y.token == tok) = some k
  let go := freed.rewait k.h k.c
  let again (x : Option Wait) : Option Wait := x.map (fun x => { x with since := s.gcc })
  let paged := ∃ a ∈ s.ats, a.prg = true ∧ a.walk.who = .thread h t
  let looped := ∃ e ∈ s.exts, e.loops = true ∧ e.who = .thread h t
  let gr := s.group (ckey h t)
  let b := gr.blk.getD {}
  let limitG := 65536 * (s.preg (s.ctx (ckey h t)).part 0x128 / 2 ^ 24 % 2 ^ 16)
  let past := (r.words.getD 2 0).toNat < s.gcc
  (q.traps = [] → exec (.trapRecordWrite p) s = .next s)
  ∧ (q.traps = r :: rest → (size ≤ q.tqHead - s.preg p 0x1B0 ∨ ¬ past) → exec (.trapRecordWrite p) s = .next s)
  ∧ (q.traps = r :: rest → q.tqHead - s.preg p 0x1B0 < size → past → r.words.length = 16 → s.NoFrames → ∃ u, exec (.trapRecordWrite p) s = .next u
      ∧ (∀ i, i < 16 → u.num (slot + 8 * i) 8 = (r.words.getD i 0).toNat) ∧ (∀ a, (a < slot ∨ slot + 128 ≤ a) → u.byte a = s.byte a)
      ∧ (u.part p).tqHead = q.tqHead + 1 ∧ (u.part p).traps = rest)
  ∧ (th.wait = none → th.fault = none → th.since = 0 → exec (.watchdogExpire (.thread h t)) s = .next s)
  ∧ (∀ n, th.wait = none → th.fault = none → th.since = n + 1 → (limit = 0 ∨ s.gcc - n ≤ limit ∨ ¬ watched) → exec (.watchdogExpire (.thread h t)) s = .next s)
  ∧ (∀ n, th.wait = none → th.fault = none → th.since = n + 1 → limit ≠ 0 → limit < s.gcc - n → watched → th.st = .running → ∃ code, code < 16
      ∧ (looped → code = 6) ∧ (¬ looped → paged → code = 5)
      ∧ exec (.watchdogExpire (.thread h t)) s = .next (s.takeTrap h th.ctx
        { cause := 0x18, mask := th.mask.toNat, slot := th.slot, pc := th.pc.toNat, d8 := code, who := .thread h t }))
  ∧ (th.fault = none → th.wait = some w → (limit = 0 ∨ s.gcc - w.since ≤ limit ∨ ¬ watched) → exec (.watchdogExpire (.thread h t)) s = .next s)
  ∧ (∀ code, th.fault = none → th.wait = some w → limit ≠ 0 → limit < s.gcc - w.since → watched → th.st = .running → (w.kind, code) ∈ codes →
      exec (.watchdogExpire (.thread h t)) s = .next (s.takeTrap h th.ctx
        { cause := 0x18, mask := th.mask.toNat, slot := th.slot, pc := th.pc.toNat, d8 := code, who := .thread h t }))
  ∧ (∀ code, gr.fault = none → gr.wait = some w → limitG ≠ 0 → limitG < s.gcc - w.since → s.watched (ckey h t) = true → (w.kind, code) ∈ codes →
      s.anyThreadLate h t = false → exec (.watchdogExpire (.group h t)) s = .next (s.takeTrap h t
        { cause := 0x18, agent := 1, mask := s.wordLanes h t, slot := b.slot, pos := some (blkPos b), d8 := code, who := .group h t }))
  ∧ (gr.fault = none → gr.wait = none → exec (.watchdogExpire (.group h t)) s = .next s)
  ∧ (q.trapToks.find? (fun y => y.token == tok) = none → exec (.tactResume p tok) s = .next s)
  ∧ (held → k.cause ≠ 0x17 → k.cause ≠ 0x18 → exec (.tactResume p tok) s = .next s)
  ∧ (held → k.cause = 0x17 → k.who = .thread h t → exec (.tactResume p tok) s = .next (go.modThread (tkey h t) (fun th =>
      if k.sub = 0 then { th with pc := th.pc + BitVec.ofNat 64 (th.suppress.headD 4), suppress := [], instret := th.instret + 1, since := 0 }
      else { th with suppress := th.suppress ++ [8 * k.sub + k.d8] })))
  ∧ (held → k.cause = 0x17 → k.sub ≠ 0 → k.who = .group h t → exec (.tactResume p tok) s
      = .next (go.modGroup (ckey h t) (fun g => { g with suppress := g.suppress ++ [8 * k.sub + k.d8] })))
  ∧ (held → k.cause = 0x17 → k.sub = 0 → k.who = .group h t → exec (.tactResume p tok) s = .next (State.wordDone { go with focus := { h := h, t := t } }))
  ∧ (held → k.cause = 0x18 → exec (.tactResume p tok) s = .next go)
  ∧ (∀ j, j ∈ s.liveThreads k.h k.c → let y := s.thread (tkey k.h j); go.thread (tkey k.h j) = { y with wait := again y.wait, since := if y.since = 0 then 0 else s.gcc + 1 })
  ∧ (let y := s.group (ckey k.h k.c); go.group (ckey k.h k.c) = { y with wait := again y.wait })
  ∧ (∀ e n m, e < 4 → (n, m) ∈ (go.eng (qkey k.h k.c e)).cmds → m.since = s.gcc)
  ∧ (go.ctx (ckey k.h k.c)).trapped = none ∧ go.mem = s.mem

/-- R27, R112, R400, R419-R421, R437, R445: a dump writes the trapped task's pending stores, a header and 160 bytes for each, and no other byte, before the action that the
same write names; an unknown token, a reserved action and the resume of a cause that allows none drop the write. A kill of a context of a
running or draining partition, by the driver or for a token, empties its engines, withdraws its arrivals and what it has asked of the scheduler, forgets its trap and gives it a new epoch; a kill that is in progress is left. A
kill of all does so for every context of the partition, whose STATE is 11. Once the killed context's writes are answered it is idle, its L1 lines are dropped, its
image slot is free and DONE has advanced if the kill counted; the last one ends the kill of the partition, which counts too. The pending stores of a dump, and
their order, are those of State.pendingStores (the model's choice, notes/assumptions/58); what a kill withdraws from the scheduler is log 99's.
What the model settles itself: what a kill drops (log 57). -/
def Obligations.Kills : Prop := ∀ (s : State) (p h c tok act : Nat) (k : TrapTok) (r : KillP),
  let q := s.part p
  let key := ckey h c
  let x := s.ctx key
  let held := q.trapToks.find? (fun y => y.token == tok) = some k
  let dropped := s.modPart p (fun q => { q with trapToks := q.trapToks.filter (fun y => y.token != tok) })
  let busy := ∃ y ∈ q.kills, y.h = h ∧ y.c = c
  let base := s.preg p 0x1C0 / 2 ^ 6 % 2 ^ 46 * 64
  let es := s.pendingStores (ckey k.h k.c)
  let quiet := s.writesAnswered key = true
  let found := q.kills.find? (fun y => y.h == h && y.c == c) = some r
  let killed (h c : Nat) (u : State) : Prop := (u.ctx (ckey h c)).st = (if (s.ctx (ckey h c)).st = .idle then .idle else .killing)
    ∧ (u.ctx (ckey h c)).epoch = ((s.ctx (ckey h c)).epoch + 1) % 256 ∧ (u.ctx (ckey h c)).signal = none
    ∧ (∀ e, e < 4 → (u.eng (qkey h c e)).words = [] ∧ (u.eng (qkey h c e)).cmds = [] ∧ (u.eng (qkey h c e)).fetch = none)
    ∧ (u.ctx (ckey h c)).rx = [] ∧ (∀ y ∈ (u.part p).decs, s.ofCtx (ckey h c) y.who = false)
    ∧ (∀ y ∈ (u.part p).trapToks, ¬ (y.h = h ∧ y.c = c)) ∧ (∀ i ch, (i, ch) ∈ u.chans → ckey h c ∉ ch.here ∧ ckey h c ∉ ch.early)
  (q.trapToks.find? (fun y => y.token == tok) = none → exec (.tactDump p tok act) s = .next s ∧ exec (.tactKillContext p tok) s = .next s
    ∧ exec (.tactKillPartition p tok) s = .next s)
  ∧ (held → (act = 3 ∨ (act = 0 ∧ k.cause ≠ 0x17 ∧ k.cause ≠ 0x18)) → exec (.tactDump p tok act) s = .next s)
  ∧ (held → (act = 0 → k.cause = 0x17 ∨ k.cause = 0x18) → act < 3 → tok < 2 ^ 64 → es.length < 2 ^ 64 → s.gcc < 2 ^ 64 → s.NoFrames → ∃ u v, u.num base 8 = tok
      ∧ u.num (base + 8) 8 = es.length ∧ u.num (base + 16) 8 = s.gcc
      ∧ (∀ i e, es[i]? = some e → u.bytes (base + 64 + 160 * i) 160 = e.entry i)
      ∧ (∀ a, (a < base ∨ base + 64 + 160 * es.length ≤ a) → u.byte a = s.byte a)
      ∧ u.parts = s.parts ∧ u.ctxs = s.ctxs ∧ u.l1 = s.l1
      ∧ exec (.tactDump p tok act) s = .next v
      ∧ exec (if act = 0 then .tactResume p tok else if act = 1 then .tactKillContext p tok else .tactKillPartition p tok) u = .next v)
  ∧ ((q.state = 0 ∨ q.state = 3 ∨ q.hset.testBit h = false ∨ busy) → exec (.kill p h c) s = .next s)
  ∧ ((q.state = 1 ∨ q.state = 2) → q.hset.testBit h = true → ¬ busy → c < 4 → ∃ u, exec (.kill p h c) s = .next u ∧ killed h c u
      ∧ (u.part p).kIssued = (q.kIssued + 1) % 2 ^ 32 ∧ (u.part p).kills = q.kills ++ [{ h := h, c := c, counted := true }] ∧ u.mem = s.mem)
  ∧ (held → exec (.tactKillContext p tok) s = .next (dropped.startKill p k.h k.c true))
  ∧ (held → exec (.tactKillPartition p tok) s = .next (dropped.startKillAll p))
  ∧ ((q.state = 0 ∨ q.state = 3) → exec (.killAll p) s = .next s)
  ∧ ((q.state = 1 ∨ q.state = 2) → q.kills = [] → ∃ u, exec (.killAll p) s = .next u ∧ (u.part p).state = 3 ∧ (u.part p).kIssued = (q.kIssued + 1) % 2 ^ 32
      ∧ (u.part p).pushes = [] ∧ (u.part p).decs = [] ∧ (u.part p).fans = []
      ∧ (∀ h c, h < 192 → c < 4 → q.hset.testBit h = true → (u.ctx (ckey h c)).st = (if (s.ctx (ckey h c)).st = .idle then .idle else .killing)
          ∧ (u.ctx (ckey h c)).epoch = ((s.ctx (ckey h c)).epoch + 1) % 256)
      ∧ (∀ e f y, (e, f) ∈ u.engs → f.crec = some (p, y) → False) ∧ u.mem = s.mem)
  ∧ (¬ busy → exec (.killDone p h c) s = .next s)
  ∧ (busy → s.writesAnswered key = false → exec (.killDone p h c) s = .next s)
  ∧ (found → quiet → q.state ≠ 3 → c < 4 → ∃ u, exec (.killDone p h c) s = .next u ∧ (u.ctx key).st = .idle ∧ (u.ctx key).epoch = x.epoch
      ∧ (∀ n e, (n, e) ∈ u.l1 → e.ctx ≠ key) ∧ (u.part p).state = q.state
      ∧ (u.part p).kDone = (q.kDone + (if r.counted then 1 else 0)) % 2 ^ 32 ∧ (∀ y ∈ (u.part p).kills, ¬ (y.h = h ∧ y.c = c))
      ∧ (∀ n, x.slot = some n → Map.find? (u.part p).slots n = none) ∧ u.mem = s.mem)
  ∧ (found → quiet → q.state = 3 → q.kills.length = 1 → s.peersQuiet p = true → ∃ u, exec (.killDone p h c) s = .next u ∧ (u.part p).state = 0
      ∧ (u.ctx key).st = .idle ∧ (u.part p).kDone = (q.kDone + (if r.counted then 1 else 0) + 1) % 2 ^ 32)

/-- R412, R413, R414: the image of a context writes, in its slot, the fields of the areas below 0x6000, the block queue from 0x1000, the PRQ from 0x2000, the lane queues from
0x6000, exactly the accumulator rows, register chunks and scratchpad granules written since the dispatch or the last restore, and the granule map of every image so far;
no byte outside the slot changes. A restore of what the slot then holds, on any context of any hearth with pool threads enough and with no fault or trace of the task open, gives back the
queues, the block state, barriers and counters, every split, the registers, the rows, the engines' words and stacks, and the granules; what was not written
since is what the slot held already, and the tracking is clear. The order and the widths within an area, and what of the state has no place in the slot, are the model's
(notes/assumptions/10).
What the model settles itself: private memory of an image (log 55) and what counts as written (log 56). -/
def Obligations.Images : Prop := ∀ (s v : State) (h c n h' c' : Nat),
  let x := s.ctx (ckey h c)
  let g := s.group (ckey h c)
  let p := x.part
  let a := s.imgAddr p n
  let live := s.liveThreads h c
  let u := s.writeImage h c n
  let w := u.keepImage h c n
  let im := Map.get {} (w.part p).slots n
  let map := x.imgGran ++ x.wrGran.filter (fun q => !x.imgGran.contains q)
  let lined (m : Map (List (List Word))) (k : Nat) : Prop := ∀ q, q < k → (Map.get [] m q).length ≤ 16 ∧ ∀ e ∈ Map.get [] m q, e.length = 32
  let fits : Prop := x.bq.length ≤ 256 ∧ x.prq.length ≤ 64 ∧ lined g.iq 8 ∧ lined g.oq 4 ∧ (∀ q ∈ map, q < 1024) ∧ g.wrAcc < 2 ^ 128 ∧ g.wrV < 2 ^ 64
    ∧ (∀ t ∈ live, (s.thread (tkey h t)).slot < 4 ∧ ∀ t' ∈ live, (s.thread (tkey h t')).slot = (s.thread (tkey h t)).slot → t' = t)
    ∧ ∀ e, e < 4 → (s.eng (qkey h c e)).words.length ≤ 128 ∧ (s.eng (qkey h c e)).stack.length ≤ 16
  let z := v.restoreImage p h' c' n
  let y := z.ctx (ckey h' c')
  let gz := z.group (ckey h' c')
  let there (t : Nat) : Nat := mapThread (threadMap c' (v.poolFree h') im.threads) t
  let held : Prop := v.NoFrames ∧ v.imgAddr p n = a ∧ Map.get {} (v.part p).slots n = im ∧ (∀ j, j < 0x440000 → v.byte (a + j) = w.byte (a + j))
    ∧ s.ctxTokens h c = [] ∧ x.trace.on = false ∧ g.fflags < 32 ∧ (∀ i, i < 8 → -2 ^ 63 ≤ Map.get 0 x.cmp i ∧ Map.get 0 x.cmp i < 2 ^ 63)
    ∧ (∀ t ∈ live, (s.thread (tkey h t)).sig < 2 ^ 64) ∧ (live.filter (fun t => decide (4 ≤ t))).length ≤ (v.poolFree h').length
  c < 4 → c' < 4 → s.NoFrames → fits →
  (∀ f ∈ s.imgFields h c, u.num (a + f.1) f.2.1 = f.2.2 % 2 ^ (8 * f.2.1))
  ∧ (∀ i e, x.bq[i]? = some e → u.num (a + 0x1000 + 16 * i) 16 = e.bits.toNat)
  ∧ (∀ i e, x.prq[i]? = some e → u.num (a + 0x2000 + 8 * i) 8 = e.w.toNat)
  ∧ (∀ q i l e, q < 8 → (Map.get [] g.iq q)[i]? = some e → l < 32 → u.num (a + 0x6000 + 2048 * q + 128 * i + 4 * l) 4 = (e.getD l 0).toNat)
  ∧ (∀ q i l e, q < 4 → (Map.get [] g.oq q)[i]? = some e → l < 32 → u.num (a + 0xA000 + 2048 * q + 128 * i + 4 * l) 4 = (e.getD l 0).toNat)
  ∧ (∀ r l, r < 128 → l < 32 → g.wrAcc.testBit r = true → u.num (a + 0xC000 + 128 * r + 4 * l) 4 = g.accAt (r / 32) (r % 32) l)
  ∧ (∀ r l, r < 512 → l < 32 → g.wrV.testBit (r / 8) = true → u.num (a + 0x10000 + 128 * r + 4 * l) 4 = (g.vAt r l).toNat)
  ∧ (∀ q, q < 1024 → ((u.num (a + 0x20000) 128).testBit q = true ↔ q ∈ map))
  ∧ (∀ b, b / 4096 ∈ x.wrGran → u.byte (a + 0x40000 + b) = Map.get 0 (s.hearth h).pad b)
  ∧ (∀ b, (b < a ∨ a + 0x440000 ≤ b) → u.byte b = s.byte b)
  ∧ (∀ r l, l < 32 → g.wrV.testBit (r / 8) = false → r < 512 → u.num (a + 0x10000 + 128 * r + 4 * l) 4 = s.num (a + 0x10000 + 128 * r + 4 * l) 4)
  ∧ (held →
    (y.st = .running ∧ y.part = p ∧ y.task = x.task ∧ y.bq = x.bq ∧ y.prq = x.prq ∧ y.ybbase = x.ybbase ∧ y.yxwin = x.yxwin ∧ y.yscope = x.yscope ∧ y.gens = x.gens
      ∧ y.stackSigs = x.stackSigs ∧ y.depth = x.depth ∧ y.rx = x.rx ∧ y.images = x.images + 1 ∧ y.wrGran = []
      ∧ (∀ i, i < 8 → Map.get 0 y.cmp i = Map.get 0 x.cmp i) ∧ ∀ i, Map.get {} y.nb i = { Map.get {} x.nb i with waiters := [] })
    ∧ (∀ t ∈ live, let th := s.thread (tkey h t); let tz := z.thread (tkey h' (there t)); tz.ctx = c' ∧ tz.st = th.st ∧ tz.slot = th.slot ∧ tz.pc = th.pc ∧ tz.mask = th.mask ∧ tz.sig = th.sig ∧ tz.instret = th.instret % 2 ^ 64
          ∧ tz.fault = none ∧ ∀ i, 1 ≤ i → i < 32 → Map.get 0 tz.x i = Map.get 0 th.x i)
    ∧ (gz.blk = g.blk ∧ gz.lo = g.lo ∧ gz.wa = g.wa ∧ gz.exited = g.exited ∧ gz.fflags = g.fflags ∧ gz.ver = g.ver ∧ gz.wrV = 0 ∧ gz.wrAcc = 0
      ∧ (∀ i, 1 ≤ i → i < 8 → Map.get 0 gz.p i = Map.get 0 g.p i) ∧ (∀ i, i < 16 → Map.get 0 gz.k i = Map.get 0 g.k i ∧ Map.get 0 gz.perf i = Map.get 0 g.perf i)
      ∧ (∀ q, q < 8 → Map.get [] gz.iq q = Map.get [] g.iq q) ∧ ∀ q, q < 4 → Map.get [] gz.oq q = Map.get [] g.oq q)
    ∧ (∀ r l, r < 512 → l < 32 → (∃ j, g.lo ≤ j ∧ j < g.wa + 16 ∧ j % 64 = r / 8) → (gz.vAt r l).toNat = u.num (a + 0x10000 + 128 * r + 4 * l) 4)
    ∧ (∀ r l, r < 128 → l < 32 → gz.accAt (r / 32) (r % 32) l = u.num (a + 0xC000 + 128 * r + 4 * l) 4)
    ∧ (∀ b, b / 4096 ∈ map → Map.get 0 (z.hearth h').pad b = u.byte (a + 0x40000 + b))
    ∧ (∀ b, b / 4096 ∉ map → Map.get 0 (z.hearth h').pad b = Map.get 0 (v.hearth h').pad b)
    ∧ ∀ e, e < 4 → (z.eng (qkey h' c' e)).words = (s.eng (qkey h c e)).words ∧ (z.eng (qkey h' c' e)).stack = (s.eng (qkey h c e)).stack)

/-- R324, R325, R400-R402, R407, R408, R424: a launch push that R325 refuses sets ERR and pushes nothing; another is held in the window, where its record is
read for its level (256 stands for one not yet read); any write of LCLR clears ERR; before start-up has ended neither has an effect. A start of a stopped partition records the first failed check and leaves it stopped (ERR 1 where HSET is empty, shares a
hearth with a partition that is not stopped, or names a disabled hearth), or latches its tables, having asked back what the host has written there, empties its contexts' receive buffers (R112) and runs; a stop of a running partition drains it, and it stops when none of its contexts
runs. A PSTEP write is taken whole or dropped whole. At a new period every count is 0 and the budgets written since are in force.
R367, R369: a ZCMD of 1 to 2^32 - 1 granules queues one command; its granules, all of them at once, and when the host has given back what it holds of them, read as zeros from then on and every hearth is sent a probe for each; no other
byte changes; it completes, in order, when every probe is answered. With EN set, the sweeper's hand clears A of a frame that has an owner and neither PIN nor Q, unless it is set in that cycle; where A is 0 the frame
goes to the cold queue while that is below WMARK, and Q is set; the hand moves on. An entry with a
reserved bit set is left alone (the model's choice, notes/assumptions/96); what the sweeper writes is itself an access of its frame.
What the model settles itself: no frame table at 0 (log 12), what ERRIDX names (log 32) and which accesses set A (log 81). -/
def Obligations.PartitionControlAndFrames : Prop :=
  (∀ (s : State) (p i ec ei : Nat) (v : BitVec 64),
  let q := s.part p
  let a := v.toNat
  let held := (q.pushes.filter (·.window)).length
  let refused := a % 64 ≠ 0 ∨ 2 ^ 52 ≤ a ∨ (∀ e x, s.walkPt p a ≠ .ok e x) ∨ 16 ≤ held ∨ q.state ≠ 1
  let hs := s.preg p 0x110 + 2 ^ 64 * s.preg p 0x118 + 2 ^ 128 * s.preg p 0x120
  let ready := p < 16 ∧ q.state = 0 ∧ s.boot.up = true ∧ s.startHeld p = []
  let tables := [(s.preg p 0x140 / 2 ^ 6 % 2 ^ 46 * 64, 64 * 255), (s.preg p 0x180 / 2 ^ 7 % 2 ^ 45 * 128, 128 * 384),
    (s.preg p 0x188 / 2 ^ 10 % 2 ^ 42 * 1024, 1024 * 256), (s.preg p 0x190 / 2 ^ 12 % 2 ^ 40 * 4096, 8 * 192)]
  let held2 (n : Nat) (t : Atom) : Prop := t.ho = 2 ∧ ∃ b ∈ tables, b.1 < 32 * n + 32 ∧ 32 * n < b.1 + b.2
  let lim (p : Nat) : Map Nat := [0, 1, 2, 3].map (fun k => (k, s.preg p (0x1D8 + 8 * k) % 2 ^ 32))
  (s.boot.up = true → refused → exec (.launchPush p v) s = .next (s.modPart p (fun q => { q with lerr := 1 })))
  ∧ (s.boot.up = true → ¬ refused → exec (.launchPush p v) s = .next (s.modPart p (fun q => { q with pushes := q.pushes ++ [{ addr := a, level := 256, window := true }] })))
  ∧ (s.boot.up = false → exec (.launchPush p v) s = .next s ∧ exec (.partitionStart p) s = .next s)
  ∧ exec (.launchClear p) s = .next (s.modPart p (fun q => { q with lerr := 0 }))
  ∧ (q.state ≠ 0 → exec (.partitionStart p) s = .next s)
  ∧ (hs = 0 ∨ (hs &&& s.hen) ≠ hs ∨ (∃ j, j < 16 ∧ j ≠ p ∧ (s.part j).state ≠ 0 ∧ (hs &&& (s.part j).hset) ≠ 0) → ∃ n, s.startErr p = some (1, n))
  ∧ (p < 16 → q.state = 0 → s.boot.up = true → s.startHeld p ≠ [] → exec (.partitionStart p) s = .next (s.snoopAll (s.startHeld p) false))
  ∧ (∀ l, l ∈ s.startHeld p ↔ ∃ t, (2 * l, t) ∈ s.atoms ∧ held2 (2 * l) t ∨ (2 * l + 1, t) ∈ s.atoms ∧ held2 (2 * l + 1) t)
  ∧ (ready → s.startErr p = some (ec, ei) → exec (.partitionStart p) s = .next ((s.startSeen p (some (ec, ei))).modPart p (fun q => { q with err := ec, errIdx := ei })))
  ∧ (ready → s.startErr p = none → exec (.partitionStart p) s = .next ((s.startSeen p none).latchStart p))
  ∧ (s.NoFrames → ∀ e, s.startSeen p e = s)
  ∧ (let u := s.latchStart p; (u.part p).state = 1 ∧ (u.part p).hset = hs ∧ (u.part p).fuse = s.preg p 0x1F8 ∧ (u.part p).ready = q.ready ∧ (u.part p).aff = s.affMap p ∧ (u.part p).trees = (natsFrom 0 256).filterMap
          (fun k => (s.treeOf p k).map (fun t => (k, t))) ∧ u.chans = s.chanMap p ∧ (u.part p).shadow = [] ∧ (∀ k, hs.testBit (k / 4) = true → (u.ctx k).rx = [])
      ∧ (∀ n e, (n, e) ∈ u.l1 → Tgt.winOf p e.tgt = false) ∧ u.mem = s.mem ∧ ∀ j, j ≠ p → u.part j = s.part j)
  ∧ (q.state = 1 → exec (.partitionStop p) s = .next (s.modPart p (fun q => { q with state := 2 })))
  ∧ (q.state ≠ 1 → exec (.partitionStop p) s = .next s)
  ∧ (q.state = 2 → (∀ k x, (k, x) ∈ s.ctxs → x.part = p → x.st = .idle) → exec (.partitionDrainDone p) s = .next (s.modPart p (fun q => { q with state := 0 })))
  ∧ ((q.state ≠ 2 ∨ ∃ k x, (k, x) ∈ s.ctxs ∧ x.part = p ∧ x.st ≠ .idle) → exec (.partitionDrainDone p) s = .next s)
  ∧ (p < 16 → i < 6 →
    let bad := ∃ b, b < 32 ∧ ((hs.testBit (32 * i + b) = false ∧ a / 2 ^ (2 * b) % 4 ≠ 0)
      ∨ (hs.testBit (32 * i + b) = true ∧ s.stepOff ((32 * i + b) / 48) (a / 2 ^ (2 * b) % 4) = true))
    (bad → exec (.pstepWrite p i v) s = .next s) ∧ (¬ bad → exec (.pstepWrite p i v) s = .next (s.setBar 0 (0x10000 * p + 0x210 + 8 * i) v)))
  ∧ (s.period = s.gcc / 4096 → exec .budgetPeriod s = .next s)
  ∧ (s.period ≠ s.gcc / 4096 → ∃ u, exec .budgetPeriod s = .next u ∧ u.period = s.gcc / 4096 ∧ (∀ j, j < 16 → u.part j = { s.part j with used := [], limit := lim j })
      ∧ (∀ j, 16 ≤ j → u.part j = s.part j) ∧ u.slices = s.slices.map (fun (t : Nat × Slice) => (t.1, { t.2 with used := [] })) ∧ u.mem = s.mem ∧ u.ctxs = s.ctxs))
  ∧ (∀ (s : State) (d count g n : Nat) (rest : List (Nat × Nat)),
  let die := s.die d
  let marked (a : Nat) : Prop := g ≤ a / 4096 ∧ a / 4096 < g + n ∧ s.backed (4096 * (a / 4096)) = true
  let hosted := ∃ j t, (j, t) ∈ s.atoms ∧ g ≤ j / 128 ∧ j / 128 < g + n ∧ t.ho ≠ 0
  let awaited := ∃ r ∈ s.recalls, r.home = 64 ∧ g ≤ r.key ∧ r.key < g + n ∧ r.done = false
  let base := s.dreg d 0x000 / 2 ^ 12 % 2 ^ 40 * 4096
  let on := (s.dreg d 0x008).testBit 0 = true ∧ base ≠ 0
  let ea := base + 8 * die.hand
  let e := s.num ea 8
  let idle := e / 2 ^ 56 = 0 ∨ e.testBit 2 = true ∨ e.testBit 3 = true ∨ e / 2 ^ 52 % 2 ^ 4 ≠ 0 ∨ e / 2 ^ 4 % 2 ^ 12 ≠ 0
  let held := die.setAt = s.gcc + 1 ∧ die.hand ∈ die.setA
  let tableOf (a : Nat) : Nat := s.dreg (a / (192 * 2 ^ 30)) 0x000 / 2 ^ 12 % 2 ^ 40 * 4096
  let inTable (x : Nat) : Prop := ∃ j, j < 4 ∧ (let b := s.dreg j 0x000 / 2 ^ 12 % 2 ^ 40 * 4096; b ≠ 0 ∧ b ≤ x ∧ x < b + 8 * 3145728)
  let apart := hbmBytes ≤ ea ∨ tableOf ea + 8 * (ea % (192 * 2 ^ 30) / 65536) ≠ ea
  let cold := die.cqHead - s.dreg d 0x028 < s.dreg d 0x008 / 2 ^ 16 % 2 ^ 16
  let ring := s.dreg d 0x010 / 2 ^ 12 % 2 ^ 40 * 4096 + 16 * (die.cqHead % 2 ^ s.dreg d 0x018)
  let moved (u : State) : Prop := (u.die d).hand = (die.hand + 1) % 3145728
  (count = 0 ∨ 2 ^ 32 ≤ count → exec (.zcmd d count) s = .next s)
  ∧ (0 < count → count < 2 ^ 32 → d < 4 → s.boot.up = true → exec (.zcmd d count) s = .next (s.modDie d (fun x => { x with
      zIssued := (x.zIssued + 1) % 2 ^ 32, zcmds := x.zcmds ++ [(s.dreg d 0x040 / 2 ^ 12 % 2 ^ 40, count)] })))
  ∧ (die.zcmds = [] → exec (.zeroComplete d) s = .next s)
  ∧ (die.zcmds = (g, n) :: rest → die.zProbes = false → hosted → exec (.zeroComplete d) s = .next (s.snoopAll (((natsFrom g n).map s.zeroHeld).flatten) true))
  ∧ (∀ k l, l ∈ s.zeroHeld k ↔ ∃ j t, (j, t) ∈ s.atoms ∧ j / 128 = k ∧ j / 2 = l ∧ t.ho ≠ 0)
  ∧ (die.zcmds = (g, n) :: rest → die.zProbes = false → ¬ hosted → ∃ u, exec (.zeroComplete d) s = .next u ∧ (u.die d).zcmds = die.zcmds ∧ (u.die d).zProbes = true
      ∧ (∀ a, (marked a → u.byte a = 0 ∧ (u.atom a).psn = false) ∧ (¬ marked a → u.byte a = s.byte a))
      ∧ (∀ k h, g ≤ k → k < g + n → s.backed (4096 * k) = true → h < 192 → { kind := .zrec, h := h, key := k, due := s.gcc + transit (.home (homeOf (4096 * k))) (.hearth h), lim := s.gcc + 100 } ∈ u.probes))
  ∧ (die.zcmds = (g, n) :: rest → die.zProbes = true → awaited → exec (.zeroComplete d) s = .next s)
  ∧ (die.zcmds = (g, n) :: rest → die.zProbes = true → ¬ awaited → ∃ u, exec (.zeroComplete d) s = .next u ∧ (u.die d).zcmds = rest
      ∧ (u.die d).zDone = (die.zDone + 1) % 2 ^ 32 ∧ u.mem = s.mem ∧ u.zeroed = s.zeroed)
  ∧ (¬ on → exec (.sweeperStep d) s = .next s)
  ∧ (on → idle → ∃ u, exec (.sweeperStep d) s = .next u ∧ moved u ∧ u.mem = s.mem)
  ∧ (on → ¬ idle → e.testBit 0 = true → held → ∃ u, exec (.sweeperStep d) s = .next u ∧ moved u ∧ u.mem = s.mem)
  ∧ (on → ¬ idle → e.testBit 0 = true → ¬ held → ∃ u, exec (.sweeperStep d) s = .next u ∧ moved u ∧ (apart → u.num ea 8 = e - 1)
      ∧ ∀ a, (a < ea ∨ ea + 8 ≤ a) → ¬ inTable a → u.byte a = s.byte a)
  ∧ (on → ¬ idle → e.testBit 0 = false → ¬ cold → ∃ u, exec (.sweeperStep d) s = .next u ∧ moved u ∧ u.mem = s.mem)
  ∧ (on → ¬ idle → e.testBit 0 = false → cold → ∃ u, exec (.sweeperStep d) s = .next u ∧ moved u ∧ (u.die d).cqHead = die.cqHead + 1
      ∧ (apart → u.num ea 8 = e + 8)
      ∧ (ring + 16 ≤ ea ∨ ea + 8 ≤ ring → (∀ x, ring ≤ x → x < ring + 16 → ¬ inTable x) → 4 * d * 48 * 2 ^ 30 + 65536 * die.hand < 2 ^ 64 →
          u.num ring 8 = 4 * d * 48 * 2 ^ 30 + 65536 * die.hand ∧ u.num (ring + 8) 8 = e)
      ∧ ∀ a, (a < ring ∨ ring + 16 ≤ a) → (a < ea ∨ ea + 8 ≤ a) → ¬ inTable a → u.byte a = s.byte a))

/-- R328-R332, R334, R424: a halt request of a hearth that belongs to a partition takes effect once the pass is ended, its results are written and the threads stand at boundaries; a wait for a barrier or
a counter is to restart; a trap that the pass took satisfies it. A pre-emption that selects the context in the cycle of the request is undone. A resume clears the request. A step of a halted context with a block in progress, or a block entry that runs a pass
queued, lets one pass run; else it does nothing. A sample writes both words of POS and changes nothing else: STATE 4 for a trap, 3 for a halt, 0 with no block and no entry.
R334, R335, R337, R340, R341: a write of TRBASE sets the ring's base and its HEAD and TAIL to 0, or is dropped while a traced task runs on the context or with a reserved bit. Once a stream that has lost
packets has room, one LOSS with the count, at HEAD, and a SYNC of reason 2 of every live split are written in the same cycle, and nothing counts as lost. A packet that has room is
its word, and a second one, at HEAD.
What the model settles itself: physical ring and area bases (log 7), the limit on every TAIL (log 33), the partition of a hearth's debug registers
(log 71) and from what SYNCs count (log 82). -/
def Obligations.DebugAndTrace : Prop :=
  (∀ (s : State) (h c p : Nat),
  let k := ckey h c
  let x := s.ctx k
  let u := s.settleGroup h c
  let y := u.ctx k
  let stands := u.groupHalts k = true ∧ u.threadsHalt h c = true
  let busy := (∃ b, (s.group k).blk = some b ∧ b.fin = false) ∨ ∃ e ∈ x.bq, e.kind = 0 ∧ (blkOf e).n ≠ 0
  let o := 0x40000 * p + 0x400 * h + 0x40 * c
  let pos := (u.group k).position
  let w1 := pos.2 * 2 ^ 56 + u.posState h c * 2 ^ 52 + (u.thread (tkey h c)).pc.toNat % 2 ^ 52
  (s.dbgPart h = none → exec (.debugHalt h c) s = .next s ∧ exec (.debugResume h c) s = .next s ∧ exec (.posSample h c) s = .next s)
  ∧ (s.dbgPart h = some p → x.signal ≠ some (s.gcc + s.signalCost x.part) → exec (.debugHalt h c) s = .next (s.modCtx k (fun x => { x with haltReq := true })))
  ∧ (s.dbgPart h = some p → x.signal = some (s.gcc + s.signalCost x.part) → ∃ v, exec (.debugHalt h c) s = .next v ∧ (v.ctx k).haltReq = true
      ∧ (v.ctx k).signal = none ∧ (v.part x.part).preempt ≠ some k ∧ v.mem = s.mem)
  ∧ (s.hen.testBit h = false → s.dbgPart h = none)
  ∧ ((y.haltReq = false ∨ y.halted = true ∨ y.st ≠ .running) → exec (.haltReached h c) s = .next u)
  ∧ (y.haltReq = true → y.halted = false → y.st = .running → y.trapped.isSome = true →
      exec (.haltReached h c) s = .next (u.modCtx k (fun x => { x with halted := true, haltAt := u.gcc })))
  ∧ (y.haltReq = true → y.halted = false → y.st = .running → y.trapped = none → ¬ stands → exec (.haltReached h c) s = .next u)
  ∧ (y.haltReq = true → y.halted = false → y.st = .running → y.trapped = none → stands → y.trace.on = false → ∃ v, exec (.haltReached h c) s = .next v
      ∧ (v.ctx k).halted = true ∧ (v.ctx k).haltAt = u.gcc ∧ (v.ctx k).cmpQ = [] ∧ v.mem = u.mem ∧ v.groups = u.groups
      ∧ ∀ t ∈ u.liveThreads h c, (v.thread (tkey h t)).pc = (u.thread (tkey h t)).pc ∧ (v.thread (tkey h t)).x = (u.thread (tkey h t)).x
          ∧ ∀ w, (v.thread (tkey h t)).wait = some w → w.kind ≠ .cmpwait)
  ∧ (s.dbgPart h = some p → x.halted = false → exec (.debugResume h c) s = .next (s.modCtx k (fun x => { x with haltReq := false, halted := false, step1 := false })))
  ∧ (s.dbgPart h = some p → x.halted = true → x.trace.on = false → exec (.debugResume h c) s
      = .next ((s.shiftWaits h c).modCtx k (fun x => { x with haltReq := false, halted := false, step1 := false })))
  ∧ (x.halted = true → x.trapped = none → busy → exec (.debugStep h c) s = .next (s.modCtx k (fun x => { x with step1 := true })))
  ∧ ((x.halted = false ∨ x.trapped.isSome = true ∨ ¬ busy) → exec (.debugStep h c) s = .next s)
  ∧ (s.dbgPart h = some p → exec (.posSample h c) s = .next ((u.setBar 4 (o + 0x120) (BitVec.ofNat 64 pos.1)).setBar 4 (o + 0x128) (BitVec.ofNat 64 w1)))
  ∧ (y.trapped.isSome = true → u.posState h c = 4) ∧ (y.trapped = none → y.halted = true → u.posState h c = 3)
  ∧ (y.trapped = none → y.halted = false → (u.group k).blk = none → y.bq = [] → u.posState h c = 0))
  ∧ (∀ (s : State) (h c p : Nat) (v : BitVec 64),
  let k := ckey h c
  let x := s.ctx k
  let o := 0x40000 * p + 0x400 * h + 0x40 * c
  let n := (s.liveBySlot h c).length
  let clear := s.modCtx k (fun x => { x with trace := { x.trace with lost := 0 } })
  let lost := min (2 ^ 32 - 1) x.trace.lost
  let base := s.dbg x.part h (trOff c 0x100)
  let size := 2 ^ s.dbg x.part h (trOff c 0x108)
  (s.dbgPart h = some p → x.st ≠ .idle → x.trace.on = true → exec (.traceBaseWrite h c v) s = .next s)
  ∧ ((v.toNat % 4096 ≠ 0 ∨ 2 ^ 52 ≤ v.toNat) → exec (.traceBaseWrite h c v) s = .next s)
  ∧ (s.dbgPart h = some p → (x.st = .idle ∨ x.trace.on = false) → v.toNat % 4096 = 0 → v.toNat < 2 ^ 52 → ∃ u, exec (.traceBaseWrite h c v) s = .next u
      ∧ u.bar 4 (o + 0x100) = v ∧ u.bar 4 (o + 0x118) = 0 ∧ (u.ctx k).trace = { x.trace with head := 0 } ∧ u.mem = s.mem)
  ∧ ((x.trace.on = false ∨ x.trace.lost = 0 ∨ s.traceRoom h c < 8 + 24 * n) → exec (.traceLossResync h c) s = .next s)
  ∧ (x.trace.on = true → x.trace.lost ≠ 0 → 8 + 24 * n ≤ s.traceRoom h c → (∀ t ∈ s.liveBySlot h c, (s.thread (tkey h t)).br = []) →
      exec (.traceLossResync h c) s = .next ((clear.packet h c 9 0 lost []).syncAll h c 2))
  ∧ (x.trace.lost = 0 → 8 ≤ s.traceRoom h c → s.NoFrames → ∀ ty slot w u, ty ≠ 1 → ty < 16 → slot < 4 → w < 2 ^ 46 → u = s.packet h c ty slot w [] →
      u.num (base + x.trace.head % size) 8 = ty * 2 ^ 60 + slot * 2 ^ 58 + (s.gcc - x.trace.lastTime) % 4096 * 2 ^ 46 + w
      ∧ (u.ctx k).trace.head = x.trace.head + 8 ∧ ∀ a, (a < base + x.trace.head % size ∨ base + x.trace.head % size + 8 ≤ a) → u.byte a = s.byte a)
  ∧ (x.trace.lost = 0 → 16 ≤ s.traceRoom h c → s.NoFrames → x.trace.head % 8 = 0 → 16 ≤ size → ∀ ty slot w y u, ty ≠ 1 → ty < 16 → slot < 4 → w < 2 ^ 46 →
      u = s.packet h c ty slot w [y] →
      u.num (base + x.trace.head % size) 8 = ty * 2 ^ 60 + slot * 2 ^ 58 + (s.gcc - x.trace.lastTime) % 4096 * 2 ^ 46 + w
      ∧ u.num (base + (x.trace.head + 8) % size) 8 = y.toNat ∧ (u.ctx k).trace.head = x.trace.head + 16))

/-- R430, R441-R445: QPLOAD counts one command and puts a queue pair into service, out of it, or refuses it with STATE 10. A doorbell gives a producer index; one more than the ring ahead is an
error. Of a posted entry the bytes at the local address leave with the remote address and key, or a READ's request. A SEND takes the next buffer: its data, its byte count, RCI, an
acknowledgement; with none posted an RNR NAK; a longer one is an error. A WRITE or READ that its region admits is done and answered, another is an access error.
An acknowledged entry completes with its byte count and SCI advances; a NAK, or the last retry, is an error. A byte count is stored behind every byte written for the queue pair. In error, or out of service,
nothing is sent or taken; in error what is posted completes, then STATE is 10. PFC holds and frees a port and priority. The station works through homes and waits for its walks
(the model's: notes/assumptions/37, 64, 83, 113, 114).
R79, R386, R430-R432, R434-R436, R439: with pod traffic on, a peer's request whose source maps to no partition, whose window is not valid or another's (4), whose key (2), permission or bounds
(3) fail, whose owner does not run (5), or which is misaligned where it is atomic (R55; the model's reading, notes/assumptions/62, 98), reads and writes nothing, is counted against its tenant and answered with its subcause (notes/assumptions/114); another sets out to its homes at S scope. An answer, a refusal
(0x0E with the peer's subcause) and poisoned data (0x0F subcause 1) reach the agents of the accesses that the request carries, each with its part of the data. A UALink failure ends the accesses of its port with 0x0F subcause 2, a host link's those of
host memory, translation requests and line fetches; an Ethernet failure by itself changes nothing (the model's reading, notes/assumptions/36). An entry of the tenant map or of the receive windows with a reserved bit set is not valid (the model's reading,
notes/assumptions/83). -/
def Obligations.QueuePairsAndPods : Prop :=
  (∀ (s : State) (n key va len port prio v b a buf room comp : Nat) (data d : List Byte) (e : SendE) (t' : Tgt) (x : Nat × Nat),
  let q := s.qp n
  let count := ((s.bar 0 0x190038).toNat + 1) % 2 ^ 32
  let t := s.setBar 0 0x190038 (BitVec.ofNat 64 (count * 2 ^ 32 + count))
  let owner := s.qpWord n 0 / 2 % 16
  let st := s.qpWord n 0 / 2 ^ 5 % 4
  let live := q.inService = true ∧ q.err = false ∧ q.failing = false
  let dead := q.failing = false ∧ (q.inService = false ∨ q.err = true)
  let done (u : State) : Res := .next (u.sysDone q.part)
  let diff (i j : Nat) : Nat := (i + 2 ^ 32 - j) % 2 ^ 32
  let f (o k : Nat) : Nat := natOfBytes ((d.drop o).take k)
  let can (va n : Nat) (acc : Acc) : Prop := rangeReady q.part va n acc s = .ok () s
  let posted := q.sent = true → can (q.sendAt q.sci) 64 .read ∧ ∀ e, s.sendWords q = some e →
    (e.op = 2 → can e.loc data.length .write) ∧ can e.comp 8 .write
  let taken := live ∧ q.rpi ≠ q.rci ∧ can (q.recvAt q.rci) 32 .read ∧ s.recvEntry q = some (buf, room, comp) ∧ can buf data.length .write ∧ can comp 8 .write
  let sending := live ∧ q.sent = false ∧ q.spi ≠ q.sci ∧ s.pfcHeld n q = false
  let seen := s.rangeSeen q.part (q.sendAt q.sci) 64
  (n < 4096 → s.boot.up = true →
    (q.inService = true → st = 0 → exec (.qpload n) s = .next (t.modQp n (fun _ => {})))
    ∧ (q.inService = true → st ≠ 0 → exec (.qpload n) s = .next t)
    ∧ (q.inService = false → (st = 0 ∨ st = 2) → exec (.qpload n) s = .next t)
    ∧ (q.inService = false → (st = 3 ∨ (st = 1 ∧ s.qpMalformed n = true)) → exec (.qpload n) s = .next (t.qpState n 2))
    ∧ (∀ u, q.inService = false → st = 1 → s.qpMalformed n = false → qpReady n s = .wait u → exec (.qpload n) s = .next u)
    ∧ (q.inService = false → st = 1 → s.qpMalformed n = false → qpReady n s = .ok () s → s.qpBad n = true → exec (.qpload n) s = .next ((t.qpState n 2).sysDone owner))
    ∧ (q.inService = false → st = 1 → qpReady n s = .ok () s → s.qpBad n = false → ∃ u, exec (.qpload n) s = .next u ∧ (u.qp n).inService = true ∧ (u.qp n).err = false
        ∧ (u.qp n).part = owner ∧ (∀ i, i < 16 → (u.qp n).word i = s.qpWord n i) ∧ (u.qp n).sci = s.qpWord n 11 % 2 ^ 32
        ∧ (u.qp n).rci = s.qpWord n 12 % 2 ^ 32 ∧ u.mem = s.mem))
  ∧ (dead → exec (.qpSendDoorbell n) s = .next s ∧ exec (.qpReceiveDoorbell n) s = .next s ∧ exec (.roceSendReceive n data) s = .next s
      ∧ exec (.roceWriteReceive n key va data) s = .next s ∧ exec (.roceReadReceive n key va len) s = .next s ∧ exec (.qpRetryTimeout n) s = .next s
      ∧ exec (.qpEntryComplete n true data) s = .next s)
  ∧ (q.failing = true → failReady n s = .ok () s → exec (.qpRetryTimeout n) s = done (s.qpFailed n) ∧ exec (.qpSendDoorbell n) s = done (s.qpFailed n)
      ∧ exec (.qpReceiveDoorbell n) s = done (s.qpFailed n) ∧ exec (.qpEntryComplete n true data) s = done (s.qpFailed n) ∧ exec (.roceSendReceive n data) s = done (s.qpFailed n)
      ∧ exec (.roceWriteReceive n key va data) s = done (s.qpFailed n) ∧ exec (.roceReadReceive n key va len) s = done (s.qpFailed n))
  ∧ (∀ u, q.failing = true → failReady n s = .wait u → exec (.qpRetryTimeout n) s = .next u)
  ∧ (a ∈ q.comps ↔ (∃ i, i < min (diff q.spi q.sci) (2 ^ 16) ∧ a = q.sendAt (q.sci + i) + 40) ∨ ∃ i, i < min (diff q.rpi q.rci) (2 ^ 16) ∧ a = q.recvAt (q.rci + i) + 16)
  ∧ (q.comps = [] → q.spi = q.sci → q.rpi = q.rci → s.qpFailed n = (s.qpState n 2).modQp n (fun q => { q with failing := false }))
  ∧ (live → can (q.word 3) 8 .read → sendReady n s = .ok () s → s.word? q.part (q.word 3) = some v →
      let posts := (s.sysSeen q.part (q.word 3) 8).modQp n (fun q => { q with spi := v % 2 ^ 32 })
      (2 ^ (q.word 1 % 32) < diff (v % 2 ^ 32) q.sci → exec (.qpSendDoorbell n) s = done (s.qpError n))
      ∧ (diff (v % 2 ^ 32) q.sci ≤ 2 ^ (q.word 1 % 32) → exec (.qpSendDoorbell n) s = done (if q.spi = q.sci then posts else posts.qpSend n)))
  ∧ (live → can (q.word 3) 8 .read → sendReady n s = .ok () s → s.word? q.part (q.word 3) = none → exec (.qpSendDoorbell n) s = done (s.qpError n))
  ∧ ((∃ y z, s.sysRead q.part (q.sendAt q.sci) 64 = (some d, y, z)) → s.sendWords q = some e →
      e.op = f 0 1 ∧ e.len = f 16 4 ∧ e.key = f 20 4 ∧ e.loc = f 24 8 ∧ e.rem = f 32 8 ∧ e.comp = f 40 8)
  ∧ (sending → s.sendEntry q = none → s.qpSend n = s.qpError n)
  ∧ (sending → s.sendEntry q = some e → e.op = 2 → s.qpSend n
      = (seen.modQp n (fun q => { q with sent := true })).wired { kind := .readRequest, unit := n, addr := e.rem, key := e.key, n := e.len })
  ∧ (sending → s.sendEntry q = some e → e.op ≠ 2 → seen.sendPart q e = len → len ≠ 0 → seen.rangeBytes q.part (e.loc + q.offset) len = some d →
      (s.qpSend n).wire = s.wire ++ [{ kind := if e.op = 0 then .send else .write, unit := n, addr := e.rem + q.offset, key := e.key, n := len, data := d }]
      ∧ ((s.qpSend n).qp n).offset = q.offset + len ∧ (((s.qpSend n).qp n).sent = true ↔ e.len ≤ q.offset + len))
  ∧ (live → can (q.word 5) 8 .read → s.word? q.part (q.word 5) = some v → exec (.qpReceiveDoorbell n) s
      = done ((s.sysSeen q.part (q.word 5) 8).modQp n (fun q => { q with rpi := v % 2 ^ 32 })))
  ∧ (live → q.rpi = q.rci → exec (.roceSendReceive n data) s = done (s.wired { kind := .rnrNak, unit := n }))
  ∧ ((∃ y z, s.sysRead q.part (q.recvAt q.rci) 32 = (some d, y, z)) → s.recvEntry q = if 2 ^ 52 ≤ f 0 8 ∨ f 24 8 ≠ 0 then none else some (f 0 8, f 8 8, f 16 8))
  ∧ (taken → room < data.length → exec (.roceSendReceive n data) s = done (s.qpError n))
  ∧ (taken → data.length ≤ room → s.rangeOk q.part buf data.length .write = true → s.rangeOk q.part comp 8 .write = true →
      exec (.roceSendReceive n data) s
        = done (((((s.rangeSeen q.part (q.recvAt q.rci) 32).qpData n buf data).complete n comp data.length).setRci n ((q.rci + 1) % 2 ^ 32)).wired { kind := .ack, unit := n }))
  ∧ (live → s.regionOk q.part key va data.length true = true → can va data.length .write → s.rangeOk q.part va data.length .write = true →
      exec (.roceWriteReceive n key va data) s = done ((s.qpData n va data).wired { kind := .ack, unit := n }))
  ∧ (live → s.regionOk q.part key va data.length true = false → exec (.roceWriteReceive n key va data) s = done (s.accessNak n))
  ∧ (live → s.regionOk q.part key va len false = true → can va len .read → s.rangeOk q.part va len .read = true → s.rangeBytes q.part va len = some d →
      exec (.roceReadReceive n key va len) s = done ((s.rangeSeen q.part va len).wired { kind := .readData, unit := n, n := len, data := d }))
  ∧ (live → s.regionOk q.part key va len false = false → exec (.roceReadReceive n key va len) s = done (s.accessNak n))
  ∧ s.accessNak n = (s.qpError n).wired { kind := .accessNak, unit := n }
  ∧ ((s.num (s.preg q.part 0x240 / 2 ^ 5 % 2 ^ 47 * 32 + 32 * (key % 2 ^ 16)) 32).testBit 144 = false → s.regionOk q.part key va len false = false)
  ∧ (live → posted → (q.sent = true ∨ q.offset ≠ 0) → exec (.qpEntryComplete n false data) s = done (s.qpError n))
  ∧ (live → posted → q.sent = true → s.sendEntry q = some e → e.op ≠ 2 → s.rangeOk q.part e.comp 8 .write = true → exec (.qpEntryComplete n true data) s
      = done (((s.complete n e.comp e.len).setSci n ((q.sci + 1) % 2 ^ 32)).modQp n (fun q => { q with sent := false, tries := 0, offset := 0 })))
  ∧ (live → posted → q.sent = true → s.sendEntry q = some e → e.op = 2 → data.length = e.len → s.rangeOk q.part e.comp 8 .write = true → exec (.qpEntryComplete n true data) s
      = done ((((s.qpData n e.loc data).complete n e.comp e.len).setSci n ((q.sci + 1) % 2 ^ 32)).modQp n (fun q => { q with sent := false, tries := 0, offset := 0 })))
  ∧ (live → (q.sent = true ∨ q.offset ≠ 0) → q.tries < q.word 0 / 2 ^ 10 % 8 → exec (.qpRetryTimeout n) s
      = done (s.modQp n (fun q => { q with tries := q.tries + 1, sent := false, offset := 0 })))
  ∧ (live → (q.sent = true ∨ q.offset ≠ 0) → q.word 0 / 2 ^ 10 % 8 ≤ q.tries → exec (.qpRetryTimeout n) s = done (s.qpError n))
  ∧ s.qpError n = s.modQp n (fun q => { q with err := true, failing := true, sent := false, offset := 0 })
  ∧ (data ≠ [] → va / 32 = (va + data.length - 1) / 32 → s.sysXl b va .write = .ok t' → (s.sysWalked b va .write).homeAddr t' true = some a →
      (hbmBytes ≤ a ∨ s.dreg (a / (192 * 2 ^ 30)) 0 / 2 ^ 12 % 2 ^ 40 = 0) → Wrote (s.sysWalked b va .write) a (data.map some) (s.rangeWrite b va data))
  ∧ (s.qpData n va data).mem = (s.rangeWrite q.part va data).mem ∧ (s.rangeStore q.part va data s.gcc).1 ≤ ((s.qpData n va data).qp n).pts
  ∧ (∀ w u, va % 32 + 8 ≤ 32 → s.rangeOk q.part va 8 .write = true → s.sysPut q.part va (max q.pts s.gcc) (bytesOf v 8) = some (w, u) →
      (s.complete n va v).mem = u.mem ∧ w ≤ ((s.complete n va v).qp n).pts)
  ∧ (∃ u, exec (.pfcPauseFrame port prio true) s = .next u ∧ (x ∈ u.paused ↔ x = (port, prio) ∨ x ∈ s.paused) ∧ u.mem = s.mem)
  ∧ (∃ u, exec (.pfcPauseFrame port prio false) s = .next u ∧ (x ∈ u.paused ↔ x ≠ (port, prio) ∧ x ∈ s.paused) ∧ u.mem = s.mem))
  ∧ (∀ (s : State) (r : PeerReq) (n sub port lo : Nat) (ok : Bool) (data : List Byte) (e : Ext) (y : AtsReq),
  let tm := s.num ((s.bar 0 0x190008).toNat / 2 ^ 6 % 2 ^ 46 * 64 + 2 * (16 * (r.aid % 1024) + r.part % 16)) 2
  let w := s.num ((s.bar 0 0x190010).toNat / 2 ^ 15 % 2 ^ 37 * 32768 + 32 * (r.win % 1024)) 32
  let p := tm % 16
  let on := s.boot.up = true ∧ (s.bar 0 0x190000).toNat.testBit 16 = true ∧ r.stream = none
  let refused (k u : Nat) : Res := .next ((s.peerSeen r).refuse k u)
  let mapped := tm.testBit 15 = true ∧ tm / 2 ^ 8 % 2 ^ 7 = 0
  let window := w.testBit 119 = true ∧ w / 2 ^ 120 = 0 ∧ w / 2 ^ 58 % 2 ^ 6 = 0 ∧ w / 2 ^ 112 % 16 = p
  let key := w / 2 ^ 64 % 2 ^ 48 = r.key
  let may := w.testBit (match r.op with | .read _ => 116 | .readOwn => 116 | .write _ => 117 | _ => 118) = true ∧ r.off < 2 ^ (w / 2 ^ 52 % 64)
  let runs := (s.part p).state = 1
  let ready := sysAllReady p (peerAcc r.op) ((hostOpParts r.op (w % 2 ^ 52 + r.off)).map (fun q => (q.1, 0))) s
  let start (f : Ext) : Nat := tgtKey f.tgt * 32 + tgtOff f.tgt
  let carried := s.exts.filter (fun f => f.rq == e.rq)
  let answers (ok : Bool) (cause sub : Nat) (data : List Byte) : Res := .next (carried.foldl (fun v f =>
    let d := (data.drop (start f - lo)).take f.len
    v.deliver f.who { ok := ok, data := d, val := natOfBytes d, cause := cause, sub := sub }) { s with exts := s.exts.filter (fun f => f.rq != e.rq) })
  let hit := s.exts[n]? = some e ∧ (∀ f ∈ carried, (∃ a c o, f.tgt = .peer a c o) ∧ lo ≤ start f) ∧ s.phaseOpen e.part = false ∧ ∃ f ∈ carried, lo = start f
  ((s.boot.up = false ∨ (s.bar 0 0x190000).toNat.testBit 16 = false) → exec (.peerRequest r) s = .next s)
  ∧ (on → ¬ mapped → exec (.peerRequest r) s = refused 16 1)
  ∧ (on → mapped → ¬ window → exec (.peerRequest r) s = refused p 4)
  ∧ (on → mapped → window → ¬ key → exec (.peerRequest r) s = refused p 2)
  ∧ (on → mapped → window → key → ¬ may → exec (.peerRequest r) s = refused p 3)
  ∧ (on → mapped → window → key → may → ¬ runs → exec (.peerRequest r) s = refused p 5)
  ∧ (on → mapped → window → key → may → runs → s.peerParts p (w % 2 ^ 52 + r.off) r.op = none → exec (.peerRequest r) s = refused p 6)
  ∧ (on → mapped → window → key → may → runs → hostOpFits r.op (w % 2 ^ 52 + r.off) = false → exec (.peerRequest r) s = refused p 6)
  ∧ (s.refuse lo sub).refcnt = Map.put s.refcnt lo (Map.get 0 s.refcnt lo + 1) ∧ (s.refuse lo sub).wire = s.wire ++ [{ kind := .refusal, unit := 3, n := sub }] ∧ (s.refuse lo sub).mem = s.mem
  ∧ (s.NoFrames → s.peerSeen r = s)
  ∧ (∀ l, on → mapped → window → key → may → runs → hostOpFits r.op (w % 2 ^ 52 + r.off) = true → s.peerParts p (w % 2 ^ 52 + r.off) r.op = some l →
      (∀ u, ready = .wait u → exec (.peerRequest r) s = .next u)
      ∧ (ready = .ok () s → ∃ rs, exec (.peerRequest r) s = .next (State.sysDone { (s.peerSeen r).peerWalked p (w % 2 ^ 52 + r.off) r.op with reqs := s.reqs ++ rs } p)
      ∧ rs.length = l.length ∧ ∀ q ∈ rs, q.scope = 2 ∧ q.part = p ∧ q.src = 3 ∧ q.due = s.gcc ∧ ∃ y ∈ l, q.tgt = y.1))
  ∧ (¬ (∃ a c o e, s.exts[n]? = some e ∧ e.tgt = .peer a c o) → exec (.peerResponse n ok data) s = .next s ∧ exec (.peerRefusal n sub) s = .next s)
  ∧ (hit → exec (.peerResponse n ok data) s = answers ok 0x0F 1 data ∧ exec (.peerRefusal n sub) s = answers false 0x0E sub [])
  ∧ (s.exts[n]? = some e → s.phaseOpen e.part = true → exec (.peerResponse n ok data) s = .next s ∧ exec (.peerRefusal n sub) s = .next s)
  ∧ exec (.linkFailure (.ethernet port)) s = .next s
  ∧ (s.exts = [e] → s.portOf e.tgt = some port → exec (.linkFailure (.ualink port)) s
      = .next ({ s with exts := [] }.deliver e.who { ok := false, data := [], val := 0, cause := 0x0F, sub := 2 }))
  ∧ (s.exts = [e] → s.portOf e.tgt ≠ some port → exec (.linkFailure (.ualink port)) s = .next s)
  ∧ (s.exts = [e] → s.ats = [] → (∃ c q o z, e.tgt = .host c q o z) → exec (.linkFailure .hostLink) s
      = .next (({ s with exts := [] }.deliver e.who { ok := false, data := [], val := 0, cause := 0x0F, sub := 2 }).failHostFills))
  ∧ (s.exts = [] → s.ats = [y] → y.sys = false → exec (.linkFailure .hostLink) s
      = .next (({ s with ats := [] }.walkBad y.walk.who { cause := 0x0F, sub := 2, va := y.walk.va }).failHostFills))
  ∧ (s.exts = [] → s.ats = [y] → y.sys = true → y.walk.who = .nobody → exec (.linkFailure .hostLink) s = .next ({ s with ats := [{ y with refused := true }] }.failHostFills))
  ∧ (let u := s.failHostFills; u.mem = s.mem ∧ (∀ j, 2 ^ 51 ≤ j → ∀ t, (j, t) ∈ u.atoms → t.fp = false)
      ∧ (∀ v, v ∈ u.reqs → v ∈ s.reqs)
      ∧ ∀ v ∈ s.reqs, v ∈ u.reqs ∨ (v.due ≤ s.gcc ∧ ∃ z ∈ u.reps, z.who = v.who ∧ z.kind = .err ∧ z.val = 2 ∧ z.part = v.part ∧ z.src = v.src)))

/-- R425, R426, R429, R450, R453: a loss of power leaves flash, the MMC's counter and its retirement log, and nothing else of the module's state; a slot that OP 3 was writing is invalid. Start-up stops
where a step fails, with that step's code: no valid record 0x01, firmware 0x02, identity 0x03, counter 0x04, each failing die d 0x10 + d, Causeway 0x20, links 0x30; else it ends with the module up,
the record selected with the higher SVN (A on a tie), and the counter no less than the record's SVN. An
erasure of the retirement log takes effect at the start (R450).
R334, R352, R400, R423, R426-R428, R431: a mailbox command while another is in progress ends with result 1, one whose buffer is not device memory or of another number with 2;
another is in progress for a free time (notes/assumptions/59), then, when its homes take it (113), READ_CERT writes the certificate of R426 and ATTEST the report of R428 with its signature, and no other byte; a record that is not valid ends STAGE with 3; one that is
valid goes to the slot that was not selected. A register of a partition page takes a value within its field, and within its limits, at any time or while the
partition is stopped, as its row says, and drops every other whole.
What the model settles itself: uninterpreted named standards (log 6), packed fingerprint bits (log 38), no slot selected (log 68) and the hardware's
own accesses (log 113). -/
def Obligations.StartUpAndRegisters : Prop :=
  (∀ (s : State) (env : BootEnv) (i d k : Nat) (torn : Option Nat),
  let b := s.boot
  let cold (p : Bool) : State := { State.reset with
    powered := p, sched := s.sched, tick := s.tick, focus := s.focus, boot := { slotA := b.slotA, slotB := b.slotB, counter := b.counter, retired := b.retired } }
  let log := if env.logErased then [] else b.retired
  let t : State := { cold true with boot := { (cold true).boot with retired := log } }
  let r := (t.boot.slot i).take 4788
  let K := identity r env.fingerprint s.tick
  let a := b.slot 0
  let c := b.slot 1
  let fails (d code : Nat) : Prop := ∃ u, exec (.boot env) s = .next u ∧ u.boot.up = false ∧ (u.die d).bootStat = code
  let found := t.boot.select = some i
  let genuine := found ∧ fitLen 32 env.fwDigest = recFw r ∧ sliceOf (sha3 K) 0 8 = sliceOf r 64 8
  let counted := genuine ∧ ¬ (b.counter < recSvn r ∧ env.counterFails = true)
  let dies := counted ∧ ∀ d, d < 4 → d ∉ env.dieFails
  ((∀ k, b.mb = some (3, k) → torn ≠ some b.spare) → exec (.powerLoss torn) s = .next (cold false))
  ∧ b.spare = (if b.sel = some 1 then 0 else 1)
  ∧ (b.mb = some (3, k) → ∃ u, exec (.powerLoss (some b.spare)) s = .next u ∧ u.boot.slot b.spare = [] ∧ u.boot.slot (1 - b.spare) = b.slot (1 - b.spare)
      ∧ u.mem = [] ∧ u.powered = false ∧ u.boot.counter = b.counter ∧ u.boot.retired = b.retired)
  ∧ (t.boot.select = none → fails 0 0x01)
  ∧ (found → fitLen 32 env.fwDigest ≠ recFw r → fails 0 0x02)
  ∧ (found → fitLen 32 env.fwDigest = recFw r → sliceOf (sha3 K) 0 8 ≠ sliceOf r 64 8 → fails 0 0x03)
  ∧ (genuine → b.counter < recSvn r → env.counterFails = true → fails 0 0x04)
  ∧ (counted → d < 4 → d ∈ env.dieFails → fails d (0x10 + d))
  ∧ (dies → env.causewayFails = true → fails 0 0x20)
  ∧ (dies → env.causewayFails = false → env.linksFail = true → fails 0 0x30)
  ∧ (dies → env.causewayFails = false → env.linksFail = false → ∃ u, exec (.boot env) s = .next u ∧ u.boot.up = true ∧ u.boot.sel = some i ∧ u.boot.record = r
      ∧ b.counter ≤ u.boot.counter ∧ recSvn r ≤ u.boot.counter ∧ u.boot.ddr5 = min (2 ^ 41) (env.ddr5 / 4096 * 4096) ∧ u.boot.retired = log ∧ u.threads = [] ∧ u.mem = [] ∧ u.bars = [])
  ∧ (recValid a b.counter = true → recValid c b.counter = true → t.boot.select = some (if recSvn a < recSvn c then 1 else 0))
  ∧ (recValid a b.counter = true → recValid c b.counter = false → t.boot.select = some 0)
  ∧ (recValid a b.counter = false → recValid c b.counter = true → t.boot.select = some 1)
  ∧ (recValid a b.counter = false → recValid c b.counter = false → t.boot.select = none)
  ∧ (recSvn a < b.counter → recValid a b.counter = false))
  ∧ (∀ (s : State) (p due : Nat) (v : BitVec 64),
  let base := (s.bar 0 0x180008).toNat / 2 ^ 6 % 2 ^ 46 * 64
  let buffer := s.backed base = true ∧ s.backed (base + 16383) = true
  let done (res : Nat) (s : State) : State := { s with boot := { s.boot with mbDone := (s.boot.mbDone + 1) % 2 ^ 32, mbRes := res } }
  let rec_ := s.bytes base 4788
  let slot : List Byte := rec_ ++ List.replicate 3404 0xFF
  let b := s.boot
  let busy (op n : Nat) : State := { s with boot := { b with mb := some (op, s.gcc + n) } }
  let free : State := { s with boot := { b with mb := none } }
  let firmware := (b.record.drop 1024).take 32
  let svn := (b.record.drop 4).take 4
  let cert : List Byte := fitLen 1312 (Config.mldsaKey b.akSeed) ++ firmware ++ svn ++ b.dikSig
  let stats : List Byte := (List.range 4).map (fun d => BitVec.ofNat 8 (s.die d).bootStat)
  let report : List Byte := s.bytes base 32 ++ stats ++ List.replicate 28 0 ++ List.replicate 24 0 ++ bytesOf (natOfBytes svn + b.sel.getD 0 * 2 ^ 32) 8 ++ bytesOf s.gcc 8
    ++ (b.record.drop 24).take 24 ++ firmware ++ sha3 (b.record.take 1056)
  let off (o : Nat) : Nat := 0x10000 * p + o
  let stopped := (s.part p).state = 0
  let kept (o : Nat) : Prop := exec (.registerWrite 0 (off o) v) s = .next s
  let taken (o : Nat) : Prop := exec (.registerWrite 0 (off o) v) s = .next (s.setBar 0 (off o) v)
  let fields : List (Nat × Nat × Nat × Bool) := [(0x008, 51, 22, false), (0x018, 51, 12, false), (0x030, 51, 12, false), (0x130, 51, 7, true), (0x140, 51, 6, true),
    (0x148, 51, 12, true), (0x158, 7, 0, false), (0x168, 51, 16, true), (0x180, 51, 7, true), (0x188, 51, 10, true), (0x190, 51, 12, true), (0x198, 51, 12, true),
    (0x1C0, 51, 6, false), (0x1D8, 31, 0, false), (0x1E0, 31, 0, false), (0x1E8, 31, 0, false), (0x1F0, 31, 0, false), (0x1F8, 47, 0, true), (0x200, 51, 14, true),
    (0x208, 3, 0, true), (0x240, 51, 5, true), (0x110, 63, 0, true), (0x118, 63, 0, true), (0x120, 63, 0, true)]
  let limits : List (Nat × Nat × Nat × Bool) := [(0x038, 6, 16, false), (0x138, 1, 256, true), (0x150, 6, 20, true), (0x170, 0, 4096, true), (0x1A0, 6, 16, true),
    (0x248, 0, 65536, true)]
  (s.boot.mb.isSome = true → exec .mbReadCert s = .next (done 1 s) ∧ exec .mbAttest s = .next (done 1 s) ∧ exec .mbStageRecord s = .next (done 1 s))
  ∧ (s.boot.mb = none → ¬ buffer → exec .mbReadCert s = .next (done 2 s) ∧ exec .mbAttest s = .next (done 2 s) ∧ exec .mbStageRecord s = .next (done 2 s))
  ∧ (s.boot.mb = none → buffer → (∃ n, exec .mbReadCert s = .next (busy 1 n)) ∧ (∃ n, exec .mbAttest s = .next (busy 2 n)) ∧ ∃ n, exec .mbStageRecord s = .next (busy 3 n))
  ∧ (s.boot.mb = none → s.mbRun = s)
  ∧ (∀ op, s.boot.mb = some (op, due) → s.gcc < due → s.mbRun = s)
  ∧ (s.boot.mb = some (1, due) → due ≤ s.gcc → homesReady 16 true (atomsOf base 3768) s = .ok () s → s.NoFrames → s.mbRun.boot = (done 0 free).boot
      ∧ s.mbRun.bytes base cert.length = cert ∧ ∀ a, (a < base ∨ base + cert.length ≤ a) → s.mbRun.byte a = s.byte a)
  ∧ (s.boot.mb = some (2, due) → due ≤ s.gcc → homesReady 16 false (atomsOf base 32) s = .ok () s → homesReady 16 true (atomsOf (base + 64) 2612) s = .ok () s → s.NoFrames →
      b.record.length = 4788 → s.mbRun.boot = (done 0 free).boot ∧ s.mbRun.bytes (base + 64) 192 = report
      ∧ s.mbRun.bytes (base + 256) 2420 = fitLen 2420 (Config.mldsaSign b.akSeed (sha3 report)) ∧ ∀ a, (a < base + 64 ∨ base + 2676 ≤ a) → s.mbRun.byte a = s.byte a)
  ∧ (s.boot.mb = some (3, due) → due ≤ s.gcc → homesReady 16 false (atomsOf base 4788) s = .ok () s →
    (recValid rec_ b.counter = false → s.mbRun = done 3 free)
    ∧ (recValid rec_ b.counter = true → b.sel = some 1 → s.mbRun = done 0 { free with boot := { free.boot with slotA := some slot } })
    ∧ (recValid rec_ b.counter = true → b.sel = some 0 → s.mbRun = done 0 { free with boot := { free.boot with slotB := some slot } }))
  ∧ ((v.toNat = 0 ∨ 3 < v.toNat) → v.toNat < 256 → exec (.registerWrite 0 0x180010 v) s = .next (done (if b.mb.isSome = true then 1 else 2) s))
  ∧ (256 ≤ v.toNat → exec (.registerWrite 0 0x180010 v) s = .next s)
  ∧ (s.boot.up = true → p < 16 → ∀ o hi lo st, (o, hi, lo, st) ∈ fields →
      let good := v.toNat < 2 ^ (hi + 1) ∧ v.toNat % 2 ^ lo = 0 ∧ (st = true → stopped)
      (good → taken o) ∧ (¬ good → kept o))
  ∧ (s.boot.up = true → p < 16 → ∀ o lo hi st, (o, lo, hi, st) ∈ limits →
      let good := lo ≤ v.toNat ∧ v.toNat ≤ hi ∧ (st = true → stopped)
      (good → taken o) ∧ (¬ good → kept o))
  ∧ (s.boot.up = false → p < 16 → ∀ o, o < 0x10000 → kept o))

/-- R384, R421, R439, R447-R450: an error counts at its location (a new one enters the table with 1; inside its window it gains 1) and is logged; a corrected one at its threshold with EN set, and every uncorrected
one, makes the location lasting, which is logged, and it is to be retired where EN is set; an uncorrected error of a home poisons its atom, one of a scratchpad, B store, L1 or block store leaves its row or line unreadable, and one of a home kills the frame's owner with CONTAIN.AUTO. Errors of one cycle are counted by ascending structure and location. A lasting row begins its copy to a spare, or is
refused for want of one; an L2 line is written back, once no fill of it is pending, and an L1 line too; a group is retired at once. RCLR clears one die's table.
R448, R451, R452: at each power tick a module power above PLIM lowers the ceiling by one step, at most to 0.4 GHz, and one below 95 % of PLIM raises it by one. Every sensor's latest reading is kept for TEMP. A hearth
sensor at 100 °C sets its die's ceiling at 0.8 GHz until every one of the die's reads below 95 °C; a stack at 95 °C halves its homes' admissions until it reads below 90 °C. A reading of 110 °C logs an entry of kind 2
for its die and starts the 10 ms in which power is removed (which entry, and one for each reading: the model's choice, notes/assumptions/116).
What the model settles itself: free values and orders (log 5), 32 B-store banks (log 34), what a location names (log 60), rates of outside clocks (log
65), unreadable SRAM bytes (log 66), errors while EN is 0 (log 67) and disabled ceiling steps (log 115). -/
def Obligations.ReliabilityPowerHeat : Prop :=
  (∀ (s : State) (d src loc : Nat) (e : RasLoc),
  let x : Retired := { die := d, src := src, loc := loc }
  let u := s.countError d src loc
  let n := u.rasCount d src loc
  let pol := s.ras0 d (8 * src)
  let known := s.ras.find? (fun y => y.is d src loc) = some e
  let logged := u.rasEvent d src 1 loc n
  let bad := (u.rasEvent d src 2 loc n).rasEvent d src 3 loc n
  let place (l : Nat) : Nat := if src = 0 then Config.hbmRow (l / 32) else if src = 1 then l / 128 else l
  let same (r : Retired) : Prop := r.die = d ∧ r.src = src ∧ place r.loc = place loc
  let toRetire (s : State) : State := { s with boot := { s.boot with lasting := s.boot.lasting.filter (fun r => !decide (same r)) ++ [x] } }
  let marked := if (bad.ras0 d (8 * src)).testBit 4 then toRetire bad else bad
  let poisoned := marked.spoil src loc
  let taken : State := { s with boot := { s.boot with lasting := s.boot.lasting.filter (· != x) } }
  let gone (s : State) : State := { s with boot := { s.boot with retired := s.boot.retired ++ [x] } }
  let logged4 := taken.rasEvent d src 4 loc (s.rasCount d src loc)
  let f := s.die d
  let passed : Prop := f.errAt = s.gcc + 1 ∧ (src < f.errLast.1 ∨ (src = f.errLast.1 ∧ loc < f.errLast.2))
  ((e.is d src loc = true ↔ e.die = d ∧ e.src = src ∧ place e.loc = place loc)
    ∧ (s.ras.find? (fun y => y.is d src loc) = none → 256 ≤ (s.ras.filter (fun y => y.die == d)).length → n = 1 ∧ ∃ o, o ∈ s.ras ∧ o.die = d
      ∧ (∀ y ∈ s.ras, y.die = d → o.start ≤ y.start) ∧ u.ras = s.ras.erase o ++ [{ die := d, src := src, loc := loc, count := 1, start := s.gcc }])
    ∧ (s.ras.find? (fun y => y.is d src loc) = none → (s.ras.filter (fun y => y.die == d)).length < 256 → n = 1)
    ∧ (known → s.gcc - e.start ≤ 96000000000 * (pol / 2 ^ 16 % 2 ^ 16) → n = e.count + 1)
    ∧ (known → 96000000000 * (pol / 2 ^ 16 % 2 ^ 16) < s.gcc - e.start → n = 1))
  ∧ (d < 4 → src < 6 → passed → exec (.correctedError d src loc) s = .next s ∧ exec (.uncorrectableError d src loc) s = .next s)
  ∧ (d < 4 → src < 6 → ¬ passed →
    (logged.ras0 d (8 * src) % 16 ≤ n → (logged.ras0 d (8 * src)).testBit 4 = true → exec (.correctedError d src loc) s = .next (toRetire (logged.rasEvent d src 3 loc n)))
    ∧ ((n < logged.ras0 d (8 * src) % 16 ∨ (logged.ras0 d (8 * src)).testBit 4 = false) → exec (.correctedError d src loc) s = .next logged)
    ∧ (2 ≤ src → exec (.uncorrectableError d src loc) s = .next poisoned)
    ∧ (src < 2 → (poisoned.bar 0 0x190020).toNat.testBit 0 = false → exec (.uncorrectableError d src loc) s = .next poisoned)
    ∧ (src < 2 → (poisoned.bar 0 0x190020).toNat.testBit 0 = true → ∀ p, poisoned.frameOwner loc = some p →
        exec (.uncorrectableError d src loc) s = .next (poisoned.startKillAll p))
    ∧ (src < 2 → (poisoned.bar 0 0x190020).toNat.testBit 0 = true → poisoned.frameOwner loc = none → exec (.uncorrectableError d src loc) s = .next poisoned))
  ∧ (src < 2 → s.spoil src loc = s.modAtom loc (fun t => { t with psn := true })) ∧ (4 ≤ src → s.spoil src loc = s)
  ∧ (loc / 2 ^ 8 % 2 ^ 8 < 64 → ∀ i, i < 16 → 16 * (64 * (loc / 2 ^ 16) + loc / 2 ^ 8 % 2 ^ 8) + i ∈ ((s.spoil 2 loc).hearth (loc % 256)).badPad)
  ∧ (64 ≤ loc / 2 ^ 8 % 2 ^ 8 → ∀ i, i < 16 → (loc / 2 ^ 8 % 2 ^ 8 - 64) * 2 ^ 19 + 16 * (loc / 2 ^ 16) + i ∈ ((s.spoil 2 loc).hearth (loc % 256)).badBst)
  ∧ (loc / 2 ^ 8 % 2 ^ 8 = 0 → (∃ k y, (k, y) ∈ s.l1 ∧ k / 2 ^ 110 = loc % 256) → ∃ k y, Map.find? (s.spoil 3 loc).l1 k = some y ∧ k / 2 ^ 110 = loc % 256 ∧ y.psn = true)
  ∧ (loc / 2 ^ 8 % 2 ^ 8 ≠ 0 → (s.hearth (loc % 256)).bstore ≠ [] → ∃ k y, (k, y) ∈ (s.hearth (loc % 256)).bstore ∧ k ∈ ((s.spoil 3 loc).hearth (loc % 256)).badWords)
  ∧ (∀ p, s.frameOwner loc = some p → ∃ w, w / 2 ^ 56 = p + 1 ∧ w / 2 ^ 52 % 2 ^ 4 = 0 ∧ w / 2 ^ 4 % 2 ^ 12 = 0 ∧ p < 16
      ∧ w = s.num (s.dreg (loc / (192 * 2 ^ 30)) 0 / 2 ^ 12 % 2 ^ 40 * 4096 + 8 * (loc % (192 * 2 ^ 30) / 65536)) 8)
  ∧ (x ∉ s.boot.lasting → exec (.retirement d src loc) s = .next s)
  ∧ (x ∈ s.boot.lasting → (src = 0 ∨ src = 2) →
    (taken.spareLeft x = true → exec (.retirement d src loc) s = .next { taken with boot := { taken.boot with sparing := taken.boot.sparing ++ [x] } })
    ∧ (taken.spareLeft x = false → exec (.retirement d src loc) s = .next (taken.rasEvent d src 5 loc (s.rasCount d src loc))))
  ∧ (x ∈ s.boot.lasting → (src = 4 ∨ 5 < src) → exec (.retirement d src loc) s = .next (gone logged4))
  ∧ (x ∈ s.boot.lasting → src = 1 → taken.lineHeld (loc / 32) = false → exec (.retirement d src loc) s = .next (gone ((logged4.lineAtomsIn (loc / 32)).foldl State.dropAtom logged4)))
  ∧ (x ∈ s.boot.lasting → src = 1 → taken.lineHeld (loc / 32) = true → exec (.retirement d src loc) s
      = .next { taken with boot := { taken.boot with lasting := taken.boot.lasting ++ [x] } })
  ∧ (x ∈ s.boot.lasting → src = 5 → exec (.retirement d src loc) s = .next taken)
  ∧ (x ∈ s.boot.lasting → src = 3 → loc / 2 ^ 8 % 2 ^ 8 ≠ 0 → ∃ v, exec (.retirement d src loc) s = .next v ∧ v.mem = logged4.mem ∧ v.boot = (gone logged4).boot ∧ v.l1 = logged4.l1
      ∧ (∀ h, h ≠ loc % 256 → v.hearth h = logged4.hearth h) ∧ ∀ k y, (k, y) ∈ (v.hearth (loc % 256)).bstore → (k, y) ∈ (logged4.hearth (loc % 256)).bstore)
  ∧ (x ∈ s.boot.lasting → src = 3 → loc / 2 ^ 8 % 2 ^ 8 = 0 → ∃ v, exec (.retirement d src loc) s = .next (gone v) ∧ v.mem = logged4.mem ∧ v.boot = taken.boot
      ∧ ∀ k e, (k, e) ∈ v.l1 → k / 2 ^ 110 ≠ loc % 256 → (k, e) ∈ logged4.l1)
  ∧ (x ∉ s.boot.sparing → exec (.rowSpareComplete d src loc) s = .next s)
  ∧ (x ∈ s.boot.sparing → ∃ v, exec (.rowSpareComplete d src loc) s = .next v ∧ x ∉ v.boot.sparing ∧ v.boot.retired = s.boot.retired ++ [x])
  ∧ (∃ v, exec (.rasClear d) s = .next v ∧ (∀ y, y ∈ v.ras ↔ y ∈ s.ras ∧ y.die ≠ d) ∧ v.boot = s.boot ∧ v.mem = s.mem))
  ∧ (∀ (s : State) (w d n h : Nat) (t : Int) (dies : List Nat),
  let plim := 8 * s.ras0 0 0x130
  let move (c : Nat) : Nat := if plim < w then min 3 (c + 1) else if 100 * w < 95 * plim then c - 1 else c
  let read (m : Map Int) (i : Nat) : Option Int := Map.find? m i
  let warned (u : State) (d : Nat) : Prop := if t < 1760 then u.mem = s.mem ∧ (u.die d).critAt = (s.die d).critAt ∧ (u.die d).evHead = (s.die d).evHead ∧ (u.die d).evLost = (s.die d).evLost
    else (u.die d).critAt = (if (s.die d).critAt = 0 then s.gcc + 1 else (s.die d).critAt) ∧ (u.die d).evHead + (u.die d).evLost = (s.die d).evHead + (s.die d).evLost + 1
  (∃ u, exec (.powerTick w dies) s = .next u ∧ u.mem = s.mem ∧ ∀ j, j < 4 → (u.die j).throttle = move (s.die j).throttle
      ∧ (u.die j).power = dies.getD j (s.die j).power ∧ (u.die j).hot = (s.die j).hot)
  ∧ (192 ≤ h → exec (.thermalEvent (.hearth h t)) s = .next s)
  ∧ (h < 192 → ∃ u, exec (.thermalEvent (.hearth h t)) s = .next u ∧ warned u (h / 48)
      ∧ (∀ i, read (u.die (h / 48)).coreTemps i = if i = h then some t else read (s.die (h / 48)).coreTemps i)
      ∧ (1600 ≤ t → (u.die (h / 48)).hot = true)
      ∧ (t < 1520 → Map.sorted (s.die (h / 48)).coreTemps = true → (∀ i y, (i, y) ∈ (s.die (h / 48)).coreTemps → i ≠ h → y < 1520) → (u.die (h / 48)).hot = false)
      ∧ (t < 1600 → ((∃ i y, read (s.die (h / 48)).coreTemps i = some y ∧ i ≠ h ∧ 1520 ≤ y) ∨ 1520 ≤ t) → (u.die (h / 48)).hot = (s.die (h / 48)).hot)
      ∧ (∀ j, j ≠ h / 48 → (u.die j).hot = (s.die j).hot ∧ (u.die j).coreTemps = (s.die j).coreTemps) ∧ u.hotStacks = s.hotStacks ∧ u.powered = s.powered)
  ∧ (16 ≤ n → exec (.thermalEvent (.hbm n t)) s = .next s)
  ∧ (n < 16 → ∃ u, exec (.thermalEvent (.hbm n t)) s = .next u ∧ warned u (n / 4)
      ∧ (∀ i, read (u.die (n / 4)).hbmTemps i = if i = n then some t else read (s.die (n / 4)).hbmTemps i)
      ∧ (1520 ≤ t → n ∈ u.hotStacks) ∧ (t < 1440 → n ∉ u.hotStacks) ∧ (1440 ≤ t → t < 1520 → (n ∈ u.hotStacks ↔ n ∈ s.hotStacks))
      ∧ (∀ k, k ≠ n → (k ∈ u.hotStacks ↔ k ∈ s.hotStacks)) ∧ (∀ j, (u.die j).hot = (s.die j).hot) ∧ u.powered = s.powered)
  ∧ ((s.die d).hot = true → 2 ≤ s.ceiling d) ∧ ((s.die d).hot = false → s.ceiling d = (s.die d).throttle)
  ∧ (s.powerDue = true ↔ ∃ j x, (j, x) ∈ s.dies ∧ x.critAt ≠ 0 ∧ x.critAt + 16000000 ≤ s.gcc + 1))

/-- R131, R138, R140-R146, R157, R253: the words that the spec works out from its tables decode to the instructions that they stand for. -/
def Obligations.DecodedWords : Prop :=  decodeLane 0x43900502_88A30000#64 = .ok (.ffma (.st 1#3) .rne (.v 5#7) (.v 2#7) (.iqPop 0#3) (.k 3#4))
  ∧ decodeLane 0x840507A2_03002010#64 = .ok (.ldw .none { scope := 1#2, cls := 1#2, sx := false, shift := 2#2, imm := 16#12 } (.v 7#7) (.k 2#4) (.v 3#7))
  ∧ decodeLane 0x8B000014_E0890008#64
      = .ok (.sts .none { scope := 0#2, cls := 0#2, sx := false, shift := 0#2, imm := 8#12 } (.v 20#7) (.imm 32#6) (.iqPop 1#3))
  ∧ decodeLane 0x05000101_00FFFFFD#64 = .ok (.iaddi .none (.v 1#7) (.v 1#7) 0xFFFFFD#24)
  ∧ decodeLane 0x02000400_3F800000#64 = .ok (.movi .none (.v 4#7) 0x3F800000#32)
  ∧ decodeLane 0xC0000102_03A40000#64 = .ok (.mma .none 1#2 2#7 3#7 4#4 0#16)
  ∧ decodeLane 0xC2000500_0000001E#64 = .ok (.mrd .none (.v 5#7) 2#2 7#5)
  ∧ decodeLane 0xC4040008_00000007#64 = .ok (.mscat .none .rod (.v 8#7) 3#2 .bf16)
  ∧ decodeLane 0xC5000900_00000000#64 = .ok (.mver .none (.v 9#7) 0#2)
  ∧ decodeCc 0x0062988B#32 = .bemitRl 5#5 6#5 17#12 ∧ decodeCc 0x0A03802B#32 = .esend 7#5 1#2 1#2
  ∧ decodeCc 0x0800260B#32 = .ppopAq 12#5 ∧ decodeCc 0x0404A68B#32 = .bcancel 13#5 9#5 ∧ decodeCc 0x0407300B#32 = .split 14#5 0x020#12
  ∧ decodeCc 0x0032B02B#32 = .cmpwait 5#5 3#3 ∧ decodeCc 0x0024105B#32 = .nbinit 2#4 8#5
  ∧ decodeCc 0x0315857B#32 = .ldaq 10#5 11#5 3#3 0#2 1#2 ∧ decodeCc 0x026590FB#32 = .strl 11#5 6#5 2#3 0#2 1#2
  ∧ decodeCc 0x0020207B#32 = .fences 2#2
  ∧ decodeEngine 0x08FE#16 = .ok (.gccp 0xFE#8) ∧ decodeEngine 0x8006#16 = .ok (.litPush 6#14) ∧ decodeEngine 0xC6A0#16 = .ok (.litContinue 0x6A0#14)
  ∧ decodeEngine 0x0500#16 = .ok .neg ∧ decodeEngine 0x0603#16 = .ok (.shli 3#8) ∧ decodeEngine 0x0100#16 = .ok .dup
  ∧ decodeEngine 0x0700#16 = .ok .add ∧ decodeEngine 0x0901#16 = .ok (.post 1#3)

/-- R146, R148, R149: an engine word decodes to an instruction exactly if it is that instruction's encoding: no bit of a word is dropped, and a word that
is no instruction's encoding is refused. -/
def Obligations.EngineEncoding : Prop := ∀ (w : BitVec 16) (i : Instr), decodeEngine w = .ok i ↔ encodeEngine i = some w

/-- R130-R138: the word of every well-formed lane instruction decodes to it with every operand; and a lane word that decodes to an instruction other
than the unassigned opcode is that instruction's word, so that no reserved field is other than zero. -/
def Obligations.LaneEncoding : Prop := ∀ (w : BitVec 64) (i : Instr),
  (i.wf = true → encodeLane i = some w → decodeLane w = .ok i)
  ∧ (decodeLane w = .ok i → i = .unassignedLaneOpcode w ∨ encodeLane i = some w)

/-- R139-R145, R151-R157: the 32-bit word of every well-formed control instruction decodes to it with every operand; and a word that decodes to an instruction is that
instruction's word, so that no reserved field is other than zero, but for the fields that the base lets an implementation ignore: those of FENCE and FENCE.I, and the form of a
CSR read that writes nothing.
What the model settles itself: reserved scopes and widths (log 73). -/
def Obligations.ControlEncoding : Prop := ∀ (w : BitVec 32) (i : Instr),
  (i.wf = true → encodeCc i = some w → decodeCc w = i)
  ∧ (decodeCc w = i → (∃ c, i = .ccIllegalInstruction c) ∨ encodeCc i = some w
    ∨ (i = .rvFence ∧ w.extractLsb' 0 7 = 0x0F#7 ∧ w.extractLsb' 12 3 = 0#3) ∨ (i = .fenceI ∧ w.extractLsb' 0 7 = 0x0F#7 ∧ w.extractLsb' 12 3 = 1#3)
    ∨ ∃ c, i = .rvIntegerInstruction (.csrRead (w.extractLsb' 7 5) c) ∧ w.extractLsb' 0 7 = 0x73#7 ∧ w.extractLsb' 12 2 ∈ [2#2, 3#2] ∧ w.extractLsb' 15 5 = 0#5
      ∧ w.extractLsb' 20 12 = csrCode c)

/-- R145, R151: every 16-bit form of the C extension without floating point expands to the instruction of its base form, with the bits of its operands where the extension puts them;
the floating-point forms, the reserved ones and the halfword 0 are illegal. -/
def Obligations.CompressedEncoding : Prop := ∀ (r r2 : BitVec 5) (a b : BitVec 3) (u5 : BitVec 5) (i : BitVec 6) (u8 : BitVec 8) (j : BitVec 11) (x11 : BitVec 11) (h : BitVec 16),
  let b5 (k : Nat) : BitVec 1 := u5.extractLsb' k 1
  let b6 (k : Nat) : BitVec 1 := i.extractLsb' k 1
  let b8 (k : Nat) : BitVec 1 := u8.extractLsb' k 1
  let bj (k : Nat) : BitVec 1 := j.extractLsb' k 1
  let ra : XReg := 1#2 ++ a
  let rb : XReg := 1#2 ++ b
  let ii : BitVec 12 := i.signExtend 12
  let lo : BitVec 5 := i.extractLsb' 0 5
  -- quadrant 0
  decodeC (0#3 ++ u8.extractLsb' 2 2 ++ u8.extractLsb' 4 4 ++ b8 0 ++ b8 1 ++ a ++ 0#2) = (if u8 = 0 then ccIllegal else rvi (.opI .addi ra 2 (0#2 ++ u8 ++ 0#2)))
  ∧ decodeC (2#3 ++ u5.extractLsb' 1 3 ++ a ++ b5 0 ++ b5 4 ++ b ++ 0#2) = .ccLoadStore (.load .w false rb ra (0#5 ++ u5 ++ 0#2))
  ∧ decodeC (3#3 ++ u5.extractLsb' 0 3 ++ a ++ u5.extractLsb' 3 2 ++ b ++ 0#2) = .ccLoadStore (.load .d false rb ra (0#4 ++ u5 ++ 0#3))
  ∧ decodeC (6#3 ++ u5.extractLsb' 1 3 ++ a ++ b5 0 ++ b5 4 ++ b ++ 0#2) = .ccLoadStore (.store .w ra rb (0#5 ++ u5 ++ 0#2))
  ∧ decodeC (7#3 ++ u5.extractLsb' 0 3 ++ a ++ u5.extractLsb' 3 2 ++ b ++ 0#2) = .ccLoadStore (.store .d ra rb (0#4 ++ u5 ++ 0#3))
  -- quadrant 1
  ∧ decodeC (0#3 ++ b6 5 ++ r ++ lo ++ 1#2) = rvi (.opI .addi r r ii)
  ∧ decodeC (1#3 ++ b6 5 ++ r ++ lo ++ 1#2) = (if r = 0 then ccIllegal else rvi (.opI .addiw r r ii))
  ∧ decodeC (2#3 ++ b6 5 ++ r ++ lo ++ 1#2) = rvi (.opI .addi r 0 ii)
  ∧ (r ≠ 2 → decodeC (3#3 ++ b6 5 ++ r ++ lo ++ 1#2) = if i = 0 then ccIllegal else rvi (.lui r (i.signExtend 20)))
  ∧ decodeC (3#3 ++ b6 5 ++ 2#5 ++ b6 0 ++ b6 2 ++ i.extractLsb' 3 2 ++ b6 1 ++ 1#2)
    = (if i = 0 then ccIllegal else rvi (.opI .addi 2 2 ((i ++ 0#4 : BitVec 10).signExtend 12)))
  ∧ decodeC (4#3 ++ b6 5 ++ 0#2 ++ a ++ lo ++ 1#2) = rvi (.opSh .srli ra ra i)
  ∧ decodeC (4#3 ++ b6 5 ++ 1#2 ++ a ++ lo ++ 1#2) = rvi (.opSh .srai ra ra i)
  ∧ decodeC (4#3 ++ b6 5 ++ 2#2 ++ a ++ lo ++ 1#2) = rvi (.opI .andi ra ra ii)
  ∧ decodeC (4#3 ++ 3#3 ++ a ++ 0#2 ++ b ++ 1#2) = rvi (.opR .sub ra ra rb)
  ∧ decodeC (4#3 ++ 3#3 ++ a ++ 1#2 ++ b ++ 1#2) = rvi (.opR .xor ra ra rb)
  ∧ decodeC (4#3 ++ 3#3 ++ a ++ 2#2 ++ b ++ 1#2) = rvi (.opR .or ra ra rb)
  ∧ decodeC (4#3 ++ 3#3 ++ a ++ 3#2 ++ b ++ 1#2) = rvi (.opR .and ra ra rb)
  ∧ decodeC (4#3 ++ 7#3 ++ a ++ 0#2 ++ b ++ 1#2) = rvi (.opR .subw ra ra rb)
  ∧ decodeC (4#3 ++ 7#3 ++ a ++ 1#2 ++ b ++ 1#2) = rvi (.opR .addw ra ra rb)
  ∧ decodeC (4#3 ++ 7#3 ++ a ++ 2#2 ++ b ++ 1#2) = ccIllegal ∧ decodeC (4#3 ++ 7#3 ++ a ++ 3#2 ++ b ++ 1#2) = ccIllegal
  ∧ decodeC (5#3 ++ bj 10 ++ bj 3 ++ j.extractLsb' 7 2 ++ bj 9 ++ bj 5 ++ bj 6 ++ j.extractLsb' 0 3 ++ bj 4 ++ 1#2) = rvi (.jal 0 (j.signExtend 20))
  ∧ decodeC (6#3 ++ b8 7 ++ u8.extractLsb' 2 2 ++ a ++ u8.extractLsb' 5 2 ++ u8.extractLsb' 0 2 ++ b8 4 ++ 1#2) = .rvBranch .eq ra 0 (u8.signExtend 12)
  ∧ decodeC (7#3 ++ b8 7 ++ u8.extractLsb' 2 2 ++ a ++ u8.extractLsb' 5 2 ++ u8.extractLsb' 0 2 ++ b8 4 ++ 1#2) = .rvBranch .ne ra 0 (u8.signExtend 12)
  -- quadrant 2
  ∧ decodeC (0#3 ++ b6 5 ++ r ++ lo ++ 2#2) = rvi (.opSh .slli r r i)
  ∧ decodeC (2#3 ++ b6 3 ++ r ++ i.extractLsb' 0 3 ++ i.extractLsb' 4 2 ++ 2#2) = (if r = 0 then ccIllegal else .ccLoadStore (.load .w false r 2 (0#4 ++ i ++ 0#2)))
  ∧ decodeC (3#3 ++ b6 2 ++ r ++ i.extractLsb' 0 2 ++ i.extractLsb' 3 3 ++ 2#2) = (if r = 0 then ccIllegal else .ccLoadStore (.load .d false r 2 (0#3 ++ i ++ 0#3)))
  ∧ decodeC (4#3 ++ 0#1 ++ r ++ r2 ++ 2#2) = (if r2 ≠ 0 then rvi (.opR .add r 0 r2) else if r = 0 then ccIllegal else .jalr 0 r 0)
  ∧ decodeC (4#3 ++ 1#1 ++ r ++ r2 ++ 2#2) = (if r2 ≠ 0 then rvi (.opR .add r r r2) else if r = 0 then .ebreak else .jalr 1 r 0)
  ∧ decodeC (6#3 ++ i.extractLsb' 0 4 ++ i.extractLsb' 4 2 ++ r ++ 2#2) = .ccLoadStore (.store .w 2 r (0#4 ++ i ++ 0#2))
  ∧ decodeC (7#3 ++ i.extractLsb' 0 3 ++ i.extractLsb' 3 3 ++ r ++ 2#2) = .ccLoadStore (.store .d 2 r (0#3 ++ i ++ 0#3))
  -- what is no form: the floating-point ones and those of no extension at hand
  ∧ decodeC 0 = ccIllegal ∧ (∀ q ∈ [1#3, 4#3, 5#3], decodeC (q ++ x11 ++ 0#2) = ccIllegal) ∧ (∀ q ∈ [1#3, 5#3], decodeC (q ++ x11 ++ 2#2) = ccIllegal)
  ∧ (isCompressed h = true ↔ h.extractLsb' 0 2 ≠ 3#2)

/-- R41, R138, R145, R151, R243 (the order of turns: notes/assumptions/1): the turn of an agent, at an edge of its hearth's clock, runs the instruction that its bytes decode to, with the agent at hand. A control
thread takes it from its pc, a 16-bit form as two bytes, unless a split of a higher slot has acted in the cycle
or a lower one's TMARK word comes first (R159, R339), and goes on with an instruction that it has fetched, with the yscope and ybbase of its issue; a lane group the word of its block at the offset that it has reached; an engine the word at the
head of the queue whose turn it is, and the turn of the engine passes with a queue's last word; a step of the part is run as it is, but a request of the host
that an earlier posted write holds back does not come yet (R387); and a module without power only starts.
What the model settles itself: no power (log 69). -/
def Obligations.StepRunsDecoded : Prop := ∀ (s : State) (r : List Turn) (h t e q pc : Nat) (i : Instr) (tg tg2 : Tgt) (b : Blk) (qw : QWord) (ws : List QWord)
    (lo hi : BitVec 16),
  let c : State := ({ s with sched := r }).ticked
  let th := s.thread (tkey h t)
  let x := s.ctx (ckey h th.ctx)
  let p := x.part
  let c1 := c.enter h t
  let c2 := c1.touchTgt tg
  let runs (w len : Nat) (v : State) : State :=
    { (v.dropLines h p).modThread (tkey h t) (fun th => { th with ir := w, held := true, ys := x.yscope, yb := x.ybbase }) with focus := { h := h, t := t, len := len } }
  let turn := s.powered = true ∧ s.sched = .cc h t :: r ∧ c.threadFree h t = true ∧ c.atEdge h = true ∧ c.slotPassed h t = false ∧ c.markFirst h t = false
  let fresh := turn ∧ th.begun = false ∧ th.xf = none ∧ th.pc = BitVec.ofNat 64 pc ∧ pc < 2 ^ 64
  let placed := fresh ∧ c1.bppcHit h t = none ∧ c1.reach h p pc .fetch = .ok tg
  let ready := placed ∧ c1.fetched h tg 2 = .ok lo.toNat
  (turn → th.begun = true → step s = exec (ccDecode th.ir).1 { c1 with focus := { h := h, t := t, len := (ccDecode th.ir).2 } })
  ∧ (ready → lo.toNat % 4 ≠ 3 → step s = exec (decodeC lo) (runs lo.toNat 2 c2))
  ∧ (ready → lo.toNat % 4 = 3 → c2.reach h p ((pc + 2) % 2 ^ 64) .fetch = .ok tg2 → c2.fetched h tg2 2 = .ok hi.toNat →
      step s = exec (decodeCc (hi ++ lo)) (runs (lo.toNat + 2 ^ 16 * hi.toNat) 4 (c2.touchTgt tg2)))
  ∧ (∀ n, fresh → c1.bppcHit h t = some n → step s = .next (c1.trapCc h t { cause := 0x17, sub := 1, d8 := n }))
  ∧ (placed → c1.fetched h tg 2 = .absent tg2 → step s = .next (c1.askLine h p th.ctx tg2))
  ∧ (∀ cause sub, placed → c1.fetched h tg 2 = .bad cause sub → step s = .next ((c1.dropLines h p).trapCc h t (trapVa cause sub pc)))
  ∧ (∀ (u : State) n, tg.far = false → u.fetched h tg n = .ok (u.peekNum h tg n))
  ∧ (s.powered = true → s.sched = .lane h t :: r → c.atEdge h = true → (s.group (ckey h t)).blk = some b → b.inPass = true → c.groupIssues h t = true →
      (decodeLane (b.body.getD b.w 0) = .ok i → step s = exec i { c with focus := { h := h, t := t } })
      ∧ ((∃ x, decodeLane (b.body.getD b.w 0) = .error x) →
        step s = exec (.unassignedLaneOpcode (b.body.getD b.w 0)) { c with focus := { h := h, t := t } }))
  ∧ (s.powered = true → s.sched = .engine h e :: r → c.atEdge h = true → c.turnOf h e = some q → (s.eng q).words = qw :: ws →
      let u : State := { c with focus := { h := h, t := e, q := q } }
      (engTakes q qw.w = some i → step s = exec i (if ws = [] then u.passTurn q else u))
      ∧ (engTakes q qw.w = none → step s = .next (u.badWord q)))
  ∧ (s.powered = true → s.sched = .cc h t :: r → (c.threadFree h t = false ∨ c.atEdge h = false ∨ c.slotPassed h t = true ∨ c.markFirst h t = true) → step s = .next c)
  ∧ (s.powered = true → s.sched = .event i :: r → c.hostHolds i = false → step s = exec i c)
  ∧ (s.powered = true → s.sched = .event i :: r → c.hostHolds i = true → step s = .next c)
  ∧ (s.powered = true → s.sched = .clock :: r → step s = .next c.clockTick)
  ∧ (s.sched = [] → step s = step { s with sched := [Config.arbiter s.tick] })
  ∧ (∀ v, s.powered = false → s.sched = .event (.boot v) :: r → step s = exec (.boot v) c)
  ∧ (s.powered = false → s.sched = .cc h t :: r → step s = .fault .noPower)
  ∧ (s.powered = false → s.sched = .lane h t :: r → step s = .fault .noPower)
  ∧ (s.powered = false → s.sched = .engine h e :: r → step s = .fault .noPower)

/-- R31, R370, R373, R400, R448: the values that the spec gives for reset: the RAS policies hold a window of 1,440 minutes, a threshold of 3 and retirement on (off for links), the module power
limit is 2,600 W, every clock step is 00, every floor is 0, no task has run on a group, and no partition is running. No memory byte is listed, which is
the model's choice (notes/assumptions/3).
What the model settles itself: reset values the manual does not give (log 2). -/
def Obligations.ResetValues : Prop :=  State.reset.mem = [] ∧ (∀ a, State.reset.byte a = 0)
  ∧ (∀ d j, d < 4 → j < 6 → bitsOf (State.reset.ras0 d (8 * j)) 31 16 = 1440 ∧ bitsOf (State.reset.ras0 d (8 * j)) 3 0 = 3
      ∧ bitOf (State.reset.ras0 d (8 * j)) 4 = decide (j < 5))
  ∧ State.reset.ras0 0 0x130 = 2600
  ∧ (∀ p j, p < 16 → j < 6 → State.reset.preg p (0x210 + 8 * j) = 0)
  ∧ (∀ h, (State.reset.hearth h).step = 0) ∧ (∀ n, (State.reset.slice n).floor = 0)
  ∧ (∀ k, (State.reset.group k).everRan = false ∧ (State.reset.ctx k).st = .idle) ∧ (∀ p, (State.reset.part p).state = 0)

/-- The memory of State.reset is in canonical form. -/
def Obligations.ResetMemory : Prop := State.reset.memOk = true

/-- R1, R2, R369, R384: a byte reads as it was last written, and a write leaves every other byte alone; the byte at the lowest address holds the lowest bits of a number, read or written; a byte
that is not enabled stays; a granule that carries the zero mark reads 0 and keeps reading 0 when it is materialised. A write changes nothing but memory and its
marks. -/
def Obligations.MemoryReads : Prop := ∀ (s : State) (a n v x : Nat) (b : Byte) (bs : List Byte) (es : List (Option Byte)),
  (s.setByte a b).byte x = (if x = a then b else s.byte x)
  ∧ (s.setBytes a bs).byte x = (if a ≤ x then bs.getD (x - a) (s.byte x) else s.byte x)
  ∧ Wrote s a es (s.setEnabled a es)
  ∧ s.num a n = ((List.range n).map (fun i => (s.byte (a + i)).toNat * 256 ^ i)).sum
  ∧ ((s.setNum a n v).num a n = v % 256 ^ n)
  ∧ (∀ i, i < n → (s.setNum a n v).byte (a + i) = BitVec.ofNat 8 (v / 256 ^ i))
  ∧ (x < a ∨ a + n ≤ x → (s.setNum a n v).byte x = s.byte x)
  ∧ (s.zeroed.contains (x / 4096) = true → s.byte x = 0) ∧ (s.materialise a).byte x = s.byte x
  ∧ (∃ m z, s.setEnabled a es = { s with mem := m, zeroed := z })

/-- Memory keeps its canonical form: from every state whose memory has it, every step, of whichever agent or of the outside world, leaves a memory that
has it. -/
def Obligations.MemoryStaysCanonical : Prop := ∀ (s t : State), s.memOk = true → step s = .next t → t.memOk = true

/-- R80-R84: rnd of ± m · 2^e. A result that is finite is the representable number that the mode asks for: the nearest, at a tie the one with an even pattern (RNE); the nearest toward
zero (RTZ), not above (RDN), not below (RUP); itself, or where it is inexact an odd pattern next to it (ROD). A value that rounds past the largest finite number gives the overflow
result of the mode with OF and NX. NX says that the result differs from the value, and UF that it differs and is tiny after rounding. With flush-to-zero a tiny result is
the zero of its sign with UF and NX. -/
def Obligations.Rounding : Prop := ∀ (f : Fmt) (rm : Rm) (neg : Bool) (m : Nat) (e : Int), (f = f32 ∨ f = f16 ∨ f = bf16) → m ≠ 0 →
  let y : Rat := (if neg then -1 else 1) * m * (2 : Rat) ^ e
  let r := rndFin f rm false neg m e
  let z := rndFin f rm true neg m e
  (f.overflows rm neg y.abs → r = (f.overflow rm neg, flOF ||| flNX) ∧ z = r)
  ∧ (¬ f.overflows rm neg y.abs → ∃ v, f.finite r.1 = some v
      ∧ (∀ w, f.represents w → match rm with
          | .rne => (v - y).abs ≤ (w - y).abs ∧ (w ≠ v → (v - y).abs = (w - y).abs → r.1 % 2 = 0)
          | .rtz => v.abs ≤ y.abs ∧ (w.abs ≤ y.abs → w.abs ≤ v.abs)
          | .rdn => v ≤ y ∧ (w ≤ y → w ≤ v)
          | .rup => y ≤ v ∧ (y ≤ w → v ≤ w)
          | .rod => (v = y ∨ r.1 % 2 = 1) ∧ ¬ (min v y < w ∧ w < max v y))
      ∧ f.signOf r.1 = neg
      ∧ r.2 = (if v = y then 0 else if f.tiny rm neg y.abs then flUF ||| flNX else flNX)
      ∧ z = if f.tiny rm neg y.abs then (f.zeroBits neg, flUF ||| flNX) else r)
end

