-- ==== Sys2Proof/Laws/Maps.lean ====
section
/-! SUPPORT. What the finite maps answer: a read after a write, the canonical form, and lists by place. -/

namespace Sys2Proof.Machine

variable {α : Type}

@[simp] theorem Map.find?_nil (k : Nat) : Map.find? ([] : Map α) k = none := rfl

@[simp] theorem Map.find?_put_self (m : Map α) (k : Nat) (a : α) : Map.find? (Map.put m k a) k = some a := by
  induction m with
  | nil => simp [Map.put, Map.find?]
  | cons p r ih =>
    obtain ⟨j, b⟩ := p
    simp only [Map.put]
    split
    · simp [Map.find?]
    · split
      · simp [Map.find?]
      · next h _ => simp [Map.find?, h, ih]

theorem Map.find?_put_ne (m : Map α) {k j : Nat} (a : α) (h : j ≠ k) : Map.find? (Map.put m k a) j = Map.find? m j := by
  induction m with
  | nil => simp [Map.put, Map.find?, Ne.symm h]
  | cons p r ih =>
    obtain ⟨i, b⟩ := p
    simp only [Map.put]
    split
    · next e => subst e; simp [Map.find?, Ne.symm h]
    · split
      · simp [Map.find?, Ne.symm h]
      · simp [Map.find?, ih]

@[simp] theorem Map.get_put_self (d : α) (m : Map α) (k : Nat) (a : α) : Map.get d (Map.put m k a) k = a := by simp [Map.get]

theorem Map.get_put_ne (d : α) (m : Map α) {k j : Nat} (a : α) (h : j ≠ k) : Map.get d (Map.put m k a) j = Map.get d m j := by
  simp [Map.get, Map.find?_put_ne m a h]

@[simp] theorem Map.put_put (m : Map α) (k : Nat) (a b : α) : Map.put (Map.put m k a) k b = Map.put m k b := by
  induction m with
  | nil => simp [Map.put]
  | cons p r ih =>
    obtain ⟨j, c⟩ := p
    simp only [Map.put]
    split
    · simp [Map.put]
    · split
      · simp [Map.put]
      · next h g => simp [Map.put, h, g, ih]

@[simp] theorem Map.get_nil (d : α) (k : Nat) : Map.get d ([] : Map α) k = d := rfl

@[simp] theorem Map.get_mod_self (d : α) (m : Map α) (k : Nat) (f : α → α) : Map.get d (Map.mod d m k f) k = f (Map.get d m k) := by
  simp [Map.mod]

theorem Map.get_mod_ne (d : α) (m : Map α) {k j : Nat} (f : α → α) (h : j ≠ k) : Map.get d (Map.mod d m k f) j = Map.get d m j := by
  simp [Map.mod, Map.get_put_ne _ _ _ h]

@[simp] theorem Map.mod_mod (d : α) (m : Map α) (k : Nat) (f g : α → α) :
    Map.mod d (Map.mod d m k f) k g = Map.mod d m k (fun x => g (f x)) := by
  simp [Map.mod]

@[simp] theorem Map.put_mod (d : α) (m : Map α) (k : Nat) (f : α → α) (a : α) : Map.put (Map.mod d m k f) k a = Map.put m k a := by
  simp [Map.mod]

theorem Map.find?_erase_self (m : Map α) (k : Nat) : Map.find? (Map.erase m k) k = none := by
  induction m with
  | nil => rfl
  | cons p r ih =>
    obtain ⟨j, b⟩ := p
    simp only [Map.erase]
    split
    · exact ih
    · next h => simp [Map.find?, h, ih]

theorem Map.find?_erase_ne (m : Map α) {k j : Nat} (h : j ≠ k) : Map.find? (Map.erase m k) j = Map.find? m j := by
  induction m with
  | nil => rfl
  | cons p r ih =>
    obtain ⟨i, b⟩ := p
    simp only [Map.erase]
    split
    · next e => subst e; simp [Map.find?, Ne.symm h, ih]
    · simp [Map.find?, ih]

/-- A read after a write gives the value written, also where writing the default lists nothing. -/
@[simp] theorem Map.get_set_self [DecidableEq α] (d : α) (m : Map α) (k : Nat) (a : α) : Map.get d (Map.set d m k a) k = a := by
  simp only [Map.set]
  split
  · next h => simp [Map.get, Map.find?_erase_self, h]
  · simp

/-- A write leaves every other key. -/
theorem Map.get_set_ne [DecidableEq α] (d : α) (m : Map α) {k j : Nat} (a : α) (h : j ≠ k) :
    Map.get d (Map.set d m k a) j = Map.get d m j := by
  simp only [Map.set]
  split
  · simp [Map.get, Map.find?_erase_ne m h]
  · exact Map.get_put_ne d m a h

/-! ## The canonical form -/

theorem Map.above_le {n k : Nat} (m : Map α) (h : Map.above k m = true) (l : n ≤ k) : Map.above n m = true := by
  cases m with
  | nil => rfl
  | cons p r =>
    simp only [Map.above, Bool.and_eq_true, decide_eq_true_eq] at h ⊢
    exact ⟨by omega, h.2⟩

theorem Map.above_put (n k : Nat) (a : α) (m : Map α) (h : Map.above n m = true) (l : n < k) : Map.above n (Map.put m k a) = true := by
  induction m generalizing n with
  | nil => simpa [Map.put, Map.above] using l
  | cons p r ih =>
    obtain ⟨j, b⟩ := p
    simp only [Map.above, Bool.and_eq_true, decide_eq_true_eq] at h
    simp only [Map.put]
    split
    · next e => subst e; simp [Map.above, h]
    · split
      · next g => simp [Map.above, h, l, g]
      · next e g => simp [Map.above, h, ih j h.2 (by omega)]

theorem Map.above_erase (n k : Nat) (m : Map α) (h : Map.above n m = true) : Map.above n (Map.erase m k) = true := by
  induction m generalizing n with
  | nil => rfl
  | cons p r ih =>
    obtain ⟨j, b⟩ := p
    simp only [Map.above, Bool.and_eq_true, decide_eq_true_eq] at h
    simp only [Map.erase]
    split
    · exact ih n (Map.above_le r h.2 (by omega))
    · simp [Map.above, h.1, ih j h.2]

theorem Map.sorted_put (k : Nat) (a : α) (m : Map α) (h : Map.sorted m = true) : Map.sorted (Map.put m k a) = true := by
  cases m with
  | nil => rfl
  | cons p r =>
    obtain ⟨j, b⟩ := p
    simp only [Map.sorted] at h
    simp only [Map.put]
    split
    · next e => subst e; exact h
    · split
      · next g => simp [Map.sorted, Map.above, g, h]
      · next e g => simpa [Map.sorted] using Map.above_put j k a r h (by omega)

theorem Map.sorted_erase (k : Nat) (m : Map α) (h : Map.sorted m = true) : Map.sorted (Map.erase m k) = true := by
  induction m with
  | nil => rfl
  | cons p r ih =>
    obtain ⟨j, b⟩ := p
    simp only [Map.sorted] at h
    simp only [Map.erase]
    split
    · refine ih ?_
      cases r with
      | nil => rfl
      | cons q t => simp only [Map.above, Bool.and_eq_true] at h; exact h.2
    · simpa [Map.sorted] using Map.above_erase j k r h

theorem Map.noDefault_put [DecidableEq α] (d : α) (k : Nat) (a : α) (m : Map α) (h : Map.noDefault d m = true) (n : a ≠ d) :
    Map.noDefault d (Map.put m k a) = true := by
  induction m with
  | nil => simp [Map.put, Map.noDefault, n]
  | cons p r ih =>
    obtain ⟨j, b⟩ := p
    simp only [Map.noDefault, Bool.and_eq_true, decide_eq_true_eq] at h
    simp only [Map.put]
    split
    · simp [Map.noDefault, n, h.2]
    · split
      · simp [Map.noDefault, n, h]
      · simp [Map.noDefault, h.1, ih h.2]

theorem Map.noDefault_erase [DecidableEq α] (d : α) (k : Nat) (m : Map α) (h : Map.noDefault d m = true) :
    Map.noDefault d (Map.erase m k) = true := by
  induction m with
  | nil => rfl
  | cons p r ih =>
    obtain ⟨j, b⟩ := p
    simp only [Map.noDefault, Bool.and_eq_true, decide_eq_true_eq] at h
    simp only [Map.erase]
    split
    · exact ih h.2
    · simp [Map.noDefault, h.1, ih h.2]

/-- Writing a key keeps the canonical form. -/
theorem Map.wf_set [DecidableEq α] (d : α) (m : Map α) (k : Nat) (a : α) (h : Map.wf d m = true) : Map.wf d (Map.set d m k a) = true := by
  simp only [Map.wf, Bool.and_eq_true] at h ⊢
  simp only [Map.set]
  split
  · exact ⟨Map.sorted_erase k m h.1, Map.noDefault_erase d k m h.2⟩
  · next n => exact ⟨Map.sorted_put k a m h.1, Map.noDefault_put d k a m h.2 n⟩

/-! ## Lists by place, little-endian numbers -/

@[simp] theorem natsFrom_length (a n : Nat) : (natsFrom a n).length = n := by
  induction n generalizing a with
  | zero => rfl
  | succ n ih => simp [natsFrom, ih]

theorem mem_natsFrom {i a n : Nat} : i ∈ natsFrom a n ↔ a ≤ i ∧ i < a + n := by
  induction n generalizing a with
  | zero => simp [natsFrom]
  | succ n ih => simp only [natsFrom, List.mem_cons, ih]; omega

@[simp] theorem bytesOf_length (v n : Nat) : (bytesOf v n).length = n := by
  induction n generalizing v with
  | zero => rfl
  | succ n ih => simp [bytesOf, ih]

/-- Reading back the bytes of a number gives its low bits. -/
theorem natOfBytes_bytesOf (v n : Nat) : natOfBytes (bytesOf v n) = v % 2 ^ (8 * n) := by
  induction n generalizing v with
  | zero => simp [bytesOf, natOfBytes, Nat.mod_one]
  | succ n ih =>
    simp only [bytesOf, natOfBytes, ih, BitVec.toNat_ofNat]
    rw [show 2 ^ (8 * (n + 1)) = 256 * 2 ^ (8 * n) by rw [Nat.mul_succ, pow_add, Nat.mul_comm]; rfl, Nat.mod_mul]

end Sys2Proof.Machine
end

