-- ==== Sys2Proof/Laws/State.lean ====
section
/-! SUPPORT. What each update of a record of the state leaves of every other field, and what it gives the record: all by definition. -/

namespace Sys2Proof.Machine

section
variable (s : State) (k j : Nat) (f g : Thread → Thread)
@[simp] theorem State.modThread_powered : (s.modThread k f).powered = s.powered := rfl
@[simp] theorem State.modThread_gcc : (s.modThread k f).gcc = s.gcc := rfl
@[simp] theorem State.modThread_sched : (s.modThread k f).sched = s.sched := rfl
@[simp] theorem State.modThread_focus : (s.modThread k f).focus = s.focus := rfl
@[simp] theorem State.modThread_tick : (s.modThread k f).tick = s.tick := rfl
@[simp] theorem State.modThread_mem : (s.modThread k f).mem = s.mem := rfl
@[simp] theorem State.modThread_zeroed : (s.modThread k f).zeroed = s.zeroed := rfl
@[simp] theorem State.modThread_bars : (s.modThread k f).bars = s.bars := rfl
@[simp] theorem State.modThread_ctxs : (s.modThread k f).ctxs = s.ctxs := rfl
@[simp] theorem State.modThread_groups : (s.modThread k f).groups = s.groups := rfl
@[simp] theorem State.modThread_hearths : (s.modThread k f).hearths = s.hearths := rfl
@[simp] theorem State.modThread_engs : (s.modThread k f).engs = s.engs := rfl
@[simp] theorem State.modThread_parts : (s.modThread k f).parts = s.parts := rfl
@[simp] theorem State.modThread_chans : (s.modThread k f).chans = s.chans := rfl
@[simp] theorem State.modThread_atoms : (s.modThread k f).atoms = s.atoms := rfl
@[simp] theorem State.modThread_slices : (s.modThread k f).slices = s.slices := rfl
@[simp] theorem State.modThread_recalls : (s.modThread k f).recalls = s.recalls := rfl
@[simp] theorem State.modThread_l1 : (s.modThread k f).l1 = s.l1 := rfl
@[simp] theorem State.modThread_reqs : (s.modThread k f).reqs = s.reqs := rfl
@[simp] theorem State.modThread_reps : (s.modThread k f).reps = s.reps := rfl
@[simp] theorem State.modThread_probes : (s.modThread k f).probes = s.probes := rfl
@[simp] theorem State.modThread_exts : (s.modThread k f).exts = s.exts := rfl
@[simp] theorem State.modThread_lines : (s.modThread k f).lines = s.lines := rfl
@[simp] theorem State.modThread_walks : (s.modThread k f).walks = s.walks := rfl
@[simp] theorem State.modThread_ats : (s.modThread k f).ats = s.ats := rfl
@[simp] theorem State.modThread_atsCache : (s.modThread k f).atsCache = s.atsCache := rfl
@[simp] theorem State.modThread_atsInvs : (s.modThread k f).atsInvs = s.atsInvs := rfl
@[simp] theorem State.modThread_atsDone : (s.modThread k f).atsDone = s.atsDone := rfl
@[simp] theorem State.modThread_bisnps : (s.modThread k f).bisnps = s.bisnps := rfl
@[simp] theorem State.modThread_hts : (s.modThread k f).hts = s.hts := rfl
@[simp] theorem State.modThread_period : (s.modThread k f).period = s.period := rfl
@[simp] theorem State.modThread_regsInFlight : (s.modThread k f).regsInFlight = s.regsInFlight := rfl
@[simp] theorem State.modThread_reducs : (s.modThread k f).reducs = s.reducs := rfl
@[simp] theorem State.modThread_wire : (s.modThread k f).wire = s.wire := rfl
@[simp] theorem State.modThread_stxs : (s.modThread k f).stxs = s.stxs := rfl
@[simp] theorem State.modThread_dies : (s.modThread k f).dies = s.dies := rfl
@[simp] theorem State.modThread_qps : (s.modThread k f).qps = s.qps := rfl
@[simp] theorem State.modThread_refcnt : (s.modThread k f).refcnt = s.refcnt := rfl
@[simp] theorem State.modThread_ras : (s.modThread k f).ras = s.ras := rfl
@[simp] theorem State.modThread_hotStacks : (s.modThread k f).hotStacks = s.hotStacks := rfl
@[simp] theorem State.modThread_paused : (s.modThread k f).paused = s.paused := rfl
@[simp] theorem State.modThread_boot : (s.modThread k f).boot = s.boot := rfl
@[simp] theorem State.modThread_ctx : (s.modThread k f).ctx j = s.ctx j := rfl
@[simp] theorem State.modThread_group : (s.modThread k f).group j = s.group j := rfl
@[simp] theorem State.modThread_hearth : (s.modThread k f).hearth j = s.hearth j := rfl
@[simp] theorem State.modThread_eng : (s.modThread k f).eng j = s.eng j := rfl
@[simp] theorem State.modThread_part : (s.modThread k f).part j = s.part j := rfl
@[simp] theorem State.modThread_chan : (s.modThread k f).chan j = s.chan j := rfl
@[simp] theorem State.modThread_die : (s.modThread k f).die j = s.die j := rfl
@[simp] theorem State.modThread_slice : (s.modThread k f).slice j = s.slice j := rfl
@[simp] theorem State.modThread_qp : (s.modThread k f).qp j = s.qp j := rfl
@[simp] theorem State.modThread_reduc : (s.modThread k f).reduc j = s.reduc j := rfl
@[simp] theorem State.modThread_thread_self : (s.modThread k f).thread k = f (s.thread k) := by simp [State.modThread, State.thread]
theorem State.modThread_thread_ne (h : j ≠ k) : (s.modThread k f).thread j = s.thread j := by
  simp [State.modThread, State.thread, Map.get_mod_ne _ _ _ h]
theorem State.modThread_modThread : (s.modThread k f).modThread k g = s.modThread k (fun x => g (f x)) := by simp [State.modThread]
@[simp] theorem State.modThread_byte : (s.modThread k f).byte = s.byte := rfl
@[simp] theorem State.modThread_bar : (s.modThread k f).bar = s.bar := rfl
end

section
variable (s : State) (k j : Nat) (f g : Ctx → Ctx)
@[simp] theorem State.modCtx_powered : (s.modCtx k f).powered = s.powered := rfl
@[simp] theorem State.modCtx_gcc : (s.modCtx k f).gcc = s.gcc := rfl
@[simp] theorem State.modCtx_sched : (s.modCtx k f).sched = s.sched := rfl
@[simp] theorem State.modCtx_focus : (s.modCtx k f).focus = s.focus := rfl
@[simp] theorem State.modCtx_tick : (s.modCtx k f).tick = s.tick := rfl
@[simp] theorem State.modCtx_mem : (s.modCtx k f).mem = s.mem := rfl
@[simp] theorem State.modCtx_zeroed : (s.modCtx k f).zeroed = s.zeroed := rfl
@[simp] theorem State.modCtx_bars : (s.modCtx k f).bars = s.bars := rfl
@[simp] theorem State.modCtx_threads : (s.modCtx k f).threads = s.threads := rfl
@[simp] theorem State.modCtx_groups : (s.modCtx k f).groups = s.groups := rfl
@[simp] theorem State.modCtx_hearths : (s.modCtx k f).hearths = s.hearths := rfl
@[simp] theorem State.modCtx_engs : (s.modCtx k f).engs = s.engs := rfl
@[simp] theorem State.modCtx_parts : (s.modCtx k f).parts = s.parts := rfl
@[simp] theorem State.modCtx_chans : (s.modCtx k f).chans = s.chans := rfl
@[simp] theorem State.modCtx_atoms : (s.modCtx k f).atoms = s.atoms := rfl
@[simp] theorem State.modCtx_slices : (s.modCtx k f).slices = s.slices := rfl
@[simp] theorem State.modCtx_recalls : (s.modCtx k f).recalls = s.recalls := rfl
@[simp] theorem State.modCtx_l1 : (s.modCtx k f).l1 = s.l1 := rfl
@[simp] theorem State.modCtx_reqs : (s.modCtx k f).reqs = s.reqs := rfl
@[simp] theorem State.modCtx_reps : (s.modCtx k f).reps = s.reps := rfl
@[simp] theorem State.modCtx_probes : (s.modCtx k f).probes = s.probes := rfl
@[simp] theorem State.modCtx_exts : (s.modCtx k f).exts = s.exts := rfl
@[simp] theorem State.modCtx_lines : (s.modCtx k f).lines = s.lines := rfl
@[simp] theorem State.modCtx_walks : (s.modCtx k f).walks = s.walks := rfl
@[simp] theorem State.modCtx_ats : (s.modCtx k f).ats = s.ats := rfl
@[simp] theorem State.modCtx_atsCache : (s.modCtx k f).atsCache = s.atsCache := rfl
@[simp] theorem State.modCtx_atsInvs : (s.modCtx k f).atsInvs = s.atsInvs := rfl
@[simp] theorem State.modCtx_atsDone : (s.modCtx k f).atsDone = s.atsDone := rfl
@[simp] theorem State.modCtx_bisnps : (s.modCtx k f).bisnps = s.bisnps := rfl
@[simp] theorem State.modCtx_hts : (s.modCtx k f).hts = s.hts := rfl
@[simp] theorem State.modCtx_period : (s.modCtx k f).period = s.period := rfl
@[simp] theorem State.modCtx_regsInFlight : (s.modCtx k f).regsInFlight = s.regsInFlight := rfl
@[simp] theorem State.modCtx_reducs : (s.modCtx k f).reducs = s.reducs := rfl
@[simp] theorem State.modCtx_wire : (s.modCtx k f).wire = s.wire := rfl
@[simp] theorem State.modCtx_stxs : (s.modCtx k f).stxs = s.stxs := rfl
@[simp] theorem State.modCtx_dies : (s.modCtx k f).dies = s.dies := rfl
@[simp] theorem State.modCtx_qps : (s.modCtx k f).qps = s.qps := rfl
@[simp] theorem State.modCtx_refcnt : (s.modCtx k f).refcnt = s.refcnt := rfl
@[simp] theorem State.modCtx_ras : (s.modCtx k f).ras = s.ras := rfl
@[simp] theorem State.modCtx_hotStacks : (s.modCtx k f).hotStacks = s.hotStacks := rfl
@[simp] theorem State.modCtx_paused : (s.modCtx k f).paused = s.paused := rfl
@[simp] theorem State.modCtx_boot : (s.modCtx k f).boot = s.boot := rfl
@[simp] theorem State.modCtx_thread : (s.modCtx k f).thread j = s.thread j := rfl
@[simp] theorem State.modCtx_group : (s.modCtx k f).group j = s.group j := rfl
@[simp] theorem State.modCtx_hearth : (s.modCtx k f).hearth j = s.hearth j := rfl
@[simp] theorem State.modCtx_eng : (s.modCtx k f).eng j = s.eng j := rfl
@[simp] theorem State.modCtx_part : (s.modCtx k f).part j = s.part j := rfl
@[simp] theorem State.modCtx_chan : (s.modCtx k f).chan j = s.chan j := rfl
@[simp] theorem State.modCtx_die : (s.modCtx k f).die j = s.die j := rfl
@[simp] theorem State.modCtx_slice : (s.modCtx k f).slice j = s.slice j := rfl
@[simp] theorem State.modCtx_qp : (s.modCtx k f).qp j = s.qp j := rfl
@[simp] theorem State.modCtx_reduc : (s.modCtx k f).reduc j = s.reduc j := rfl
@[simp] theorem State.modCtx_ctx_self : (s.modCtx k f).ctx k = f (s.ctx k) := by simp [State.modCtx, State.ctx]
theorem State.modCtx_ctx_ne (h : j ≠ k) : (s.modCtx k f).ctx j = s.ctx j := by
  simp [State.modCtx, State.ctx, Map.get_mod_ne _ _ _ h]
theorem State.modCtx_modCtx : (s.modCtx k f).modCtx k g = s.modCtx k (fun x => g (f x)) := by simp [State.modCtx]
@[simp] theorem State.modCtx_byte : (s.modCtx k f).byte = s.byte := rfl
@[simp] theorem State.modCtx_bar : (s.modCtx k f).bar = s.bar := rfl
end

section
variable (s : State) (k j : Nat) (f g : Group → Group)
@[simp] theorem State.modGroup_powered : (s.modGroup k f).powered = s.powered := rfl
@[simp] theorem State.modGroup_gcc : (s.modGroup k f).gcc = s.gcc := rfl
@[simp] theorem State.modGroup_sched : (s.modGroup k f).sched = s.sched := rfl
@[simp] theorem State.modGroup_focus : (s.modGroup k f).focus = s.focus := rfl
@[simp] theorem State.modGroup_tick : (s.modGroup k f).tick = s.tick := rfl
@[simp] theorem State.modGroup_mem : (s.modGroup k f).mem = s.mem := rfl
@[simp] theorem State.modGroup_zeroed : (s.modGroup k f).zeroed = s.zeroed := rfl
@[simp] theorem State.modGroup_bars : (s.modGroup k f).bars = s.bars := rfl
@[simp] theorem State.modGroup_threads : (s.modGroup k f).threads = s.threads := rfl
@[simp] theorem State.modGroup_ctxs : (s.modGroup k f).ctxs = s.ctxs := rfl
@[simp] theorem State.modGroup_hearths : (s.modGroup k f).hearths = s.hearths := rfl
@[simp] theorem State.modGroup_engs : (s.modGroup k f).engs = s.engs := rfl
@[simp] theorem State.modGroup_parts : (s.modGroup k f).parts = s.parts := rfl
@[simp] theorem State.modGroup_chans : (s.modGroup k f).chans = s.chans := rfl
@[simp] theorem State.modGroup_atoms : (s.modGroup k f).atoms = s.atoms := rfl
@[simp] theorem State.modGroup_slices : (s.modGroup k f).slices = s.slices := rfl
@[simp] theorem State.modGroup_recalls : (s.modGroup k f).recalls = s.recalls := rfl
@[simp] theorem State.modGroup_l1 : (s.modGroup k f).l1 = s.l1 := rfl
@[simp] theorem State.modGroup_reqs : (s.modGroup k f).reqs = s.reqs := rfl
@[simp] theorem State.modGroup_reps : (s.modGroup k f).reps = s.reps := rfl
@[simp] theorem State.modGroup_probes : (s.modGroup k f).probes = s.probes := rfl
@[simp] theorem State.modGroup_exts : (s.modGroup k f).exts = s.exts := rfl
@[simp] theorem State.modGroup_lines : (s.modGroup k f).lines = s.lines := rfl
@[simp] theorem State.modGroup_walks : (s.modGroup k f).walks = s.walks := rfl
@[simp] theorem State.modGroup_ats : (s.modGroup k f).ats = s.ats := rfl
@[simp] theorem State.modGroup_atsCache : (s.modGroup k f).atsCache = s.atsCache := rfl
@[simp] theorem State.modGroup_atsInvs : (s.modGroup k f).atsInvs = s.atsInvs := rfl
@[simp] theorem State.modGroup_atsDone : (s.modGroup k f).atsDone = s.atsDone := rfl
@[simp] theorem State.modGroup_bisnps : (s.modGroup k f).bisnps = s.bisnps := rfl
@[simp] theorem State.modGroup_hts : (s.modGroup k f).hts = s.hts := rfl
@[simp] theorem State.modGroup_period : (s.modGroup k f).period = s.period := rfl
@[simp] theorem State.modGroup_regsInFlight : (s.modGroup k f).regsInFlight = s.regsInFlight := rfl
@[simp] theorem State.modGroup_reducs : (s.modGroup k f).reducs = s.reducs := rfl
@[simp] theorem State.modGroup_wire : (s.modGroup k f).wire = s.wire := rfl
@[simp] theorem State.modGroup_stxs : (s.modGroup k f).stxs = s.stxs := rfl
@[simp] theorem State.modGroup_dies : (s.modGroup k f).dies = s.dies := rfl
@[simp] theorem State.modGroup_qps : (s.modGroup k f).qps = s.qps := rfl
@[simp] theorem State.modGroup_refcnt : (s.modGroup k f).refcnt = s.refcnt := rfl
@[simp] theorem State.modGroup_ras : (s.modGroup k f).ras = s.ras := rfl
@[simp] theorem State.modGroup_hotStacks : (s.modGroup k f).hotStacks = s.hotStacks := rfl
@[simp] theorem State.modGroup_paused : (s.modGroup k f).paused = s.paused := rfl
@[simp] theorem State.modGroup_boot : (s.modGroup k f).boot = s.boot := rfl
@[simp] theorem State.modGroup_thread : (s.modGroup k f).thread j = s.thread j := rfl
@[simp] theorem State.modGroup_ctx : (s.modGroup k f).ctx j = s.ctx j := rfl
@[simp] theorem State.modGroup_hearth : (s.modGroup k f).hearth j = s.hearth j := rfl
@[simp] theorem State.modGroup_eng : (s.modGroup k f).eng j = s.eng j := rfl
@[simp] theorem State.modGroup_part : (s.modGroup k f).part j = s.part j := rfl
@[simp] theorem State.modGroup_chan : (s.modGroup k f).chan j = s.chan j := rfl
@[simp] theorem State.modGroup_die : (s.modGroup k f).die j = s.die j := rfl
@[simp] theorem State.modGroup_slice : (s.modGroup k f).slice j = s.slice j := rfl
@[simp] theorem State.modGroup_qp : (s.modGroup k f).qp j = s.qp j := rfl
@[simp] theorem State.modGroup_reduc : (s.modGroup k f).reduc j = s.reduc j := rfl
@[simp] theorem State.modGroup_group_self : (s.modGroup k f).group k = f (s.group k) := by simp [State.modGroup, State.group]
theorem State.modGroup_group_ne (h : j ≠ k) : (s.modGroup k f).group j = s.group j := by
  simp [State.modGroup, State.group, Map.get_mod_ne _ _ _ h]
theorem State.modGroup_modGroup : (s.modGroup k f).modGroup k g = s.modGroup k (fun x => g (f x)) := by simp [State.modGroup]
@[simp] theorem State.modGroup_byte : (s.modGroup k f).byte = s.byte := rfl
@[simp] theorem State.modGroup_bar : (s.modGroup k f).bar = s.bar := rfl
end

section
variable (s : State) (k j : Nat) (f g : Hearth → Hearth)
@[simp] theorem State.modHearth_powered : (s.modHearth k f).powered = s.powered := rfl
@[simp] theorem State.modHearth_gcc : (s.modHearth k f).gcc = s.gcc := rfl
@[simp] theorem State.modHearth_sched : (s.modHearth k f).sched = s.sched := rfl
@[simp] theorem State.modHearth_focus : (s.modHearth k f).focus = s.focus := rfl
@[simp] theorem State.modHearth_tick : (s.modHearth k f).tick = s.tick := rfl
@[simp] theorem State.modHearth_mem : (s.modHearth k f).mem = s.mem := rfl
@[simp] theorem State.modHearth_zeroed : (s.modHearth k f).zeroed = s.zeroed := rfl
@[simp] theorem State.modHearth_bars : (s.modHearth k f).bars = s.bars := rfl
@[simp] theorem State.modHearth_threads : (s.modHearth k f).threads = s.threads := rfl
@[simp] theorem State.modHearth_ctxs : (s.modHearth k f).ctxs = s.ctxs := rfl
@[simp] theorem State.modHearth_groups : (s.modHearth k f).groups = s.groups := rfl
@[simp] theorem State.modHearth_engs : (s.modHearth k f).engs = s.engs := rfl
@[simp] theorem State.modHearth_parts : (s.modHearth k f).parts = s.parts := rfl
@[simp] theorem State.modHearth_chans : (s.modHearth k f).chans = s.chans := rfl
@[simp] theorem State.modHearth_atoms : (s.modHearth k f).atoms = s.atoms := rfl
@[simp] theorem State.modHearth_slices : (s.modHearth k f).slices = s.slices := rfl
@[simp] theorem State.modHearth_recalls : (s.modHearth k f).recalls = s.recalls := rfl
@[simp] theorem State.modHearth_l1 : (s.modHearth k f).l1 = s.l1 := rfl
@[simp] theorem State.modHearth_reqs : (s.modHearth k f).reqs = s.reqs := rfl
@[simp] theorem State.modHearth_reps : (s.modHearth k f).reps = s.reps := rfl
@[simp] theorem State.modHearth_probes : (s.modHearth k f).probes = s.probes := rfl
@[simp] theorem State.modHearth_exts : (s.modHearth k f).exts = s.exts := rfl
@[simp] theorem State.modHearth_lines : (s.modHearth k f).lines = s.lines := rfl
@[simp] theorem State.modHearth_walks : (s.modHearth k f).walks = s.walks := rfl
@[simp] theorem State.modHearth_ats : (s.modHearth k f).ats = s.ats := rfl
@[simp] theorem State.modHearth_atsCache : (s.modHearth k f).atsCache = s.atsCache := rfl
@[simp] theorem State.modHearth_atsInvs : (s.modHearth k f).atsInvs = s.atsInvs := rfl
@[simp] theorem State.modHearth_atsDone : (s.modHearth k f).atsDone = s.atsDone := rfl
@[simp] theorem State.modHearth_bisnps : (s.modHearth k f).bisnps = s.bisnps := rfl
@[simp] theorem State.modHearth_hts : (s.modHearth k f).hts = s.hts := rfl
@[simp] theorem State.modHearth_period : (s.modHearth k f).period = s.period := rfl
@[simp] theorem State.modHearth_regsInFlight : (s.modHearth k f).regsInFlight = s.regsInFlight := rfl
@[simp] theorem State.modHearth_reducs : (s.modHearth k f).reducs = s.reducs := rfl
@[simp] theorem State.modHearth_wire : (s.modHearth k f).wire = s.wire := rfl
@[simp] theorem State.modHearth_stxs : (s.modHearth k f).stxs = s.stxs := rfl
@[simp] theorem State.modHearth_dies : (s.modHearth k f).dies = s.dies := rfl
@[simp] theorem State.modHearth_qps : (s.modHearth k f).qps = s.qps := rfl
@[simp] theorem State.modHearth_refcnt : (s.modHearth k f).refcnt = s.refcnt := rfl
@[simp] theorem State.modHearth_ras : (s.modHearth k f).ras = s.ras := rfl
@[simp] theorem State.modHearth_hotStacks : (s.modHearth k f).hotStacks = s.hotStacks := rfl
@[simp] theorem State.modHearth_paused : (s.modHearth k f).paused = s.paused := rfl
@[simp] theorem State.modHearth_boot : (s.modHearth k f).boot = s.boot := rfl
@[simp] theorem State.modHearth_thread : (s.modHearth k f).thread j = s.thread j := rfl
@[simp] theorem State.modHearth_ctx : (s.modHearth k f).ctx j = s.ctx j := rfl
@[simp] theorem State.modHearth_group : (s.modHearth k f).group j = s.group j := rfl
@[simp] theorem State.modHearth_eng : (s.modHearth k f).eng j = s.eng j := rfl
@[simp] theorem State.modHearth_part : (s.modHearth k f).part j = s.part j := rfl
@[simp] theorem State.modHearth_chan : (s.modHearth k f).chan j = s.chan j := rfl
@[simp] theorem State.modHearth_die : (s.modHearth k f).die j = s.die j := rfl
@[simp] theorem State.modHearth_slice : (s.modHearth k f).slice j = s.slice j := rfl
@[simp] theorem State.modHearth_qp : (s.modHearth k f).qp j = s.qp j := rfl
@[simp] theorem State.modHearth_reduc : (s.modHearth k f).reduc j = s.reduc j := rfl
@[simp] theorem State.modHearth_hearth_self : (s.modHearth k f).hearth k = f (s.hearth k) := by simp [State.modHearth, State.hearth]
theorem State.modHearth_hearth_ne (h : j ≠ k) : (s.modHearth k f).hearth j = s.hearth j := by
  simp [State.modHearth, State.hearth, Map.get_mod_ne _ _ _ h]
theorem State.modHearth_modHearth : (s.modHearth k f).modHearth k g = s.modHearth k (fun x => g (f x)) := by simp [State.modHearth]
@[simp] theorem State.modHearth_byte : (s.modHearth k f).byte = s.byte := rfl
@[simp] theorem State.modHearth_bar : (s.modHearth k f).bar = s.bar := rfl
end

section
variable (s : State) (k j : Nat) (f g : EngQ → EngQ)
@[simp] theorem State.modEng_powered : (s.modEng k f).powered = s.powered := rfl
@[simp] theorem State.modEng_gcc : (s.modEng k f).gcc = s.gcc := rfl
@[simp] theorem State.modEng_sched : (s.modEng k f).sched = s.sched := rfl
@[simp] theorem State.modEng_focus : (s.modEng k f).focus = s.focus := rfl
@[simp] theorem State.modEng_tick : (s.modEng k f).tick = s.tick := rfl
@[simp] theorem State.modEng_mem : (s.modEng k f).mem = s.mem := rfl
@[simp] theorem State.modEng_zeroed : (s.modEng k f).zeroed = s.zeroed := rfl
@[simp] theorem State.modEng_bars : (s.modEng k f).bars = s.bars := rfl
@[simp] theorem State.modEng_threads : (s.modEng k f).threads = s.threads := rfl
@[simp] theorem State.modEng_ctxs : (s.modEng k f).ctxs = s.ctxs := rfl
@[simp] theorem State.modEng_groups : (s.modEng k f).groups = s.groups := rfl
@[simp] theorem State.modEng_hearths : (s.modEng k f).hearths = s.hearths := rfl
@[simp] theorem State.modEng_parts : (s.modEng k f).parts = s.parts := rfl
@[simp] theorem State.modEng_chans : (s.modEng k f).chans = s.chans := rfl
@[simp] theorem State.modEng_atoms : (s.modEng k f).atoms = s.atoms := rfl
@[simp] theorem State.modEng_slices : (s.modEng k f).slices = s.slices := rfl
@[simp] theorem State.modEng_recalls : (s.modEng k f).recalls = s.recalls := rfl
@[simp] theorem State.modEng_l1 : (s.modEng k f).l1 = s.l1 := rfl
@[simp] theorem State.modEng_reqs : (s.modEng k f).reqs = s.reqs := rfl
@[simp] theorem State.modEng_reps : (s.modEng k f).reps = s.reps := rfl
@[simp] theorem State.modEng_probes : (s.modEng k f).probes = s.probes := rfl
@[simp] theorem State.modEng_exts : (s.modEng k f).exts = s.exts := rfl
@[simp] theorem State.modEng_lines : (s.modEng k f).lines = s.lines := rfl
@[simp] theorem State.modEng_walks : (s.modEng k f).walks = s.walks := rfl
@[simp] theorem State.modEng_ats : (s.modEng k f).ats = s.ats := rfl
@[simp] theorem State.modEng_atsCache : (s.modEng k f).atsCache = s.atsCache := rfl
@[simp] theorem State.modEng_atsInvs : (s.modEng k f).atsInvs = s.atsInvs := rfl
@[simp] theorem State.modEng_atsDone : (s.modEng k f).atsDone = s.atsDone := rfl
@[simp] theorem State.modEng_bisnps : (s.modEng k f).bisnps = s.bisnps := rfl
@[simp] theorem State.modEng_hts : (s.modEng k f).hts = s.hts := rfl
@[simp] theorem State.modEng_period : (s.modEng k f).period = s.period := rfl
@[simp] theorem State.modEng_regsInFlight : (s.modEng k f).regsInFlight = s.regsInFlight := rfl
@[simp] theorem State.modEng_reducs : (s.modEng k f).reducs = s.reducs := rfl
@[simp] theorem State.modEng_wire : (s.modEng k f).wire = s.wire := rfl
@[simp] theorem State.modEng_stxs : (s.modEng k f).stxs = s.stxs := rfl
@[simp] theorem State.modEng_dies : (s.modEng k f).dies = s.dies := rfl
@[simp] theorem State.modEng_qps : (s.modEng k f).qps = s.qps := rfl
@[simp] theorem State.modEng_refcnt : (s.modEng k f).refcnt = s.refcnt := rfl
@[simp] theorem State.modEng_ras : (s.modEng k f).ras = s.ras := rfl
@[simp] theorem State.modEng_hotStacks : (s.modEng k f).hotStacks = s.hotStacks := rfl
@[simp] theorem State.modEng_paused : (s.modEng k f).paused = s.paused := rfl
@[simp] theorem State.modEng_boot : (s.modEng k f).boot = s.boot := rfl
@[simp] theorem State.modEng_thread : (s.modEng k f).thread j = s.thread j := rfl
@[simp] theorem State.modEng_ctx : (s.modEng k f).ctx j = s.ctx j := rfl
@[simp] theorem State.modEng_group : (s.modEng k f).group j = s.group j := rfl
@[simp] theorem State.modEng_hearth : (s.modEng k f).hearth j = s.hearth j := rfl
@[simp] theorem State.modEng_part : (s.modEng k f).part j = s.part j := rfl
@[simp] theorem State.modEng_chan : (s.modEng k f).chan j = s.chan j := rfl
@[simp] theorem State.modEng_die : (s.modEng k f).die j = s.die j := rfl
@[simp] theorem State.modEng_slice : (s.modEng k f).slice j = s.slice j := rfl
@[simp] theorem State.modEng_qp : (s.modEng k f).qp j = s.qp j := rfl
@[simp] theorem State.modEng_reduc : (s.modEng k f).reduc j = s.reduc j := rfl
@[simp] theorem State.modEng_eng_self : (s.modEng k f).eng k = f (s.eng k) := by simp [State.modEng, State.eng]
theorem State.modEng_eng_ne (h : j ≠ k) : (s.modEng k f).eng j = s.eng j := by
  simp [State.modEng, State.eng, Map.get_mod_ne _ _ _ h]
theorem State.modEng_modEng : (s.modEng k f).modEng k g = s.modEng k (fun x => g (f x)) := by simp [State.modEng]
@[simp] theorem State.modEng_byte : (s.modEng k f).byte = s.byte := rfl
@[simp] theorem State.modEng_bar : (s.modEng k f).bar = s.bar := rfl
end

section
variable (s : State) (k j : Nat) (f g : Part → Part)
@[simp] theorem State.modPart_powered : (s.modPart k f).powered = s.powered := rfl
@[simp] theorem State.modPart_gcc : (s.modPart k f).gcc = s.gcc := rfl
@[simp] theorem State.modPart_sched : (s.modPart k f).sched = s.sched := rfl
@[simp] theorem State.modPart_focus : (s.modPart k f).focus = s.focus := rfl
@[simp] theorem State.modPart_tick : (s.modPart k f).tick = s.tick := rfl
@[simp] theorem State.modPart_mem : (s.modPart k f).mem = s.mem := rfl
@[simp] theorem State.modPart_zeroed : (s.modPart k f).zeroed = s.zeroed := rfl
@[simp] theorem State.modPart_bars : (s.modPart k f).bars = s.bars := rfl
@[simp] theorem State.modPart_threads : (s.modPart k f).threads = s.threads := rfl
@[simp] theorem State.modPart_ctxs : (s.modPart k f).ctxs = s.ctxs := rfl
@[simp] theorem State.modPart_groups : (s.modPart k f).groups = s.groups := rfl
@[simp] theorem State.modPart_hearths : (s.modPart k f).hearths = s.hearths := rfl
@[simp] theorem State.modPart_engs : (s.modPart k f).engs = s.engs := rfl
@[simp] theorem State.modPart_chans : (s.modPart k f).chans = s.chans := rfl
@[simp] theorem State.modPart_atoms : (s.modPart k f).atoms = s.atoms := rfl
@[simp] theorem State.modPart_slices : (s.modPart k f).slices = s.slices := rfl
@[simp] theorem State.modPart_recalls : (s.modPart k f).recalls = s.recalls := rfl
@[simp] theorem State.modPart_l1 : (s.modPart k f).l1 = s.l1 := rfl
@[simp] theorem State.modPart_reqs : (s.modPart k f).reqs = s.reqs := rfl
@[simp] theorem State.modPart_reps : (s.modPart k f).reps = s.reps := rfl
@[simp] theorem State.modPart_probes : (s.modPart k f).probes = s.probes := rfl
@[simp] theorem State.modPart_exts : (s.modPart k f).exts = s.exts := rfl
@[simp] theorem State.modPart_lines : (s.modPart k f).lines = s.lines := rfl
@[simp] theorem State.modPart_walks : (s.modPart k f).walks = s.walks := rfl
@[simp] theorem State.modPart_ats : (s.modPart k f).ats = s.ats := rfl
@[simp] theorem State.modPart_atsCache : (s.modPart k f).atsCache = s.atsCache := rfl
@[simp] theorem State.modPart_atsInvs : (s.modPart k f).atsInvs = s.atsInvs := rfl
@[simp] theorem State.modPart_atsDone : (s.modPart k f).atsDone = s.atsDone := rfl
@[simp] theorem State.modPart_bisnps : (s.modPart k f).bisnps = s.bisnps := rfl
@[simp] theorem State.modPart_hts : (s.modPart k f).hts = s.hts := rfl
@[simp] theorem State.modPart_period : (s.modPart k f).period = s.period := rfl
@[simp] theorem State.modPart_regsInFlight : (s.modPart k f).regsInFlight = s.regsInFlight := rfl
@[simp] theorem State.modPart_reducs : (s.modPart k f).reducs = s.reducs := rfl
@[simp] theorem State.modPart_wire : (s.modPart k f).wire = s.wire := rfl
@[simp] theorem State.modPart_stxs : (s.modPart k f).stxs = s.stxs := rfl
@[simp] theorem State.modPart_dies : (s.modPart k f).dies = s.dies := rfl
@[simp] theorem State.modPart_qps : (s.modPart k f).qps = s.qps := rfl
@[simp] theorem State.modPart_refcnt : (s.modPart k f).refcnt = s.refcnt := rfl
@[simp] theorem State.modPart_ras : (s.modPart k f).ras = s.ras := rfl
@[simp] theorem State.modPart_hotStacks : (s.modPart k f).hotStacks = s.hotStacks := rfl
@[simp] theorem State.modPart_paused : (s.modPart k f).paused = s.paused := rfl
@[simp] theorem State.modPart_boot : (s.modPart k f).boot = s.boot := rfl
@[simp] theorem State.modPart_thread : (s.modPart k f).thread j = s.thread j := rfl
@[simp] theorem State.modPart_ctx : (s.modPart k f).ctx j = s.ctx j := rfl
@[simp] theorem State.modPart_group : (s.modPart k f).group j = s.group j := rfl
@[simp] theorem State.modPart_hearth : (s.modPart k f).hearth j = s.hearth j := rfl
@[simp] theorem State.modPart_eng : (s.modPart k f).eng j = s.eng j := rfl
@[simp] theorem State.modPart_chan : (s.modPart k f).chan j = s.chan j := rfl
@[simp] theorem State.modPart_die : (s.modPart k f).die j = s.die j := rfl
@[simp] theorem State.modPart_slice : (s.modPart k f).slice j = s.slice j := rfl
@[simp] theorem State.modPart_qp : (s.modPart k f).qp j = s.qp j := rfl
@[simp] theorem State.modPart_reduc : (s.modPart k f).reduc j = s.reduc j := rfl
@[simp] theorem State.modPart_part_self : (s.modPart k f).part k = f (s.part k) := by simp [State.modPart, State.part]
theorem State.modPart_part_ne (h : j ≠ k) : (s.modPart k f).part j = s.part j := by
  simp [State.modPart, State.part, Map.get_mod_ne _ _ _ h]
theorem State.modPart_modPart : (s.modPart k f).modPart k g = s.modPart k (fun x => g (f x)) := by simp [State.modPart]
@[simp] theorem State.modPart_byte : (s.modPart k f).byte = s.byte := rfl
@[simp] theorem State.modPart_bar : (s.modPart k f).bar = s.bar := rfl
end

section
variable (s : State) (k j : Nat) (f g : Chan → Chan)
@[simp] theorem State.modChan_powered : (s.modChan k f).powered = s.powered := rfl
@[simp] theorem State.modChan_gcc : (s.modChan k f).gcc = s.gcc := rfl
@[simp] theorem State.modChan_sched : (s.modChan k f).sched = s.sched := rfl
@[simp] theorem State.modChan_focus : (s.modChan k f).focus = s.focus := rfl
@[simp] theorem State.modChan_tick : (s.modChan k f).tick = s.tick := rfl
@[simp] theorem State.modChan_mem : (s.modChan k f).mem = s.mem := rfl
@[simp] theorem State.modChan_zeroed : (s.modChan k f).zeroed = s.zeroed := rfl
@[simp] theorem State.modChan_bars : (s.modChan k f).bars = s.bars := rfl
@[simp] theorem State.modChan_threads : (s.modChan k f).threads = s.threads := rfl
@[simp] theorem State.modChan_ctxs : (s.modChan k f).ctxs = s.ctxs := rfl
@[simp] theorem State.modChan_groups : (s.modChan k f).groups = s.groups := rfl
@[simp] theorem State.modChan_hearths : (s.modChan k f).hearths = s.hearths := rfl
@[simp] theorem State.modChan_engs : (s.modChan k f).engs = s.engs := rfl
@[simp] theorem State.modChan_parts : (s.modChan k f).parts = s.parts := rfl
@[simp] theorem State.modChan_atoms : (s.modChan k f).atoms = s.atoms := rfl
@[simp] theorem State.modChan_slices : (s.modChan k f).slices = s.slices := rfl
@[simp] theorem State.modChan_recalls : (s.modChan k f).recalls = s.recalls := rfl
@[simp] theorem State.modChan_l1 : (s.modChan k f).l1 = s.l1 := rfl
@[simp] theorem State.modChan_reqs : (s.modChan k f).reqs = s.reqs := rfl
@[simp] theorem State.modChan_reps : (s.modChan k f).reps = s.reps := rfl
@[simp] theorem State.modChan_probes : (s.modChan k f).probes = s.probes := rfl
@[simp] theorem State.modChan_exts : (s.modChan k f).exts = s.exts := rfl
@[simp] theorem State.modChan_lines : (s.modChan k f).lines = s.lines := rfl
@[simp] theorem State.modChan_walks : (s.modChan k f).walks = s.walks := rfl
@[simp] theorem State.modChan_ats : (s.modChan k f).ats = s.ats := rfl
@[simp] theorem State.modChan_atsCache : (s.modChan k f).atsCache = s.atsCache := rfl
@[simp] theorem State.modChan_atsInvs : (s.modChan k f).atsInvs = s.atsInvs := rfl
@[simp] theorem State.modChan_atsDone : (s.modChan k f).atsDone = s.atsDone := rfl
@[simp] theorem State.modChan_bisnps : (s.modChan k f).bisnps = s.bisnps := rfl
@[simp] theorem State.modChan_hts : (s.modChan k f).hts = s.hts := rfl
@[simp] theorem State.modChan_period : (s.modChan k f).period = s.period := rfl
@[simp] theorem State.modChan_regsInFlight : (s.modChan k f).regsInFlight = s.regsInFlight := rfl
@[simp] theorem State.modChan_reducs : (s.modChan k f).reducs = s.reducs := rfl
@[simp] theorem State.modChan_wire : (s.modChan k f).wire = s.wire := rfl
@[simp] theorem State.modChan_stxs : (s.modChan k f).stxs = s.stxs := rfl
@[simp] theorem State.modChan_dies : (s.modChan k f).dies = s.dies := rfl
@[simp] theorem State.modChan_qps : (s.modChan k f).qps = s.qps := rfl
@[simp] theorem State.modChan_refcnt : (s.modChan k f).refcnt = s.refcnt := rfl
@[simp] theorem State.modChan_ras : (s.modChan k f).ras = s.ras := rfl
@[simp] theorem State.modChan_hotStacks : (s.modChan k f).hotStacks = s.hotStacks := rfl
@[simp] theorem State.modChan_paused : (s.modChan k f).paused = s.paused := rfl
@[simp] theorem State.modChan_boot : (s.modChan k f).boot = s.boot := rfl
@[simp] theorem State.modChan_thread : (s.modChan k f).thread j = s.thread j := rfl
@[simp] theorem State.modChan_ctx : (s.modChan k f).ctx j = s.ctx j := rfl
@[simp] theorem State.modChan_group : (s.modChan k f).group j = s.group j := rfl
@[simp] theorem State.modChan_hearth : (s.modChan k f).hearth j = s.hearth j := rfl
@[simp] theorem State.modChan_eng : (s.modChan k f).eng j = s.eng j := rfl
@[simp] theorem State.modChan_part : (s.modChan k f).part j = s.part j := rfl
@[simp] theorem State.modChan_die : (s.modChan k f).die j = s.die j := rfl
@[simp] theorem State.modChan_slice : (s.modChan k f).slice j = s.slice j := rfl
@[simp] theorem State.modChan_qp : (s.modChan k f).qp j = s.qp j := rfl
@[simp] theorem State.modChan_reduc : (s.modChan k f).reduc j = s.reduc j := rfl
@[simp] theorem State.modChan_chan_self : (s.modChan k f).chan k = f (s.chan k) := by simp [State.modChan, State.chan]
theorem State.modChan_chan_ne (h : j ≠ k) : (s.modChan k f).chan j = s.chan j := by
  simp [State.modChan, State.chan, Map.get_mod_ne _ _ _ h]
theorem State.modChan_modChan : (s.modChan k f).modChan k g = s.modChan k (fun x => g (f x)) := by simp [State.modChan]
@[simp] theorem State.modChan_byte : (s.modChan k f).byte = s.byte := rfl
@[simp] theorem State.modChan_bar : (s.modChan k f).bar = s.bar := rfl
end

section
variable (s : State) (k j : Nat) (f g : Die → Die)
@[simp] theorem State.modDie_powered : (s.modDie k f).powered = s.powered := rfl
@[simp] theorem State.modDie_gcc : (s.modDie k f).gcc = s.gcc := rfl
@[simp] theorem State.modDie_sched : (s.modDie k f).sched = s.sched := rfl
@[simp] theorem State.modDie_focus : (s.modDie k f).focus = s.focus := rfl
@[simp] theorem State.modDie_tick : (s.modDie k f).tick = s.tick := rfl
@[simp] theorem State.modDie_mem : (s.modDie k f).mem = s.mem := rfl
@[simp] theorem State.modDie_zeroed : (s.modDie k f).zeroed = s.zeroed := rfl
@[simp] theorem State.modDie_bars : (s.modDie k f).bars = s.bars := rfl
@[simp] theorem State.modDie_threads : (s.modDie k f).threads = s.threads := rfl
@[simp] theorem State.modDie_ctxs : (s.modDie k f).ctxs = s.ctxs := rfl
@[simp] theorem State.modDie_groups : (s.modDie k f).groups = s.groups := rfl
@[simp] theorem State.modDie_hearths : (s.modDie k f).hearths = s.hearths := rfl
@[simp] theorem State.modDie_engs : (s.modDie k f).engs = s.engs := rfl
@[simp] theorem State.modDie_parts : (s.modDie k f).parts = s.parts := rfl
@[simp] theorem State.modDie_chans : (s.modDie k f).chans = s.chans := rfl
@[simp] theorem State.modDie_atoms : (s.modDie k f).atoms = s.atoms := rfl
@[simp] theorem State.modDie_slices : (s.modDie k f).slices = s.slices := rfl
@[simp] theorem State.modDie_recalls : (s.modDie k f).recalls = s.recalls := rfl
@[simp] theorem State.modDie_l1 : (s.modDie k f).l1 = s.l1 := rfl
@[simp] theorem State.modDie_reqs : (s.modDie k f).reqs = s.reqs := rfl
@[simp] theorem State.modDie_reps : (s.modDie k f).reps = s.reps := rfl
@[simp] theorem State.modDie_probes : (s.modDie k f).probes = s.probes := rfl
@[simp] theorem State.modDie_exts : (s.modDie k f).exts = s.exts := rfl
@[simp] theorem State.modDie_lines : (s.modDie k f).lines = s.lines := rfl
@[simp] theorem State.modDie_walks : (s.modDie k f).walks = s.walks := rfl
@[simp] theorem State.modDie_ats : (s.modDie k f).ats = s.ats := rfl
@[simp] theorem State.modDie_atsCache : (s.modDie k f).atsCache = s.atsCache := rfl
@[simp] theorem State.modDie_atsInvs : (s.modDie k f).atsInvs = s.atsInvs := rfl
@[simp] theorem State.modDie_atsDone : (s.modDie k f).atsDone = s.atsDone := rfl
@[simp] theorem State.modDie_bisnps : (s.modDie k f).bisnps = s.bisnps := rfl
@[simp] theorem State.modDie_hts : (s.modDie k f).hts = s.hts := rfl
@[simp] theorem State.modDie_period : (s.modDie k f).period = s.period := rfl
@[simp] theorem State.modDie_regsInFlight : (s.modDie k f).regsInFlight = s.regsInFlight := rfl
@[simp] theorem State.modDie_reducs : (s.modDie k f).reducs = s.reducs := rfl
@[simp] theorem State.modDie_wire : (s.modDie k f).wire = s.wire := rfl
@[simp] theorem State.modDie_stxs : (s.modDie k f).stxs = s.stxs := rfl
@[simp] theorem State.modDie_qps : (s.modDie k f).qps = s.qps := rfl
@[simp] theorem State.modDie_refcnt : (s.modDie k f).refcnt = s.refcnt := rfl
@[simp] theorem State.modDie_ras : (s.modDie k f).ras = s.ras := rfl
@[simp] theorem State.modDie_hotStacks : (s.modDie k f).hotStacks = s.hotStacks := rfl
@[simp] theorem State.modDie_paused : (s.modDie k f).paused = s.paused := rfl
@[simp] theorem State.modDie_boot : (s.modDie k f).boot = s.boot := rfl
@[simp] theorem State.modDie_thread : (s.modDie k f).thread j = s.thread j := rfl
@[simp] theorem State.modDie_ctx : (s.modDie k f).ctx j = s.ctx j := rfl
@[simp] theorem State.modDie_group : (s.modDie k f).group j = s.group j := rfl
@[simp] theorem State.modDie_hearth : (s.modDie k f).hearth j = s.hearth j := rfl
@[simp] theorem State.modDie_eng : (s.modDie k f).eng j = s.eng j := rfl
@[simp] theorem State.modDie_part : (s.modDie k f).part j = s.part j := rfl
@[simp] theorem State.modDie_chan : (s.modDie k f).chan j = s.chan j := rfl
@[simp] theorem State.modDie_slice : (s.modDie k f).slice j = s.slice j := rfl
@[simp] theorem State.modDie_qp : (s.modDie k f).qp j = s.qp j := rfl
@[simp] theorem State.modDie_reduc : (s.modDie k f).reduc j = s.reduc j := rfl
@[simp] theorem State.modDie_die_self : (s.modDie k f).die k = f (s.die k) := by simp [State.modDie, State.die]
theorem State.modDie_die_ne (h : j ≠ k) : (s.modDie k f).die j = s.die j := by
  simp [State.modDie, State.die, Map.get_mod_ne _ _ _ h]
theorem State.modDie_modDie : (s.modDie k f).modDie k g = s.modDie k (fun x => g (f x)) := by simp [State.modDie]
@[simp] theorem State.modDie_byte : (s.modDie k f).byte = s.byte := rfl
@[simp] theorem State.modDie_bar : (s.modDie k f).bar = s.bar := rfl
end

section
variable (s : State) (k j : Nat) (f g : Slice → Slice)
@[simp] theorem State.modSlice_powered : (s.modSlice k f).powered = s.powered := rfl
@[simp] theorem State.modSlice_gcc : (s.modSlice k f).gcc = s.gcc := rfl
@[simp] theorem State.modSlice_sched : (s.modSlice k f).sched = s.sched := rfl
@[simp] theorem State.modSlice_focus : (s.modSlice k f).focus = s.focus := rfl
@[simp] theorem State.modSlice_tick : (s.modSlice k f).tick = s.tick := rfl
@[simp] theorem State.modSlice_mem : (s.modSlice k f).mem = s.mem := rfl
@[simp] theorem State.modSlice_zeroed : (s.modSlice k f).zeroed = s.zeroed := rfl
@[simp] theorem State.modSlice_bars : (s.modSlice k f).bars = s.bars := rfl
@[simp] theorem State.modSlice_threads : (s.modSlice k f).threads = s.threads := rfl
@[simp] theorem State.modSlice_ctxs : (s.modSlice k f).ctxs = s.ctxs := rfl
@[simp] theorem State.modSlice_groups : (s.modSlice k f).groups = s.groups := rfl
@[simp] theorem State.modSlice_hearths : (s.modSlice k f).hearths = s.hearths := rfl
@[simp] theorem State.modSlice_engs : (s.modSlice k f).engs = s.engs := rfl
@[simp] theorem State.modSlice_parts : (s.modSlice k f).parts = s.parts := rfl
@[simp] theorem State.modSlice_chans : (s.modSlice k f).chans = s.chans := rfl
@[simp] theorem State.modSlice_atoms : (s.modSlice k f).atoms = s.atoms := rfl
@[simp] theorem State.modSlice_recalls : (s.modSlice k f).recalls = s.recalls := rfl
@[simp] theorem State.modSlice_l1 : (s.modSlice k f).l1 = s.l1 := rfl
@[simp] theorem State.modSlice_reqs : (s.modSlice k f).reqs = s.reqs := rfl
@[simp] theorem State.modSlice_reps : (s.modSlice k f).reps = s.reps := rfl
@[simp] theorem State.modSlice_probes : (s.modSlice k f).probes = s.probes := rfl
@[simp] theorem State.modSlice_exts : (s.modSlice k f).exts = s.exts := rfl
@[simp] theorem State.modSlice_lines : (s.modSlice k f).lines = s.lines := rfl
@[simp] theorem State.modSlice_walks : (s.modSlice k f).walks = s.walks := rfl
@[simp] theorem State.modSlice_ats : (s.modSlice k f).ats = s.ats := rfl
@[simp] theorem State.modSlice_atsCache : (s.modSlice k f).atsCache = s.atsCache := rfl
@[simp] theorem State.modSlice_atsInvs : (s.modSlice k f).atsInvs = s.atsInvs := rfl
@[simp] theorem State.modSlice_atsDone : (s.modSlice k f).atsDone = s.atsDone := rfl
@[simp] theorem State.modSlice_bisnps : (s.modSlice k f).bisnps = s.bisnps := rfl
@[simp] theorem State.modSlice_hts : (s.modSlice k f).hts = s.hts := rfl
@[simp] theorem State.modSlice_period : (s.modSlice k f).period = s.period := rfl
@[simp] theorem State.modSlice_regsInFlight : (s.modSlice k f).regsInFlight = s.regsInFlight := rfl
@[simp] theorem State.modSlice_reducs : (s.modSlice k f).reducs = s.reducs := rfl
@[simp] theorem State.modSlice_wire : (s.modSlice k f).wire = s.wire := rfl
@[simp] theorem State.modSlice_stxs : (s.modSlice k f).stxs = s.stxs := rfl
@[simp] theorem State.modSlice_dies : (s.modSlice k f).dies = s.dies := rfl
@[simp] theorem State.modSlice_qps : (s.modSlice k f).qps = s.qps := rfl
@[simp] theorem State.modSlice_refcnt : (s.modSlice k f).refcnt = s.refcnt := rfl
@[simp] theorem State.modSlice_ras : (s.modSlice k f).ras = s.ras := rfl
@[simp] theorem State.modSlice_hotStacks : (s.modSlice k f).hotStacks = s.hotStacks := rfl
@[simp] theorem State.modSlice_paused : (s.modSlice k f).paused = s.paused := rfl
@[simp] theorem State.modSlice_boot : (s.modSlice k f).boot = s.boot := rfl
@[simp] theorem State.modSlice_thread : (s.modSlice k f).thread j = s.thread j := rfl
@[simp] theorem State.modSlice_ctx : (s.modSlice k f).ctx j = s.ctx j := rfl
@[simp] theorem State.modSlice_group : (s.modSlice k f).group j = s.group j := rfl
@[simp] theorem State.modSlice_hearth : (s.modSlice k f).hearth j = s.hearth j := rfl
@[simp] theorem State.modSlice_eng : (s.modSlice k f).eng j = s.eng j := rfl
@[simp] theorem State.modSlice_part : (s.modSlice k f).part j = s.part j := rfl
@[simp] theorem State.modSlice_chan : (s.modSlice k f).chan j = s.chan j := rfl
@[simp] theorem State.modSlice_die : (s.modSlice k f).die j = s.die j := rfl
@[simp] theorem State.modSlice_qp : (s.modSlice k f).qp j = s.qp j := rfl
@[simp] theorem State.modSlice_reduc : (s.modSlice k f).reduc j = s.reduc j := rfl
@[simp] theorem State.modSlice_slice_self : (s.modSlice k f).slice k = f (s.slice k) := by simp [State.modSlice, State.slice]
theorem State.modSlice_slice_ne (h : j ≠ k) : (s.modSlice k f).slice j = s.slice j := by
  simp [State.modSlice, State.slice, Map.get_mod_ne _ _ _ h]
theorem State.modSlice_modSlice : (s.modSlice k f).modSlice k g = s.modSlice k (fun x => g (f x)) := by simp [State.modSlice]
@[simp] theorem State.modSlice_byte : (s.modSlice k f).byte = s.byte := rfl
@[simp] theorem State.modSlice_bar : (s.modSlice k f).bar = s.bar := rfl
end

section
variable (s : State) (k j : Nat) (f g : Qp → Qp)
@[simp] theorem State.modQp_powered : (s.modQp k f).powered = s.powered := rfl
@[simp] theorem State.modQp_gcc : (s.modQp k f).gcc = s.gcc := rfl
@[simp] theorem State.modQp_sched : (s.modQp k f).sched = s.sched := rfl
@[simp] theorem State.modQp_focus : (s.modQp k f).focus = s.focus := rfl
@[simp] theorem State.modQp_tick : (s.modQp k f).tick = s.tick := rfl
@[simp] theorem State.modQp_mem : (s.modQp k f).mem = s.mem := rfl
@[simp] theorem State.modQp_zeroed : (s.modQp k f).zeroed = s.zeroed := rfl
@[simp] theorem State.modQp_bars : (s.modQp k f).bars = s.bars := rfl
@[simp] theorem State.modQp_threads : (s.modQp k f).threads = s.threads := rfl
@[simp] theorem State.modQp_ctxs : (s.modQp k f).ctxs = s.ctxs := rfl
@[simp] theorem State.modQp_groups : (s.modQp k f).groups = s.groups := rfl
@[simp] theorem State.modQp_hearths : (s.modQp k f).hearths = s.hearths := rfl
@[simp] theorem State.modQp_engs : (s.modQp k f).engs = s.engs := rfl
@[simp] theorem State.modQp_parts : (s.modQp k f).parts = s.parts := rfl
@[simp] theorem State.modQp_chans : (s.modQp k f).chans = s.chans := rfl
@[simp] theorem State.modQp_atoms : (s.modQp k f).atoms = s.atoms := rfl
@[simp] theorem State.modQp_slices : (s.modQp k f).slices = s.slices := rfl
@[simp] theorem State.modQp_recalls : (s.modQp k f).recalls = s.recalls := rfl
@[simp] theorem State.modQp_l1 : (s.modQp k f).l1 = s.l1 := rfl
@[simp] theorem State.modQp_reqs : (s.modQp k f).reqs = s.reqs := rfl
@[simp] theorem State.modQp_reps : (s.modQp k f).reps = s.reps := rfl
@[simp] theorem State.modQp_probes : (s.modQp k f).probes = s.probes := rfl
@[simp] theorem State.modQp_exts : (s.modQp k f).exts = s.exts := rfl
@[simp] theorem State.modQp_lines : (s.modQp k f).lines = s.lines := rfl
@[simp] theorem State.modQp_walks : (s.modQp k f).walks = s.walks := rfl
@[simp] theorem State.modQp_ats : (s.modQp k f).ats = s.ats := rfl
@[simp] theorem State.modQp_atsCache : (s.modQp k f).atsCache = s.atsCache := rfl
@[simp] theorem State.modQp_atsInvs : (s.modQp k f).atsInvs = s.atsInvs := rfl
@[simp] theorem State.modQp_atsDone : (s.modQp k f).atsDone = s.atsDone := rfl
@[simp] theorem State.modQp_bisnps : (s.modQp k f).bisnps = s.bisnps := rfl
@[simp] theorem State.modQp_hts : (s.modQp k f).hts = s.hts := rfl
@[simp] theorem State.modQp_period : (s.modQp k f).period = s.period := rfl
@[simp] theorem State.modQp_regsInFlight : (s.modQp k f).regsInFlight = s.regsInFlight := rfl
@[simp] theorem State.modQp_reducs : (s.modQp k f).reducs = s.reducs := rfl
@[simp] theorem State.modQp_wire : (s.modQp k f).wire = s.wire := rfl
@[simp] theorem State.modQp_stxs : (s.modQp k f).stxs = s.stxs := rfl
@[simp] theorem State.modQp_dies : (s.modQp k f).dies = s.dies := rfl
@[simp] theorem State.modQp_refcnt : (s.modQp k f).refcnt = s.refcnt := rfl
@[simp] theorem State.modQp_ras : (s.modQp k f).ras = s.ras := rfl
@[simp] theorem State.modQp_hotStacks : (s.modQp k f).hotStacks = s.hotStacks := rfl
@[simp] theorem State.modQp_paused : (s.modQp k f).paused = s.paused := rfl
@[simp] theorem State.modQp_boot : (s.modQp k f).boot = s.boot := rfl
@[simp] theorem State.modQp_thread : (s.modQp k f).thread j = s.thread j := rfl
@[simp] theorem State.modQp_ctx : (s.modQp k f).ctx j = s.ctx j := rfl
@[simp] theorem State.modQp_group : (s.modQp k f).group j = s.group j := rfl
@[simp] theorem State.modQp_hearth : (s.modQp k f).hearth j = s.hearth j := rfl
@[simp] theorem State.modQp_eng : (s.modQp k f).eng j = s.eng j := rfl
@[simp] theorem State.modQp_part : (s.modQp k f).part j = s.part j := rfl
@[simp] theorem State.modQp_chan : (s.modQp k f).chan j = s.chan j := rfl
@[simp] theorem State.modQp_die : (s.modQp k f).die j = s.die j := rfl
@[simp] theorem State.modQp_slice : (s.modQp k f).slice j = s.slice j := rfl
@[simp] theorem State.modQp_reduc : (s.modQp k f).reduc j = s.reduc j := rfl
@[simp] theorem State.modQp_qp_self : (s.modQp k f).qp k = f (s.qp k) := by simp [State.modQp, State.qp]
theorem State.modQp_qp_ne (h : j ≠ k) : (s.modQp k f).qp j = s.qp j := by
  simp [State.modQp, State.qp, Map.get_mod_ne _ _ _ h]
theorem State.modQp_modQp : (s.modQp k f).modQp k g = s.modQp k (fun x => g (f x)) := by simp [State.modQp]
@[simp] theorem State.modQp_byte : (s.modQp k f).byte = s.byte := rfl
@[simp] theorem State.modQp_bar : (s.modQp k f).bar = s.bar := rfl
end

section
variable (s : State) (k j : Nat) (f g : Reduc → Reduc)
@[simp] theorem State.modReduc_powered : (s.modReduc k f).powered = s.powered := rfl
@[simp] theorem State.modReduc_gcc : (s.modReduc k f).gcc = s.gcc := rfl
@[simp] theorem State.modReduc_sched : (s.modReduc k f).sched = s.sched := rfl
@[simp] theorem State.modReduc_focus : (s.modReduc k f).focus = s.focus := rfl
@[simp] theorem State.modReduc_tick : (s.modReduc k f).tick = s.tick := rfl
@[simp] theorem State.modReduc_mem : (s.modReduc k f).mem = s.mem := rfl
@[simp] theorem State.modReduc_zeroed : (s.modReduc k f).zeroed = s.zeroed := rfl
@[simp] theorem State.modReduc_bars : (s.modReduc k f).bars = s.bars := rfl
@[simp] theorem State.modReduc_threads : (s.modReduc k f).threads = s.threads := rfl
@[simp] theorem State.modReduc_ctxs : (s.modReduc k f).ctxs = s.ctxs := rfl
@[simp] theorem State.modReduc_groups : (s.modReduc k f).groups = s.groups := rfl
@[simp] theorem State.modReduc_hearths : (s.modReduc k f).hearths = s.hearths := rfl
@[simp] theorem State.modReduc_engs : (s.modReduc k f).engs = s.engs := rfl
@[simp] theorem State.modReduc_parts : (s.modReduc k f).parts = s.parts := rfl
@[simp] theorem State.modReduc_chans : (s.modReduc k f).chans = s.chans := rfl
@[simp] theorem State.modReduc_atoms : (s.modReduc k f).atoms = s.atoms := rfl
@[simp] theorem State.modReduc_slices : (s.modReduc k f).slices = s.slices := rfl
@[simp] theorem State.modReduc_recalls : (s.modReduc k f).recalls = s.recalls := rfl
@[simp] theorem State.modReduc_l1 : (s.modReduc k f).l1 = s.l1 := rfl
@[simp] theorem State.modReduc_reqs : (s.modReduc k f).reqs = s.reqs := rfl
@[simp] theorem State.modReduc_reps : (s.modReduc k f).reps = s.reps := rfl
@[simp] theorem State.modReduc_probes : (s.modReduc k f).probes = s.probes := rfl
@[simp] theorem State.modReduc_exts : (s.modReduc k f).exts = s.exts := rfl
@[simp] theorem State.modReduc_lines : (s.modReduc k f).lines = s.lines := rfl
@[simp] theorem State.modReduc_walks : (s.modReduc k f).walks = s.walks := rfl
@[simp] theorem State.modReduc_ats : (s.modReduc k f).ats = s.ats := rfl
@[simp] theorem State.modReduc_atsCache : (s.modReduc k f).atsCache = s.atsCache := rfl
@[simp] theorem State.modReduc_atsInvs : (s.modReduc k f).atsInvs = s.atsInvs := rfl
@[simp] theorem State.modReduc_atsDone : (s.modReduc k f).atsDone = s.atsDone := rfl
@[simp] theorem State.modReduc_bisnps : (s.modReduc k f).bisnps = s.bisnps := rfl
@[simp] theorem State.modReduc_hts : (s.modReduc k f).hts = s.hts := rfl
@[simp] theorem State.modReduc_period : (s.modReduc k f).period = s.period := rfl
@[simp] theorem State.modReduc_regsInFlight : (s.modReduc k f).regsInFlight = s.regsInFlight := rfl
@[simp] theorem State.modReduc_wire : (s.modReduc k f).wire = s.wire := rfl
@[simp] theorem State.modReduc_stxs : (s.modReduc k f).stxs = s.stxs := rfl
@[simp] theorem State.modReduc_dies : (s.modReduc k f).dies = s.dies := rfl
@[simp] theorem State.modReduc_qps : (s.modReduc k f).qps = s.qps := rfl
@[simp] theorem State.modReduc_refcnt : (s.modReduc k f).refcnt = s.refcnt := rfl
@[simp] theorem State.modReduc_ras : (s.modReduc k f).ras = s.ras := rfl
@[simp] theorem State.modReduc_hotStacks : (s.modReduc k f).hotStacks = s.hotStacks := rfl
@[simp] theorem State.modReduc_paused : (s.modReduc k f).paused = s.paused := rfl
@[simp] theorem State.modReduc_boot : (s.modReduc k f).boot = s.boot := rfl
@[simp] theorem State.modReduc_thread : (s.modReduc k f).thread j = s.thread j := rfl
@[simp] theorem State.modReduc_ctx : (s.modReduc k f).ctx j = s.ctx j := rfl
@[simp] theorem State.modReduc_group : (s.modReduc k f).group j = s.group j := rfl
@[simp] theorem State.modReduc_hearth : (s.modReduc k f).hearth j = s.hearth j := rfl
@[simp] theorem State.modReduc_eng : (s.modReduc k f).eng j = s.eng j := rfl
@[simp] theorem State.modReduc_part : (s.modReduc k f).part j = s.part j := rfl
@[simp] theorem State.modReduc_chan : (s.modReduc k f).chan j = s.chan j := rfl
@[simp] theorem State.modReduc_die : (s.modReduc k f).die j = s.die j := rfl
@[simp] theorem State.modReduc_slice : (s.modReduc k f).slice j = s.slice j := rfl
@[simp] theorem State.modReduc_qp : (s.modReduc k f).qp j = s.qp j := rfl
@[simp] theorem State.modReduc_reduc_self : (s.modReduc k f).reduc k = f (s.reduc k) := by simp [State.modReduc, State.reduc]
theorem State.modReduc_reduc_ne (h : j ≠ k) : (s.modReduc k f).reduc j = s.reduc j := by
  simp [State.modReduc, State.reduc, Map.get_mod_ne _ _ _ h]
theorem State.modReduc_modReduc : (s.modReduc k f).modReduc k g = s.modReduc k (fun x => g (f x)) := by simp [State.modReduc]
@[simp] theorem State.modReduc_byte : (s.modReduc k f).byte = s.byte := rfl
@[simp] theorem State.modReduc_bar : (s.modReduc k f).bar = s.bar := rfl
end

end Sys2Proof.Machine
end

