-- ==== Sys2Proof/Laws/Control.lean ====
section
/-! SUPPORT. What the operations do that the control instructions share: the executing thread, retiring, waiting, translating, trapping. -/

namespace Sys2Proof.Machine

variable (s : State)

/-! ## Registers -/

@[simp] theorem Thread.xr_zero (th : Thread) : th.xr 0#5 = 0 := rfl

@[simp] theorem Thread.setX_zero (th : Thread) (v : Word64) : th.setX 0#5 v = th := rfl

theorem Thread.xr_setX_self (th : Thread) (r : XReg) (v : Word64) (h : r ≠ 0#5) : (th.setX r v).xr r = v := by
  simp [Thread.xr, Thread.setX, h]

theorem Thread.xr_setX_ne (th : Thread) (r q : XReg) (v : Word64) (h : q ≠ r) : (th.setX r v).xr q = th.xr q := by
  unfold Thread.xr Thread.setX
  split
  · rfl
  · split
    · rfl
    · exact Map.get_set_ne 0 _ v (fun e => h (BitVec.eq_of_toNat_eq e))

@[simp] theorem Thread.setX_pc (th : Thread) (r : XReg) (v : Word64) : (th.setX r v).pc = th.pc := by unfold Thread.setX; split <;> rfl
@[simp] theorem Thread.setX_instret (th : Thread) (r : XReg) (v : Word64) : (th.setX r v).instret = th.instret := by
  unfold Thread.setX; split <;> rfl
@[simp] theorem Thread.setX_pts (th : Thread) (r : XReg) (v : Word64) : (th.setX r v).pts = th.pts := by unfold Thread.setX; split <;> rfl
@[simp] theorem Thread.setX_ctx (th : Thread) (r : XReg) (v : Word64) : (th.setX r v).ctx = th.ctx := by unfold Thread.setX; split <;> rfl
@[simp] theorem Thread.setX_mask (th : Thread) (r : XReg) (v : Word64) : (th.setX r v).mask = th.mask := by unfold Thread.setX; split <;> rfl
@[simp] theorem Thread.setX_slot (th : Thread) (r : XReg) (v : Word64) : (th.setX r v).slot = th.slot := by unfold Thread.setX; split <;> rfl

/-! ## The executing thread -/

@[simp] theorem State.onTh_tk (f : Thread → Thread) : (s.onTh f).tk = s.tk := rfl
@[simp] theorem State.onTh_th (f : Thread → Thread) : (s.onTh f).th = f s.th := by
  show Map.get {} (Map.mod {} s.threads s.tk f) s.tk = f (Map.get {} s.threads s.tk)
  exact Map.get_mod_self {} s.threads s.tk f
@[simp] theorem State.onTh_onTh (f g : Thread → Thread) : (s.onTh f).onTh g = s.onTh (fun t => g (f t)) := by
  simp only [State.onTh, State.modThread, Map.mod_mod, State.tk]

/-- Changing the executing thread is putting its new record. -/
theorem State.onTh_eq (f : Thread → Thread) : s.onTh f = { s with threads := Map.put s.threads s.tk (f s.th) } := rfl

/-- Retiring without a result. -/
theorem State.retire_eq : s.retire = s.ccRet s.nextPc (fun th => th) := rfl

/-- Retiring with a result. -/
theorem State.retire_setXr (r : XReg) (v : Word64) : (s.setXr r v).retire = s.ccWrote r v s.nextPc := by
  have hp : (s.setXr r v).nextPc = s.nextPc := by
    simp only [State.nextPc, State.setXr, State.onTh_th, Thread.setX_pc]; rfl
  rw [State.retire, hp, State.retireTo, State.setXr, State.onTh_onTh, State.onTh_eq]
  simp only [State.ccWrote, State.ccRet, Thread.setX_instret]

/-- Waiting leaves the thread where it is, with the wait that it began or one that begins now. -/
theorem State.waiting_eq (k : WaitK) : s.waiting k = s.ccWaits k := by
  rw [State.waiting, State.onTh_eq, State.ccWaits]
  cases h : s.th.wait with
  | none => simp
  | some w =>
    have e : ({ s.th with wait := some w } : Thread) = s.th := by rw [← h]
    simp [e]

/-! ## Ends of an instruction -/

@[simp] theorem finish_ok (u : Unit) : finish (.ok u s) = .next (s.ccRet s.nextPc (fun th => th)) := rfl
@[simp] theorem finish_wait : finish (.wait s) = .next s := rfl
@[simp] theorem finish_trap (i : Trap) : finish (.trap i s) = .next (s.trapCc s.focus.h s.focus.t i) := rfl
@[simp] theorem finishX_ok (r : XReg) (v : Word64) : finishX r (.ok v s) = .next (s.ccWrote r v s.nextPc) := by
  rw [finishX, State.retire_setXr]
@[simp] theorem finishX_wait (r : XReg) : finishX r (.wait s) = .next s := rfl
@[simp] theorem finishX_trap (r : XReg) (i : Trap) : finishX r (.trap i s) = .next (s.trapCc s.focus.h s.focus.t i) := rfl

/-- An instruction that ends in one of these ways never stops the machine. -/
theorem finish_next (a : Ans Unit) : ∃ t, finish a = .next t := by cases a <;> exact ⟨_, rfl⟩
theorem finishX_next (r : XReg) (a : Ans Word64) : ∃ t, finishX r a = .next t := by cases a <;> exact ⟨_, rfl⟩
theorem finishAt_next (a : Ans Unit) : ∃ t, finishAt a = .next t := by cases a <;> exact ⟨_, rfl⟩

/-! ## Stages, translation, comparators -/

/-- A stage that has been made is passed over. -/
theorem stage_past (n : Nat) (f : State → Ans Unit) (h : n < s.th.part) : stage n f s = .ok () s := by simp [stage, h]
theorem stageB_past (n : Nat) (f : State → Ans (List Byte)) (h : n < s.th.part) : stageB n f s = .ok () s := by simp [stageB, h]

/-- An address that the hearth can reach translates without a change of the state. -/
theorem ccXlate_ok (va : Nat) (acc : Acc) (t : Tgt) (h0 : s.th.xact.bound = none) (h1 : s.th.xf = none) (h2 : s.th.fault = none)
    (h3 : s.reach s.focus.h s.cx.part va acc = .ok t) : ccXlate va acc s = .ok t s := by
  simp [ccXlate, h0, h1, h2, h3]

/-- An access that is under way keeps its target. -/
theorem ccXlate_bound (va : Nat) (acc : Acc) (t : Tgt) (h0 : s.th.xact.bound = some t) (h1 : s.th.xf = none) : ccXlate va acc s = .ok t s := by
  simp [ccXlate, h0, h1]

/-- A translation that fails is the trap of its cause, with the address. -/
theorem ccXlate_bad (va : Nat) (acc : Acc) (c u : Nat) (h0 : s.th.xact.bound = none) (h1 : s.th.xf = none) (h2 : s.th.fault = none)
    (h3 : s.reach s.focus.h s.cx.part va acc = .bad c u) : ccXlate va acc s = .trap (trapVa c u va) s := by
  simp [ccXlate, h0, h1, h2, h3]

/-- An access that no comparator matches, but for suppressed ones, goes on. -/
theorem ccWatch_ok (va n : Nat) (ld st : Bool) (h : s.watchHit s.cx.part s.focus.h s.th.ctx va n ld st s.th.suppress = none) :
    ccWatch va n ld st s = .ok () s := by simp [ccWatch, h]

/-! ## Taking a trap -/

/-- A context that was frozen in an earlier cycle, or is idle, takes no second trap (R419). -/
theorem State.takeTrap_none (h c : Nat) (i : Trap)
    (e : ((s.ctx (ckey h c)).trapped.isSome = true ∧ (s.ctx (ckey h c)).trapAt.1 ≠ s.gcc + 1)
      ∨ ((s.ctx (ckey h c)).trapped = none ∧ (s.ctx (ckey h c)).st = .idle)) :
    s.takeTrap h c i = s := by
  unfold State.takeTrap
  rcases e with ⟨e, ne⟩ | ⟨e, st⟩
  · obtain ⟨tok, e⟩ := Option.isSome_iff_exists.mp e
    simp [e, ne]
  · simp [e, st]

end Sys2Proof.Machine
end

