-- ==== Sys2Proof/Laws/Engine.lean ====
section
/-! SUPPORT. What taking an engine word does: its operands leave the stack, its results enter it, or it is refused with nothing taken. -/

namespace Sys2Proof.Machine

variable (s : State)

/-- A word whose stack does not hold its operands, or would hold more than 8 entries, is refused (R146, R241). -/
theorem engWord_stack (pop push : Nat) (f : QWord → List Word64 → State → Ans (List Word64)) (w : QWord) (r : List QWord)
    (h : (s.eng s.focus.q).words = w :: r)
    (b : (s.eng s.focus.q).stack.length < pop ∨ 8 < (s.eng s.focus.q).stack.length - pop + push) :
    engWord pop push f s = .next (s.engFail s.focus.q w.pc .nobody { cause := 0x08, d8 := engPos (s.eng s.focus.q).taken 0 }) := by
  unfold engWord
  dsimp only
  rw [h]
  have hb : (decide ((s.eng s.focus.q).stack.length < pop) || decide (8 < (s.eng s.focus.q).stack.length - pop + push)) = true := by
    simpa using b
  simp only [hb, if_true]
  rfl

/-- A word that finds its operands and computes `out` is taken: `out` replaces them on the stack. -/
theorem engWord_ok (pop push : Nat) (f : QWord → List Word64 → State → Ans (List Word64)) (w : QWord) (r : List QWord) (out : List Word64)
    (h : (s.eng s.focus.q).words = w :: r) (h1 : pop ≤ (s.eng s.focus.q).stack.length)
    (h2 : (s.eng s.focus.q).stack.length - pop + push ≤ 8) (hf : f w ((s.eng s.focus.q).stack.take pop) s = .ok out s) :
    engWord pop push f s = .next (s.engTook pop out (fun e => e)) := by
  unfold engWord
  dsimp only
  rw [h]
  have hb : (decide ((s.eng s.focus.q).stack.length < pop) || decide (8 < (s.eng s.focus.q).stack.length - pop + push)) = false := by
    simp only [Bool.or_eq_false_iff, decide_eq_false_iff_not]
    omega
  simp only [hb, Bool.false_eq_true, if_false, hf]
  rfl

/-- A word never stops the machine. -/
theorem engWord_next (pop push : Nat) (f : QWord → List Word64 → State → Ans (List Word64)) : ∃ t, engWord pop push f s = .next t := by
  unfold engWord
  dsimp only
  split
  · exact ⟨_, rfl⟩
  · split
    · exact ⟨_, rfl⟩
    · split <;> exact ⟨_, rfl⟩

end Sys2Proof.Machine
end

