-- ==== Sys2Proof/Laws/Lane.lean ====
section
/-! SUPPORT. What the operations do that every lane word shares: the issue of a word, its end, its result. -/

namespace Sys2Proof.Machine

variable (s : State)

@[simp] theorem State.onLg_lg (f : Group → Group) : (s.onLg f).lg = f s.lg := by
  show Map.get {} (Map.mod {} s.groups s.lk f) s.lk = f (Map.get {} s.groups s.lk)
  exact Map.get_mod_self {} s.groups s.lk f

/-- Counting an event moves no agent. -/
@[simp] theorem State.perf_focus (h g ev n : Nat) : (s.perf h g ev n).focus = s.focus := by
  unfold State.perf
  dsimp only
  split <;> rfl

/-- A word that ends well has issued. -/
theorem laneFinish_ok (x : Issue) (t : State) :
    laneFinish x.w.ex (.ok () (if x.pops.isEmpty then t else t.onLg (fun g => g.popIqs x.pops))) = .next (x.issued t) := by
  have hf : (if x.pops.isEmpty then t else t.onLg (fun g => g.popIqs x.pops)).focus = t.focus := by split <;> rfl
  simp only [laneFinish, Issue.issued, State.perf_focus, hf]
  split <;> simp only [State.perf_focus, hf]

/-- A word never stops the machine. -/
theorem laneFinish_next (ex : Word) (a : Ans Unit) : ∃ t, laneFinish ex a = .next t := by cases a <;> exact ⟨_, rfl⟩

/-- Without a breakpoint an attempt is what it was. -/
@[simp] theorem bplwStop_none (a : Ans Unit) : bplwStop none s a = a := rfl

theorem laneIssueOn_next (hit : Option Nat) (b : Blk) (w : Lw) (srcs : List (Src × Bool)) (r : Regs) (pre : Lw → State → Option Nat)
    (body : Lw → List Vals → State → Ans Unit) : ∃ t, laneIssueOn hit b w srcs r pre body s = .next t := by
  unfold laneIssueOn
  dsimp only
  split
  · exact laneFinish_next _ _
  · exact laneFinish_next _ _
  · split <;> exact laneFinish_next _ _

theorem laneIssue_next (g : Guard) (inPhase always : Bool) (srcs : List (Src × Bool)) (r : Regs) (pre : Lw → State → Option Nat)
    (body : Lw → List Vals → State → Ans Unit) : ∃ t, laneIssue g inPhase always srcs r pre body s = .next t := by
  unfold laneIssue
  dsimp only
  split
  · exact ⟨_, rfl⟩
  · split
    · exact ⟨_, rfl⟩
    · split
      · exact laneFinish_next _ _
      · split
        · exact laneFinish_next _ _
        · split
          · exact laneFinish_next _ _
          · split
            · exact laneFinish_next _ _
            · exact laneIssueOn_next _ _ _ _ _ _ _ _

/-- ISSUE: a word that passes every check, and whose own reason does not hold it, runs its body on the settled state and then leaves with its
queue elements; a body that ends well is the issue, and one that waits or traps is the word's wait or trap. -/
theorem laneIssue_go {s : State} {g : Guard} {inPhase always : Bool} {srcs : List (Src × Bool)} {r : Regs} {x : Issue}
    (pre : Lw → State → Option Nat) (body : Lw → List Vals → State → Ans Unit)
    (h : LaneGo s g inPhase always srcs r x) (hp : pre x.w x.u = none) :
    laneIssue g inPhase always srcs r pre body s = laneFinish x.w.ex ((body x.w x.vs x.u).bind fun _ t =>
      .ok () (if x.pops.isEmpty then t else t.onLg (fun y => y.popIqs x.pops))) := by
  obtain ⟨⟨hu, hb, hin, hcy, hfa, hov, hun, hst, hph, hw, hout, hbp⟩, hrd, hvi, hpo⟩ := h
  have hon : laneIssueOn none x.b x.w srcs (r.with g srcs) pre body x.u = laneFinish x.w.ex ((body x.w x.vs x.u).bind fun _ t =>
      .ok () (if x.pops.isEmpty then t else t.onLg (fun y => y.popIqs x.pops))) := by
    unfold laneIssueOn
    simp only [hun, Option.isSome_none, Bool.false_eq_true, if_false, hrd, hp, hvi, hpo, bplwStop_none]
  have h1 : (!x.b.inPass || decide (x.u.lcyc < x.u.lg.nextIssue) || x.u.lg.fault.isSome || x.u.phaseOver x.b) = false := by
    simp [hin, hfa, hov, Nat.not_lt.mpr hcy]
  have h2 : (decide (x.b.k = 0) && (r.with g srcs).outside x.b.tab.need) = false := by
    by_cases k : x.b.k = 0
    · simp [k, hout k]
    · simp [k]
  have h3 : (!stageOn x.b g && !always) = false := by rcases hst with e | e <;> simp [e]
  have h4 : (x.b.phase.isSome && !inPhase) = false := by rcases hph with e | e <;> simp [e]
  have h5 : (x.b.phase.isSome && x.u.ph != 8 + x.b.k * x.b.tab.len + x.b.w) = false := by rcases hph with e | e <;> simp [e]
  have h6 : (if stageOn x.b g && x.u.lg.unfinished.isNone then x.u.bplwHit else none) = none := by
    by_cases e : stageOn x.b g = true
    · simp [e, hbp e]
    · simp [e]
  unfold laneIssue
  dsimp only
  rw [← hu, hb]
  simp only [h1, Bool.false_eq_true, if_false]
  rw [← hw]
  have hr : ({ r with rv := r.rv ++ (srcs.map (fun y => srcCodes y.1 y.2)).flatten
                      rp := r.rp ++ guardPreds g ++ (srcs.map (fun y => srcPreds y.1)).flatten
                      rf := r.rf || srcs.any (fun y => y.1 == .fflags) } : Regs) = r.with g srcs := rfl
  rw [hr, h2, h4, h5, h3]
  simp only [Bool.false_eq_true, if_false, h6]
  exact hon

/-- A fixed-latency word that may issue leaves its result pending: the values and flags that it computes. -/
theorem laneFixed_go {s : State} {g : Guard} {inPhase wide : Bool} {d : Dst} {srcs : List (Src × Bool)} {lat : Nat} {x : Issue}
    (f : Lw → List Vals → State → Vals × Nat) (h : LaneFixes s g inPhase d wide lat srcs x) :
    laneFixed g inPhase d wide srcs {} lat f s = .next (x.wrote d wide lat (f x.w x.vs x.u).1 (f x.w x.vs x.u).2) := by
  have hp : oqFull d x.w x.u = none := by
    cases d with
    | oq q => simp only [oqFull]; rw [if_neg (Nat.not_le.mpr (h.2 q rfl))]
    | _ => rfl
  unfold laneFixed
  dsimp only
  have := laneIssue_go (oqFull d) (fun w vs s => .ok () (writeResult d wide lat w (f w vs s).1 (f w vs s).2 s)) h.1 hp
  simp only [List.nil_append]
  rw [this]
  exact laneFinish_ok x _

end Sys2Proof.Machine
end

