-- ==== Sys2Proof/Laws/Memory.lean ====
section
/-! SUPPORT. The memory operations: what a byte reads as after each of them, that each keeps the canonical form, and that none touches another
field of the state. -/

namespace Sys2Proof.Machine

theorem memClear_above (lo n k : Nat) (m : List Host.Cell) (h : Map.above k m = true) : Map.above k (memClear lo n m) = true := by
  induction m generalizing k with
  | nil => rfl
  | cons p r ih =>
    obtain ⟨a, b⟩ := p
    simp only [Map.above, Bool.and_eq_true, decide_eq_true_eq] at h
    simp only [memClear]
    split
    · exact ih k (Map.above_le r h.2 (by omega))
    · simp [Map.above, h.1, ih a h.2]

/-- Clearing a range keeps the canonical form. -/
theorem memClear_wf (lo n : Nat) (m : List Host.Cell) (h : Memory.wf m = true) : Memory.wf (memClear lo n m) = true := by
  simp only [Memory.wf, Map.wf, Bool.and_eq_true] at h ⊢
  obtain ⟨hs, hd⟩ := h
  constructor
  · clear hd
    induction m with
    | nil => rfl
    | cons p r ih =>
      obtain ⟨a, b⟩ := p
      simp only [Map.sorted] at hs
      simp only [memClear]
      split
      · refine ih ?_
        cases r with
        | nil => rfl
        | cons q t => simp only [Map.above, Bool.and_eq_true] at hs; exact hs.2
      · simpa [Map.sorted] using memClear_above lo n a r hs
  · clear hs
    induction m with
    | nil => rfl
    | cons p r ih =>
      obtain ⟨a, b⟩ := p
      simp only [Map.noDefault, Bool.and_eq_true, decide_eq_true_eq] at hd
      simp only [memClear]
      split
      · exact ih hd.2
      · simp only [Map.noDefault, Bool.and_eq_true, decide_eq_true_eq]
        exact ⟨hd.1, ih hd.2⟩

/-- A byte inside a cleared range reads as unlisted, every other as before. -/
theorem memClear_get (lo n x : Nat) (m : List Host.Cell) :
    Map.get (0 : Byte) (memClear lo n m) x = if lo ≤ x ∧ x < lo + n then 0 else Map.get 0 m x := by
  induction m with
  | nil => simp [memClear]
  | cons p r ih =>
    obtain ⟨a, b⟩ := p
    simp only [Map.get] at ih ⊢
    simp only [memClear, Bool.and_eq_true, decide_eq_true_eq]
    split
    · next h =>
      rw [ih]
      by_cases e : a = x
      · subst e; simp [h]
      · simp [Map.find?, e]
    · next h =>
      by_cases e : a = x
      · subst e; simp [Map.find?, h]
      · simpa [Map.find?, e] using ih

/-- Materialising a granule changes what no byte reads as (R369). -/
@[simp] theorem State.materialise_byte (s : State) (a x : Nat) : (s.materialise a).byte x = s.byte x := by
  unfold State.materialise
  split
  · next h =>
    simp only [State.byte, memClear_get]
    by_cases e : x / 4096 = a / 4096
    · have hx : s.zeroed.contains (x / 4096) = true := by rw [e]; exact h
      have hr : a / 4096 * 4096 ≤ x ∧ x < a / 4096 * 4096 + 4096 := by omega
      rw [if_pos hx, if_pos hr]
      split <;> rfl
    · have hr : ¬ (a / 4096 * 4096 ≤ x ∧ x < a / 4096 * 4096 + 4096) := by omega
      have hc : (s.zeroed.filter (· != a / 4096)).contains (x / 4096) = s.zeroed.contains (x / 4096) := by
        rw [Bool.eq_iff_iff]; simp [e]
      simp only [hr, if_false, hc]
  · rfl

theorem State.materialise_memOk (s : State) (a : Nat) (h : s.memOk = true) : (s.materialise a).memOk = true := by
  unfold State.materialise
  split
  · exact memClear_wf _ _ _ h
  · exact h

/-- The granule of a materialised address carries no mark. -/
theorem State.materialise_unmarked (s : State) (a : Nat) : (s.materialise a).zeroed.contains (a / 4096) = false := by
  unfold State.materialise
  split
  · simp
  · next h => simpa using h

theorem State.setByte_frame (s : State) (a : Nat) (b : Byte) : ∃ m z, s.setByte a b = { s with mem := m, zeroed := z } := by
  unfold State.setByte State.materialise
  split
  · exact ⟨_, _, rfl⟩
  · exact ⟨_, s.zeroed, rfl⟩

/-- A byte reads as it was written, and a write leaves every other byte. -/
theorem State.setByte_byte (s : State) (a x : Nat) (b : Byte) : (s.setByte a b).byte x = if x = a then b else s.byte x := by
  have hm := State.materialise_byte s a x
  have hu := State.materialise_unmarked s a
  show (if (s.materialise a).zeroed.contains (x / 4096) then 0 else Map.get 0 (Map.set 0 (s.materialise a).mem a b) x) = _
  by_cases e : x = a
  · subst e; simp only [hu, Map.get_set_self]; simp
  · rw [if_neg e, Map.get_set_ne 0 _ b e]; exact hm

theorem State.setByte_memOk (s : State) (a : Nat) (b : Byte) (h : s.memOk = true) : (s.setByte a b).memOk = true :=
  Map.wf_set 0 _ a b (State.materialise_memOk s a h)

theorem State.setEnabled_memOk (s : State) (a : Nat) (l : List (Option Byte)) (h : s.memOk = true) : (s.setEnabled a l).memOk = true := by
  induction l generalizing s a with
  | nil => exact h
  | cons o r ih =>
    cases o with
    | none => exact ih s (a + 1) h
    | some b => exact ih _ (a + 1) (s.setByte_memOk a b h)

theorem State.setBytes_memOk (s : State) (a : Nat) (l : List Byte) (h : s.memOk = true) : (s.setBytes a l).memOk = true := by
  induction l generalizing s a with
  | nil => exact h
  | cons b r ih => exact ih _ (a + 1) (s.setByte_memOk a b h)

theorem State.setNum_memOk (s : State) (a n v : Nat) (h : s.memOk = true) : (s.setNum a n v).memOk = true :=
  s.setBytes_memOk a _ h

theorem State.setWords_memOk (s : State) (a : Nat) (l : List Word64) (h : s.memOk = true) : (s.setWords a l).memOk = true := by
  induction l generalizing s a with
  | nil => exact h
  | cons w r ih =>
    rw [State.setWords]
    exact ih (s.setNum a 8 w.toNat) (a + 8) (s.setNum_memOk a 8 w.toNat h)

/-- Writing bytes touches memory and its marks alone. -/
theorem State.setBytes_frame (s : State) (a : Nat) (l : List Byte) : ∃ m z, s.setBytes a l = { s with mem := m, zeroed := z } := by
  induction l generalizing s a with
  | nil => refine ⟨s.mem, s.zeroed, ?_⟩; simp only [State.setBytes]
  | cons b r ih =>
    obtain ⟨m, z, e⟩ := s.setByte_frame a b
    obtain ⟨m', z', e'⟩ := ih (s.setByte a b) (a + 1)
    refine ⟨m', z', ?_⟩
    simp only [State.setBytes]
    rw [e', e]

/-- A number written touches memory and its marks alone. -/
theorem State.setNum_frame (s : State) (a n v : Nat) : ∃ m z, s.setNum a n v = { s with mem := m, zeroed := z } :=
  s.setBytes_frame a _

/-- An operation that leaves memory leaves its form. -/
theorem State.memOk_of_mem (s t : State) (e : t.mem = s.mem) (h : s.memOk = true) : t.memOk = true := by
  rw [State.memOk, e]; exact h

/-- The stamps of a hardware write change the atoms alone (R380). -/
theorem State.restamp_frame (s : State) (a n : Nat) : ∃ m, s.restamp a n = { s with atoms := m } := by
  unfold State.restamp
  generalize natsFrom (a / 32) ((a + n + 31) / 32 - a / 32) = l
  induction l generalizing s with
  | nil => exact ⟨s.atoms, rfl⟩
  | cons q r ih =>
    obtain ⟨m, e⟩ := ih (s.modAtom (32 * q) (fun t => { t with
      rts := max (s.toOff (32 * q) s.gcc) ((s.atom (32 * q)).rts + 1), wts := max (s.toOff (32 * q) s.gcc) ((s.atom (32 * q)).rts + 1),
      psn := t.psn && !(decide (a ≤ 32 * q) && decide (32 * q + 32 ≤ a + n)) }))
    exact ⟨m, e⟩

theorem State.restamp_memOk (s : State) (a n : Nat) (h : s.memOk = true) : (s.restamp a n).memOk = true := by
  obtain ⟨m, e⟩ := s.restamp_frame a n
  rw [e]; exact h

@[simp] theorem State.restamp_byte (s : State) (a n x : Nat) : (s.restamp a n).byte x = s.byte x := by
  obtain ⟨m, e⟩ := s.restamp_frame a n
  rw [e]; rfl

theorem State.touchFrame_memOk (s : State) (a : Nat) (w : Bool) (h : s.memOk = true) : (s.touchFrame a w).memOk = true := by
  unfold State.touchFrame
  dsimp only
  split
  · split
    · exact h
    · exact State.memOk_of_mem _ _ rfl (s.setByte_memOk _ _ h)
  · exact h

/-- A die without a frame table has nothing to mark (R367). -/
theorem State.touchFrame_none (s : State) (a : Nat) (w : Bool)
    (h : hbmBytes ≤ a ∨ bitsOf (s.dreg (a / (192 * 2 ^ 30)) 0x000) 51 12 = 0) : s.touchFrame a w = s := by
  unfold State.touchFrame
  dsimp only
  split
  · next hb =>
    rcases h with h | h
    · exact absurd hb (Nat.not_lt.mpr h)
    · have e : bitsOf (s.dreg (a / (192 * 2 ^ 30)) 0x000) 51 12 * 4096 = 0 := by rw [h]
      rw [if_pos e]
  · rfl

theorem State.touchRange_memOk (s : State) (a n : Nat) (w : Bool) (h : s.memOk = true) : (s.touchRange a n w).memOk = true := by
  unfold State.touchRange
  generalize natsFrom (a / 65536) ((a + n + 65535) / 65536 - a / 65536) = l
  induction l generalizing s with
  | nil => exact h
  | cons q r ih => exact ih _ (s.touchFrame_memOk _ w h)

theorem State.hwBytes_memOk (s : State) (a : Nat) (l : List Byte) (h : s.memOk = true) : (s.hwBytes a l).memOk = true :=
  State.touchRange_memOk _ _ _ _ (State.setBytes_memOk _ a l (s.restamp_memOk a _ h))

theorem State.hwNum_memOk (s : State) (a n v : Nat) (h : s.memOk = true) : (s.hwNum a n v).memOk = true :=
  State.touchRange_memOk _ _ _ _ (State.setNum_memOk _ a n v (s.restamp_memOk a _ h))

theorem State.hwWords_memOk (s : State) (a : Nat) (l : List Word64) (h : s.memOk = true) : (s.hwWords a l).memOk = true :=
  State.touchRange_memOk _ _ _ _ (State.setWords_memOk _ a l (s.restamp_memOk a _ h))

end Sys2Proof.Machine
end

