-- ==== Sys2Proof/Laws/Step.lean ====
section
/-! SUPPORT. A step in terms of the next turn. -/

namespace Sys2Proof.Machine

/-- The head of the schedule is the next turn. -/
theorem State.nextTurn_cons (s : State) (m : Turn) (r : List Turn) (h : s.sched = m :: r) : s.nextTurn = (m, { s with sched := r }) := by
  rw [State.nextTurn, h]

/-- An empty schedule leaves the choice to the arbiter. -/
theorem State.nextTurn_nil (s : State) (h : s.sched = []) : s.nextTurn = (Config.arbiter s.tick, s) := by
  rw [State.nextTurn, h]

/-- With power, a step makes the turn. -/
theorem step_powered (s : State) (m : Turn) (r : List Turn) (hp : s.powered = true) (hs : s.sched = m :: r) :
    step s = match turnAct m ({ s with sched := r } : State).ticked with
      | .run i t => exec i t
      | .done t => .next t := by
  unfold step
  rw [s.nextTurn_cons m r hs]
  have hc : (s.powered || Turn.isBoot m) = true := by rw [hp]; rfl
  cases turnAct m ({ s with sched := r } : State).ticked <;> simp only [hc, if_true]

end Sys2Proof.Machine
end

