-- ==== Sys2Proof/Machine/Loader.lean ====
section
/-! DEFINITION. Objects and loading: literal words, script images and block-table entries as the assembler writes them, the module
file, its check, its image, its relocations and the load into a partition (spec/06 R125, R147, R150; spec/02 R36; spec/15
R316-R323; notes/assumptions/79). -/

namespace Sys2Proof.Machine

/-! ## What the assembler writes (R36, R125, R147, R150) -/

/-- The 14-bit chunks of a number below 2^(14 k), the most significant first, none of them leading zeros. -/
def litChunks : Nat → Nat → List Nat
  | 0, _ => []
  | k + 1, n => if n < 2 ^ 14 then [n] else litChunks k (n / 2 ^ 14) ++ [n % 2 ^ 14]

/-- The words of `lit n` for n of 0 or more: the top chunk with C = 0, each lower one with C = 1 (R147). -/
def litPos (n : Nat) : List Nat :=
  match litChunks 5 n with
  | [] => []
  | c :: r => (0x8000 + c) :: r.map (0xC000 + ·)

/-- The words of `lit n`; `none` for an n that ylas refuses (R147). -/
def litWords (n : Int) : Option (List Nat) :=
  if 0 ≤ n ∧ n < 2 ^ 64 then some (litPos n.toNat)
  else if -2 ^ 63 ≤ n ∧ n < 0 then some (litPos (-n).toNat ++ [0x0500])
  else none

/-- A script image: the header with the word count L, then the words (R150). -/
def scriptImage (ws : List Nat) : Option (List Byte) :=
  if 1 ≤ ws.length ∧ ws.length ≤ 4096 then
    some (bytesOf ws.length 2 ++ bytesOf 0 2 ++ (ws.map (fun w => bytesOf w 2)).flatten)
  else none

/-- NEED of a block whose words name these registers; a block of more than 14 units is refused (R125). -/
def needOf (rs : List Regs) : Option Nat :=
  let m := ((rs.map (fun r => (r.rv ++ r.wv).filter (fun i => decide (i < 112)))).flatten).foldl max 0
  let n := max 1 ((m + 1 + 7) / 8)
  if n ≤ 14 then some n else none

/-- What a .block directive gives: stages, mode and window (R124). -/
structure BlockDir where
  stages : Nat := 1
  inter : Bool := true
  window : Int := 0
deriving DecidableEq, Repr, Inhabited

/-- A block-table entry of 16 bytes, with its body at an offset from ybbase (R36, R125). -/
def blockEntry (d : BlockDir) (need len body : Nat) : Option (List Byte) :=
  if 1 ≤ d.stages ∧ d.stages ≤ 8 ∧ -14 ≤ d.window ∧ d.window ≤ 14 ∧ 1 ≤ len ∧ len ≤ 4096 ∧ body % 8 = 0 ∧ body < 2 ^ 32 then
    some (bytesOf (body + len * 2 ^ 32 + (d.stages - 1) * 2 ^ 45 + boolNat d.inter * 2 ^ 48 + need * 2 ^ 49
      + (d.window % 32).toNat * 2 ^ 59) 16)
  else none

/-- A directive that emits data: padding to a multiple of n, values of 1, 2, 4 or 8 bytes, n zero bytes (R124). -/
inductive DataDir where
  | align (n : Nat)
  | values (bytes : Nat) (vs : List Nat)
  | space (n : Nat)
deriving DecidableEq, Repr

/-- A section's bytes after a directive; the alignment is a power of two from 1 to 4,096 (R124). -/
def DataDir.emit (bs : List Byte) : DataDir → Option (List Byte)
  | .align n => if n ∣ 4096 then some (bs ++ List.replicate ((n - bs.length % n) % n) 0) else none
  | .values w vs => if w ∈ [1, 2, 4, 8] then some (bs ++ (vs.map (fun v => bytesOf v w)).flatten) else none
  | .space n => some (bs ++ List.replicate n 0)

/-! ## The module file (R316-R321) -/

/-- A section-table entry (R317). -/
structure Sect where
  kind : Nat
  align : Nat
  fileOff : Nat
  size : Nat
  imgOff : Nat
deriving DecidableEq, Repr, Inhabited

/-- A symbol-table entry (R319). -/
structure Sym where
  name : Nat
  flags : Nat
  sec : Nat
  value : Nat
deriving DecidableEq, Repr, Inhabited

/-- A relocation: image offset of its field, kind, symbol index, addend (R320). -/
structure Reloc where
  off : Nat
  kind : Nat
  sym : Nat
  add : Int
deriving DecidableEq, Repr, Inhabited

/-- A module file with its tables read (R316). -/
structure Module where
  file : List Byte
  secs : List Sect
  syms : List Sym
  rels : List Reloc
  /-- string-table offset of each tensor slot's name (R321) -/
  slots : List Nat
  strOff : Nat
deriving DecidableEq, Repr, Inhabited

/-- A little-endian field of the file. -/
def fileNum (f : List Byte) (o n : Nat) : Nat := natOfBytes (sliceOf f o n)

/-- A number of 64 bits read as signed. -/
def signed64 (n : Nat) : Int := if n < 2 ^ 63 then n else (n : Int) - 2 ^ 64

/-- The tables of a file (R316, R317, R319-R321). -/
def readModule (f : List Byte) : Module where
  file := f
  secs := (natsFrom 0 (fileNum f 6 2)).map (fun i =>
    let o : Nat := fileNum f 32 8 + 32 * i
    { kind := fileNum f o 1, align := fileNum f (o + 1) 1, fileOff := fileNum f (o + 8) 8, size := fileNum f (o + 16) 8,
      imgOff := fileNum f (o + 24) 8 })
  syms := (natsFrom 0 (fileNum f 8 4)).map (fun i =>
    let o : Nat := fileNum f 40 8 + 24 * i
    { name := fileNum f o 4, flags := fileNum f (o + 8) 2, sec := fileNum f (o + 6) 2, value := fileNum f (o + 16) 8 })
  rels := (natsFrom 0 (fileNum f 12 4)).map (fun i =>
    let o : Nat := fileNum f 48 8 + 24 * i
    { off := fileNum f o 8, kind := fileNum f (o + 8) 1, sym := fileNum f (o + 12) 4, add := signed64 (fileNum f (o + 16) 8) })
  slots := (natsFrom 0 (fileNum f 16 4)).map (fun i => fileNum f (fileNum f 56 8 + 8 * i) 4)
  strOff := fileNum f 24 8

/-- A table of n entries of k bytes lies in the file. -/
def tableIn (f : List Byte) (off n k : Nat) : Bool := decide (off + n * k ≤ f.length)

/-- MAGIC and VER, the counts within their ranges, every table within the file (R316, R322). -/
def headerOk (f : List Byte) : Bool :=
  decide (64 ≤ f.length) && fileNum f 0 4 == 0x314D4C59 && fileNum f 4 2 == 1
    && decide (fileNum f 6 2 ≤ 6) && decide (fileNum f 16 4 ≤ 65535) && decide (fileNum f 20 4 ≤ 4096)
    && tableIn f (fileNum f 32 8) (fileNum f 6 2) 32 && tableIn f (fileNum f 40 8) (fileNum f 8 4) 24
    && tableIn f (fileNum f 48 8) (fileNum f 12 4) 24 && tableIn f (fileNum f 56 8) (fileNum f 16 4) 8
    && decide (fileNum f 24 8 ≤ f.length)

/-- The reserved fields of every table are zero (R317, R319-R321). -/
def reservedOk (f : List Byte) : Bool :=
  (natsFrom 0 (fileNum f 6 2)).all (fun i => fileNum f (fileNum f 32 8 + 32 * i + 2) 6 == 0)
    && (natsFrom 0 (fileNum f 8 4)).all (fun i =>
      let o : Nat := fileNum f 40 8 + 24 * i
      fileNum f (o + 4) 2 == 0 && decide (fileNum f (o + 8) 2 ≤ 1) && fileNum f (o + 10) 6 == 0)
    && (natsFrom 0 (fileNum f 12 4)).all (fun i => fileNum f (fileNum f 48 8 + 24 * i + 9) 3 == 0)
    && (natsFrom 0 (fileNum f 16 4)).all (fun i => fileNum f (fileNum f 56 8 + 8 * i + 4) 4 == 0)

/-- The section has a place in the image: every kind but scratch, unless it is empty (R318). -/
def Sect.placed (x : Sect) : Bool := x.kind != 6 && x.size != 0

/-- The file holds the contents of a section: ctl, lane, rodata and data (R317). -/
def Sect.stored (x : Sect) : Bool := decide (1 ≤ x.kind) && decide (x.kind ≤ 4)

/-- data and bss are mapped read-write, the others read-only (R318). -/
def Sect.writable (x : Sect) : Bool := x.kind == 4 || x.kind == 5

/-- The sections keep the rules of R317 and R318: one of each kind, in place, contents in the file, scratch at most 4 MiB. -/
def Module.sectsOk (m : Module) : Bool :=
  m.secs.all (fun x => decide (1 ≤ x.kind) && decide (x.kind ≤ 6) && decide (x.align ≤ 12)
    && (!x.placed || x.imgOff % 4096 == 0) && (!(x.kind == 6) || decide (x.size ≤ 2 ^ 22))
    && (if x.stored then decide (x.fileOff + x.size ≤ m.file.length) else x.fileOff == 0))
  && decide ((m.secs.map (·.kind)).Nodup)

/-- NBLK of the header: the entries of the block table, with which the lane section begins (R316, R318). -/
def Module.nblk (m : Module) : Nat := fileNum m.file 20 4

/-- The section of a kind, if the file has one. -/
def Module.sect (m : Module) (kind : Nat) : Option Sect := m.secs.find? (fun x => x.kind == kind)

/-- The lane section holds the block table that NBLK counts (R318, R322). -/
def Module.tableOk (m : Module) : Bool :=
  m.nblk == 0 || (match m.sect 2 with | some x => decide (16 * m.nblk ≤ x.size) | none => false)

/-- The image offsets that ylink gives the sections ctl, lane, rodata, data, bss of these sizes: each at the next multiple of 4,096; an empty
one takes no space (R318). -/
def linkOffsets : Nat → List Nat → List Nat
  | _, [] => []
  | o, n :: r => o :: linkOffsets (o + (n + 4095) / 4096 * 4096) r

/-- The value of _ybtab at a base: the first byte of the lane section (R318). -/
def Module.ybtab (m : Module) (base : Nat) : Option Nat := (m.sect 2).map (fun x => base + x.imgOff)

/-- The address of block i's table entry, and of its body (R36, R318). -/
def Module.blockAt (m : Module) (base i : Nat) : Option (Nat × Nat) :=
  match m.ybtab base, m.sect 2 with
  | some y, some x => if i < m.nblk then some (y + 16 * i, y + fileNum m.file (x.fileOff + 16 * i) 4) else none
  | _, _ => none

/-- The value of a symbol that .script names: the address of its script's header, and whether R150 admits that header. -/
def Module.scriptAt (m : Module) (base off sec : Nat) : Option (Nat × Bool) :=
  match m.secs[sec - 1]? with
  | some x => if sec = 0 then none else some (base + x.imgOff + off, !badScript (base + x.imgOff + off) (fileNum m.file (x.fileOff + off) 4))
  | none => none

/-- No two placed sections share a byte of the image (R322). -/
def Module.disjoint (m : Module) : Bool :=
  let ps := m.secs.filter (·.placed)
  (natsFrom 0 ps.length).all (fun i => (natsFrom 0 i).all (fun j =>
    let x := ps.getD i default
    let y := ps.getD j default
    !overlap x.imgOff x.size y.imgOff y.size))

/-- The name at a string-table offset: the bytes before the first zero; `none` where the file ends first. -/
def Module.name (m : Module) (off : Nat) : Option (List Byte) :=
  let r := m.file.drop (m.strOff + off)
  if r.contains 0 then some (r.takeWhile (· != 0)) else none

/-- Symbols name a string and are absolute, in a section or a tensor slot; an undefined one refuses the module (R319, R322). -/
def Module.symsOk (m : Module) : Bool :=
  m.syms.all (fun y => (m.name y.name).isSome
    && (decide (y.sec ≤ m.secs.length) || (y.sec == 0xFFFF && decide (y.value < m.slots.length))))
  && m.slots.all (fun o => (m.name o).isSome)

/-- A binding maps tensor-slot names to tensor ids (R322). -/
abbrev Binding := List (List Byte × Nat)

/-- The id bound to a slot. -/
def Module.bound (m : Module) (b : Binding) (n : Nat) : Option Nat :=
  match m.slots[n]? with
  | none => none
  | some o => (m.name o).bind (fun x => (b.find? (fun q => q.1 == x)).map (·.2))

/-- The run-time value V of a symbol at the base B (R319). -/
def Module.value (m : Module) (base : Nat) (b : Binding) (y : Sym) : Nat :=
  if y.sec = 0 then y.value
  else if y.sec = 0xFFFF then (m.bound b y.value).getD 0
  else base + (m.secs.getD (y.sec - 1) default).imgOff + y.value

/-- Bytes of a relocated field, and its alignment (R320). -/
def Reloc.bytes (r : Reloc) : Nat := if r.kind = 3 then 2 else if r.kind = 4 then 4 else 8
def Reloc.unit (r : Reloc) : Nat := if r.kind = 1 then 8 else 2

/-- x = V + addend (R320). -/
def Module.relX (m : Module) (base : Nat) (b : Binding) (r : Reloc) : Int :=
  (m.value base b (m.syms.getD r.sym default) : Int) + r.add

/-- The bytes that a relocation writes: the whole field (R320). -/
def relBytes (kind x : Nat) : List Byte :=
  if kind = 1 then bytesOf x 8
  else if kind = 2 then
    ([0x8000 + bitsOf x 55 42, 0xC000 + bitsOf x 41 28, 0xC000 + bitsOf x 27 14, 0xC000 + bitsOf x 13 0].map (bytesOf · 2)).flatten
  else if kind = 3 then bytesOf x 2
  else ([0x8000 + bitsOf x 15 14, 0xC000 + bitsOf x 13 0].map (bytesOf · 2)).flatten

/-- A relocation is of a known kind, aligned, within a section, of a symbol of the file, and in range; a tensor id takes a
tensor slot and no addend (R320, R322). -/
def Module.relOk (m : Module) (base : Nat) (b : Binding) (r : Reloc) : Bool :=
  decide (1 ≤ r.kind) && decide (r.kind ≤ 4) && r.off % r.unit == 0 && decide (r.sym < m.syms.length)
    && m.secs.any (fun x => x.placed && decide (x.imgOff ≤ r.off) && decide (r.off + r.bytes ≤ x.imgOff + x.size))
    && (if r.kind ≤ 2 then decide (0 ≤ m.relX base b r) && decide (m.relX base b r < 2 ^ 52)
        else (m.syms.getD r.sym default).sec == 0xFFFF && r.add == 0)

/-- No two relocations have a byte in common (R322). -/
def Module.relsApart (m : Module) : Bool :=
  (natsFrom 0 m.rels.length).all (fun i => (natsFrom 0 i).all (fun j =>
    let x := m.rels.getD i default
    let y := m.rels.getD j default
    !overlap x.off x.bytes y.off y.bytes))

/-- Every slot is bound, to a tensor that the partition defines (R322). -/
def Module.bindOk (m : Module) (s : State) (p : Nat) (b : Binding) : Bool :=
  (natsFrom 0 m.slots.length).all (fun n => match m.bound b n with
    | some t => decide (t < 2 ^ 16) && (s.tensor p t).isSome
    | none => false)

/-- The check of step 1 (R322). -/
def Module.ok (m : Module) (s : State) (p base : Nat) (b : Binding) : Bool :=
  headerOk m.file && reservedOk m.file && m.sectsOk && m.tableOk && m.disjoint && m.symsOk && m.bindOk s p b
    && m.rels.all (m.relOk base b) && m.relsApart

/-! ## The image (R318, R322) -/

/-- Bytes of the image: up to the end of its last section. -/
def Module.size (m : Module) : Nat := (m.secs.filter (·.placed)).foldl (fun n x => max n (x.imgOff + x.size)) 0

/-- A byte of the image as step 2 writes it: section contents, zeros for bss and for padding (R322). -/
def Module.byteAt (m : Module) (o : Nat) : Byte :=
  match m.secs.find? (fun x => x.placed && x.stored && decide (x.imgOff ≤ o) && decide (o < x.imgOff + x.size)) with
  | some x => m.file.getD (x.fileOff + (o - x.imgOff)) 0
  | none => 0

/-! ## The load (R322, R323) -/

/-- The driver maps pages of the image: it makes entries of the page tables valid, which needs no invalidation (R318, R356). -/
def State.mapImage (s : State) : List (Nat × Nat) → State
  | [] => s
  | (ea, v) :: r => (s.sysWrite ea (bytesOf v 8)).mapImage r

/-- The entries that the driver makes valid were not. -/
def State.mapFresh (s : State) (l : List (Nat × Nat)) : Bool := l.all (fun (ea, _) => ea % 8 == 0 && s.backed ea && s.num ea 8 % 2 == 0)

/-- The pages of the image are mapped at the base as R318 says, to device memory: ctl, lane and rodata read-only, data and bss read-write, and
the pages of the padding between sections, which step 2 writes. -/
def Module.mapped (m : Module) (s : State) (p base : Nat) : Bool :=
  (natsFrom 0 ((m.size + 4095) / 4096)).all (fun i =>
    let va := base + 4096 * i
    match s.walkPt p va with
    | .ok e _ =>
      (match e.tgt with | .dev _ => true | _ => false)
        && (match m.secs.find? (fun x => x.placed && decide (x.imgOff < 4096 * i + 4096) && decide (4096 * i < x.imgOff + x.size)) with
            | some x => e.w == x.writable
            | none => true)
    | _ => false)

/-- The L1 keys under which misses for an atom are out. -/
def State.missesOf (s : State) (a : Nat) : List Nat :=
  (s.reqs.filter (fun r => r.src == 0 && r.kind.reads && (s.copyAtoms r.tgt).contains a)).map (fun r => s.l1Key r.h r.tgt)
    ++ (s.reps.filter (fun r => r.src == 0 && (s.copyAtoms r.tgt).contains a)).map (·.key)

/-- The bytes of a copy that are dirty. -/
def L1E.dirtyBytes (e : L1E) : List (Option Byte) := (natsFrom 0 32).map (fun i => if e.dirty.testBit i then some (e.data.getD i 0) else none)

/-- No hearth keeps a copy of an atom, of a shadowed window's either: bytes that are dirty there are written to memory (R67, R381). -/
def State.takeBack (s : State) (a : Nat) : State :=
  let held := s.l1.filter (fun (_, e) => (s.copyAtoms e.tgt).contains (a / 32))
  let s := held.foldl (fun s (_, e) => if e.dirty = 0 then s else (s.homeWrite (a / 32 * 32) s.gcc e.dirtyBytes).2) s
  { s with l1 := s.l1.filter (fun (_, e) => !(s.copyAtoms e.tgt).contains (a / 32)) }

/-- A store of the driver at a virtual address, performed at its home: no hearth keeps a copy of its atom, nor what a miss that is out will
bring (R323, R326, R381). -/
def State.driverByte (s : State) (p va : Nat) (b : Byte) : State :=
  match s.walkPt p va with
  | .ok e _ =>
    let t := tgtAt e va
    (match s.place t true with
      | .at a =>
        let s := (s.missesOf (a / 32)).foldl (fun s k => s.modHearth (k / 2 ^ 110) (fun x => { x with noKeep := x.noKeep ++ [k % 2 ^ 110] })) s
        (s.takeBack a).sysWrite a [b]
      | _ => s)
  | _ => s

/-- Stores at consecutive virtual addresses. -/
def State.driverBytes (s : State) (p va : Nat) : List Byte → State
  | [] => s
  | b :: r => (s.driverByte p va b).driverBytes p (va + 1) r

/-- Step 4: every hearth of the partition drops its block bodies and table entries, as IINVAL.D does: the hearths of its last start, and those
that its registers name now (R185, R322). -/
def State.dropBlocks (s : State) (p : Nat) : State := (hearthsOf ((s.part p).hset ||| s.hsetReg p)).foldl State.blockInval s

/-- The stores of steps 2 and 3 in their order: the image byte by byte, then the relocated fields in table order (R322). -/
def Module.stores (m : Module) (base : Nat) (b : Binding) : List (Nat × List Byte) :=
  (natsFrom 0 m.size).map (fun o => (base + o, [m.byteAt o]))
    ++ m.rels.map (fun r => (base + r.off, relBytes r.kind (m.relX base b r).toNat))

/-- The driver has made stores of a load: what runs meanwhile races with those still to come (R69, R323). -/
def State.loadStores (s : State) (p : Nat) (l : List (Nat × List Byte)) : State := l.foldl (fun s q => s.driverBytes p q.1 q.2) s

/-- The state in which a load's first store is made, with the page-table entries that the driver makes for the image: the check and the mapping. A
refused module answers `none`, and writes nothing (R318, R322). -/
def State.loadCheck (s : State) (p base : Nat) (b : Binding) (f : List Byte) (maps : List (Nat × Nat)) : Option State :=
  let m := readModule f
  let t := s.mapImage maps
  if base % 4096 == 0 && headerOk f && m.ok s p base b && s.mapFresh maps && m.mapped t p base then some t else none

/-- Load a module at a base: the check, the mapping, the image, the relocations in table order, the block stores (R318, R322, R323). -/
def State.load (s : State) (p base : Nat) (b : Binding) (f : List Byte) (maps : List (Nat × Nat) := []) : Option State :=
  (s.loadCheck p base b f maps).map (fun t => (t.loadStores p ((readModule f).stores base b)).dropBlocks p)

end Sys2Proof.Machine
end

