-- ==== Sys2Proof/Tests/Slice0.lean ====
section
/-! SUPPORT. Tests of the model: ill-formed terms, decoded words, witnesses of the statements' hypotheses, single steps. -/

namespace Sys2Proof.Tests

open Sys2Proof.Machine

set_option maxRecDepth 60000

/-! ## Ill-formed terms: each check of `Instr.wf` refuses one -/

theorem test_wf_guard_p0 : Instr.wf (.nop (.p 0)) = false := by decide
theorem test_wf_dst_d : Instr.wf (.iadd .none (.p 1) (.v 0) (.v 1)) = false := by decide
theorem test_wf_dst_vp : Instr.wf (.icmp .none .eq (.oq 0) (.v 0) (.v 1)) = false := by decide
theorem test_wf_dst_p0 : Instr.wf (.pand .none 0 1 2) = false := by decide
theorem test_wf_dst_pair : Instr.wf (.iadd64 .none (.v 1) (.v 0) (.v 2)) = false := by decide
theorem test_wf_dst_v : Instr.wf (.xsel .none (.oq 0) 0 0) = false := by decide
theorem test_wf_src_s64 : Instr.wf (.iadd64 .none (.v 2) (.v 1) (.v 2)) = false := by decide
theorem test_wf_src_base : Instr.wf (.ldw .none default (.v 1) (.imm 0) (.v 2)) = false := by decide
theorem test_wf_scope_11 : Instr.wf (.ldw .none { scope := 3, cls := 0, sx := false, shift := 0, imm := 0 } (.v 1) (.k 0) (.v 2)) = false := by decide
theorem test_wf_scope_h : Instr.wf (.sts .none { scope := 1, cls := 0, sx := false, shift := 0, imm := 0 } (.v 0) (.v 1) (.v 2)) = false := by decide
theorem test_wf_fence_scope : Instr.wf (.fence .none 3) = false := by decide
theorem test_wf_rounding : Instr.wf (.fadd .none .rod (.v 0) (.v 1) (.v 2)) = false := by decide
theorem test_wf_convert_int_int : Instr.wf (.fcvt .none .rne .s32 .u32 (.v 0) (.v 1)) = false := by decide
theorem test_wf_convert_odd : Instr.wf (.fcvt .none .rod .f32 .s32 (.v 0) (.v 1)) = false := by decide
theorem test_wf_scatter_odd : Instr.wf (.mscat .none .rod (.v 0) 0 .f32) = false := by decide
theorem test_wf_field : Instr.wf (.bfx .none (.v 0) (.v 1) 16 16 false) = false := by decide
theorem test_wf_planes : Instr.wf (.fcvtq .none .rne 9 false (.v 0) (.v 1) (.v 2)) = false := by decide
theorem test_wf_plane_number : Instr.wf (.plnpack .none 4 3 (.v 0) (.v 1)) = false := by decide
theorem test_wf_quad : Instr.wf (.acas128 .none default 2 (.k 0) (.v 0) 4) = false := by decide
theorem test_wf_port : Instr.wf (.xmit .none 0 6) = false := by decide
theorem test_wf_unassigned : Instr.wf (.unassignedLaneOpcode 0) = false := by decide
theorem test_wf_width : Instr.wf (.ldaq 1 2 4 0 0) = false := by decide
theorem test_wf_store_scope : Instr.wf (.strl 1 2 3 0 3) = false := by decide
theorem test_wf_fences : Instr.wf (.fences 3) = false ∧ Instr.wf (.iinval 3) = false := by decide
theorem test_wf_load_unsigned : Instr.wf (.ccLoadStore (.load .d true 1 2 0)) = false := by decide
theorem test_wf_amo_width : Instr.wf (.amo .add .q false false 2 4 6) = false := by decide
theorem test_wf_amo_odd : Instr.wf (.amo .cas .q false false 1 4 6) = false := by decide
theorem test_wf_csr_read : Instr.wf (.yscopeWrite .rs 1 (.reg 0)) = false := by decide
theorem test_wf_shift : Instr.wf (.rvIntegerInstruction (.opSh .slliw 1 2 32)) = false := by decide
theorem test_wf_illegal : Instr.wf (.ccIllegalInstruction true) = false := by decide
theorem test_wf_shli : Instr.wf (.shli 64) = false := by decide
theorem test_wf_mode : Instr.wf (.mode 4 false) = false := by decide
theorem test_wf_bank_format : Instr.wf (.accst 0 3) = false ∧ Instr.wf (.accld 0 3) = false := by decide
theorem test_wf_depth : Instr.wf (.rdlim 0) = false ∧ Instr.wf (.rdlim 64) = false := by decide
theorem test_wf_hearth : Instr.wf (.clockStepChange 192) = false := by decide
theorem test_wf_context : Instr.wf (.dispatch 0 4) = false := by decide
theorem test_wf_partition : Instr.wf (.joinDecrement 16) = false := by decide
theorem test_wf_copy_engine : Instr.wf (.copyRecordComplete 256) = false := by decide
theorem test_wf_level : Instr.wf (.readyPush 0 256) = false := by decide
theorem test_wf_engine : Instr.wf (.engineTurn 0 4) = false := by decide
theorem test_wf_die : Instr.wf (.gccResync 4) = false := by decide
theorem test_wf_home : Instr.wf (.sliceRebase 48) = false := by decide
theorem test_wf_channel : Instr.wf (.causewayRelease 384) = false := by decide
theorem test_wf_count : Instr.wf (.zcmd 0 0) = false ∧ Instr.wf (.invcmdRange 0 (2 ^ 32)) = false := by decide
theorem test_wf_queue_pair : Instr.wf (.qpload 4096) = false := by decide
/-- Well-formed terms at the edges of the same checks. -/
theorem test_wf_edges : Instr.wf (.bfx .none (.v 0) (.v 1) 16 15 false) = true ∧ Instr.wf (.fcvtq .none .rne 8 false (.v 0) (.v 1) (.v 2)) = true
    ∧ Instr.wf (.plnpack .none 3 3 (.v 0) (.v 1)) = true ∧ Instr.wf (.rdlim 63) = true ∧ Instr.wf (.mscat .none .rod (.v 0) 0 .f16) = true
    ∧ Instr.wf (.dispatch 191 3) = true ∧ Instr.wf (.shli 63) = true := by decide

/-! ## Decoding: words written out from the tables of spec/06 (R137, R140-R144, R148) and spec/07 (R157) -/

-- OP 03, G 1 (p1), M 0, D 05, A 90 (iq0 peek), B C1 (-31), C 00, X 0
theorem test_decode_iadd : decodeLane 0x0310_0590_C100_0000#64 = .ok (.iadd (.p 1) (.v 5) (.iqPeek 0) (.imm 1)) := by decide
-- OP 14, D FF (discard), A B0 (lane), B A4 (k4), C 87 (p7), X E8
theorem test_decode_ltab : decodeLane 0x1400_FFB0_A487_00E8#64 = .ok (.ltab .none .discard .lane (.k 4) (.p 7) 0xE8) := by decide
-- OP 1F, D 8C (%fflags), A 01, X = lsb 3, width 8 (7 << 5), SX (1 << 10)
theorem test_decode_bfx : decodeLane 0x1F00_8C01_0000_04E3#64 = .ok (.bfx .none .fflags (.v 1) 3 7 true) := by decide
-- OP 28 ICMP64, M 5 (GEU), D 83 (p3), A 02 (pair), B A1 (k1)
theorem test_decode_icmp64 : decodeLane 0x2805_8302_A100_0000#64 = .ok (.icmp64 .none .geu (.p 3) (.v 2) (.k 1)) := by decide
-- OP 50 FCVT, M 4 (ROD), D 01, A 02, X = destination 2 (bf16), source 0 (f32)
theorem test_decode_fcvt : decodeLane 0x5004_0102_0000_0020#64 = .ok (.fcvt .none .rod .bf16 .f32 (.v 1) (.v 2)) := by decide
-- OP 54 PKFMA, M 0, D 01, A 02, B 03, C 04, X = BF16, b swap
theorem test_decode_pkfma : decodeLane 0x5400_0102_0304_0007#64 = .ok (.pkfma .none .rne { bf := true, bsel := 3 } (.v 1) (.v 2) (.v 3) (.v 4)) := by decide
-- OP AA ACAS64, M 6 (D scope, class 2), D 04, A A0 (k0), B E0 (0), C 06, X = shift 3, imm12 -8
theorem test_decode_acas64 : decodeLane 0xAA06_04A0_E006_3FF8#64
    = .ok (.acas64 .none { scope := 1, cls := 2, sx := false, shift := 3, imm := 0xFF8 } 4 (.k 0) (.imm 32) 6) := by decide
-- OP B9 SCAN, M B (EXCL, umin), D 01, A 88 (iq0 pop)
theorem test_decode_scan : decodeLane 0xB90B_0188_0000_0000#64 = .ok (.scan .none .umin true (.v 1) (.iqPop 0)) := by decide
-- OP B7 PRET, A 81 (p1), X tag 7F
theorem test_decode_pret : decodeLane 0xB700_0081_0000_007F#64 = .ok (.pret .none 1 0x7F) := by decide
-- OP D0 REBAL, D 02, A 03, B 04, C A5 (k5)
theorem test_decode_rebal : decodeLane 0xD000_0203_04A5_0000#64 = .ok (.rebal .none (.v 2) (.v 3) (.v 4) 5) := by decide
-- OP E0 WAIT, X = L 1, S 2, C 3, T 15
theorem test_decode_wait : decodeLane 0xE000_0000_0000_123F#64 = .ok (.wait .none 1 2 3 15) := by decide
-- OP E6 XSEL, M D (F, port 5), D 07, C 02, X 0010
theorem test_decode_xsel : decodeLane 0xE60D_0700_0002_0010#64 = .ok (.xselF .none (.v 7) 5 2 0x10) := by decide
-- OP F2 CNTR, D 01, X 0F
theorem test_decode_cntr : decodeLane 0xF200_0100_0000_000F#64 = .ok (.cntr .none (.v 1) 15) := by decide
/-- R138: an unassigned opcode, a code outside its class, a reserved field and a reserved subfield value are refused. -/
theorem test_decode_refuses_unassigned : decodeLane 0x4600_0000_0000_0000#64 = .ok (.unassignedLaneOpcode 0x4600_0000_0000_0000#64) := by decide
theorem test_decode_refuses_class : (match decodeLane 0x0300_8100_0000_0000#64 with | .ok (.unassignedLaneOpcode _) => false | .ok _ => true | .error _ => false)
    = false := by decide
theorem test_decode_refuses_source : (match decodeLane 0x0300_0198_0000_0000#64 with | .ok (.unassignedLaneOpcode _) => false | .ok _ => true | .error _ => false)
    = false := by decide
theorem test_decode_refuses_reserved : (match decodeLane 0x0300_0102_0300_0001#64 with | .ok (.unassignedLaneOpcode _) => false | .ok _ => true | .error _ => false)
    = false := by decide

-- R157: the fixed bits of a form with its fields filled in
theorem test_decode_kset : decodeCc 0x00F2_A00B#32 = .kset 15 5 := by decide
theorem test_decode_bqdrain : decodeCc 0x1000_200B#32 = .bqdrain ∧ decodeCc 0x0000_400B#32 = .merge ∧ decodeCc 0x0400_005B#32 = .tdone := by decide
theorem test_decode_tyield : decodeCc 0x0602_805B#32 = .tyield 5 ∧ decodeCc 0x0800_02DB#32 = .tself 5 := by decide
theorem test_decode_cwrmax : decodeCc 0x0C73_025B#32 = .ccIllegalInstruction true ∧ decodeCc 0x0C73_225B#32 = .cwrmax 4 6 7 := by decide
theorem test_decode_erun : decodeCc 0x0033_102B#32 = .erun 6 3 ∧ decodeCc 0x0043_102B#32 = .ccIllegalInstruction true := by decide
theorem test_decode_publish : decodeCc 0x0003_52AB#32 = .publish 5 6 := by decide
theorem test_decode_iinval : decodeCc 0x0020_307B#32 = .iinval 2 ∧ decodeCc 0x0020_3FFB#32 = .ccIllegalInstruction true := by decide
theorem test_decode_tmark : decodeCc 0xFFF0_407B#32 = .tmark 0xFFF := by decide
-- the ratified base: addi x1, x2, -1; ld x3, 8(x4); beq x5, x6, +16; amocas.d x8, x10, (x9); ecall
theorem test_decode_base : decodeCc 0xFFF10093#32 = .rvIntegerInstruction (.opI .addi 1 2 0xFFF)
    ∧ decodeCc 0x00823183#32 = .ccLoadStore (.load .d false 3 4 8) ∧ decodeCc 0x00628863#32 = .rvBranch .eq 5 6 8
    ∧ decodeCc 0x28A4B42F#32 = .amo .cas .d false false 8 9 10 ∧ decodeCc 0x00000073#32 = .ecall := by decide
-- c.addi x8, 1 (0405), c.ld x9, 0(x10) (6104), c.ebreak (9002)
theorem test_decode_compressed : decodeC 0x0405#16 = .rvIntegerInstruction (.opI .addi 8 8 1)
    ∧ decodeC 0x6104#16 = .ccLoadStore (.load .d false 9 10 0) ∧ decodeC 0x9002#16 = .ebreak := by decide
/-- R145: a floating instruction of the base is an illegal instruction. -/
theorem test_decode_float : decodeCc 0x0000_0053#32 = .ccIllegalInstruction false := by decide

-- R148: opcode in bits 14:8, argument in bits 7:0
theorem test_decode_accst : decodeEngine 0x1009#16 = .ok (.accst 1 2) ∧ decodeEngine 0x2303#16 = .ok (.box 3) := by decide
theorem test_decode_sclose : decodeEngine 0x4309#16 = .ok (.scloseOq 1) ∧ decodeEngine 0x4307#16 = .ok (.scloseIq 7) := by decide
theorem test_decode_reval : decodeEngine 0x5507#16 = .ok (.reval 7) ∧ decodeEngine 0x543F#16 = .ok (.rdlim 63) := by decide
/-- R150's patterns reach the engine; the second is refused there, the first by its argument. -/
theorem test_decode_post9 : (match decodeEngine 0x0909#16 with | .error _ => true | .ok _ => false) = true
    ∧ decodeEngine 0x0646#16 = .ok (.shli 70) := by decide
theorem test_decode_unassigned_engine : (match decodeEngine 0x0D00#16 with | .error _ => true | .ok _ => false) = true := by decide

/-! ## Numbers: the worked values of R89, R92, R95, R102, R198-R207 -/

theorem test_narrow_tie_even : narrow bf16 .rne false (f32.unpack false 0x3F808000) = (0x3F80, flNX)
    ∧ narrow bf16 .rne false (f32.unpack false 0x3F818000) = (0x3F82, flNX) := by decide
theorem test_narrow_odd : narrow bf16 .rod false (f32.unpack false 0x3F800001) = (0x3F81, flNX)
    ∧ narrow bf16 .rod false (f32.unpack false 0x7F7FFFFF) = (0x7F7F, flNX) := by decide
theorem test_narrow_overflow : narrow bf16 .rne false (f32.unpack false 0x7F7FFFFF) = (0x7F80, flOF ||| flNX)
    ∧ narrow f16 .rtz false (f32.unpack false 0x47800000) = (0x7BFF, flOF ||| flNX) := by decide
theorem test_narrow_tiny : narrow bf16 .rne false (f32.unpack false 1) = (0, flUF ||| flNX) ∧ narrow bf16 .rne true (f32.unpack true 1) = (0, 0) := by decide
theorem test_narrow_nan : narrow bf16 .rne false (f32.unpack false 0xFF800001) = (0x7FC0, 0) := by decide
theorem test_widen : narrow f32 .rne false (f16.unpack false 1) = (0x33800000, 0) ∧ narrow f32 .rne true (f16.unpack true 1) = (0, 0) := by decide
theorem test_cvti : cvti 32 true .rtz (f32.unpack false 0x4F000000) = (0x7FFFFFFF, flNV) ∧ cvti 32 true .rne (f32.unpack false 0xBFC00000) = (-2, flNX) := by decide
theorem test_ffma_once : rndSum f32 .rne false [(f32.unpack false 0x3F800001).mul (f32.unpack false 0x3F800001), f32.unpack false 0xBF800002]
    = (0x28800000, 0) := by decide
theorem test_fmul_rounds : rndSum f32 .rne false [(f32.unpack false 0x3F800001).mul (f32.unpack false 0x3F800001)] = (0x3F800002, flNX) := by decide
theorem test_zero_sum_sign : (rndSum f32 .rdn false [f32.unpack false 0x3F800000, f32.unpack false 0xBF800000]).1 = 0x80000000
    ∧ (rndSum f32 .rne false [f32.unpack false 0x3F800000, f32.unpack false 0xBF800000]).1 = 0 := by decide
theorem test_minmax : fpMinMax false false 0x80000000 0 = 0x80000000 ∧ fpMinMax true false 0x7FC00000 0x3F800000 = 0x3F800000 := by decide
theorem test_fclass : fpClass 0x7F800001 = 0x100 ∧ fpClass 0x80000001 = 4 := by decide
theorem test_frnd_sign : fpRnd .rne (f32.unpack false 0xBE99999A) = 0x80000000 := by decide
theorem test_special : fpRcp false (f32.unpack false 0x80000000) = (0xFF800000, flDZ) ∧ fpSqrt .rne false (f32.unpack false 0xBF800000) = (0x7FC00000, flNV) := by decide
theorem test_sqrt_exact : fpSqrt .rne false (f32.unpack false 0x40800000) = (0x40000000, 0) := by decide
theorem test_fcvtq : fcvtq 4 false .rne (f32.unpack false 0x3FA66666) 126 = (3, flNX) ∧ fcvtq 4 false .rne (f32.unpack false 0xC0A00000) 126 = (-8, flNX) := by decide
theorem test_bpi_read : bpiRead (bpiInt 0xD3 8 false) 8 4 false = -48 ∧ bpiRead (bpiInt 0xD3 8 false) 8 4 true = -40
    ∧ bpiRead (bpiInt 0xD3 8 false) 8 2 true = -32 := by decide
theorem test_format_words : fmtValid 0x00880088 = true ∧ fmtValid 0x10441048 = true ∧ fmtValid 0x01000100 = true ∧ fmtValid 0x01000200 = false := by decide
/-- R102: 2^24 + 1 + 1 in port order, and 1 + 1 + 2^24. -/
theorem test_sluice_order : (sluiceSum 0 [0x4B800000, 0x3F800000, 0x3F800000]).1 = 0x4B800000
    ∧ (sluiceSum 0 [0x3F800000, 0x3F800000, 0x4B800000]).1 = 0x4B800001 := by decide

/-! ## Small states -/

/-- Hearth 0 with a page of 4 KiB mapped at 0x1000 onto device memory, readable, writable and executable. -/
def mapped : Hearth := { tlb := [{ va := 0x1000, tgt := .dev 0x1000, w := true, x := true, d := true }] }
/-- An atom of the L1 at 0x1000: bytes 1, 2, 3, 4 and zeros, its lease far ahead. -/
def held : L1E := { data := [1#8, 2#8, 3#8, 4#8] ++ List.replicate 28 0, tgt := .dev 0x1000, rts := 100 }
/-- A control thread of hearth 0, context 0, with x5 = 7, x6 = -3, x7 = 0x1000. -/
def thr : Thread := { st := .running, mask := 0xFFFFFFFF, pc := 0x2000, x := [(5, 7), (6, BitVec.ofInt 64 (-3)), (7, 0x1000)] }
/-- Its machine. -/
def ccS : State := { gcc := 10, threads := [(0, thr)], ctxs := [(0, { st := .running })], hearths := [(0, mapped)] }
/-- The same with the atom in its L1. -/
def ccL : State := { ccS with l1 := [(State.l1Key ccS 0 (.dev 0x1000), held)] }
/-- The same at H scope. -/
def ccH : State := { ccL with ctxs := [(0, { st := .running, yscope := 0 })] }
/-- The same whose answer from the home has come. -/
def ccG : State := { ccS with threads := [(0, { thr with xact := { got := some { data := List.replicate 32 9#8, val := 5, wts := 3 } } })] }

/-- What a step has left in a register of the thread. -/
def xOf (r : Res) (i : XReg) : Option Word64 := match r with | .next s => some ((s.thread 0).xr i) | _ => none
/-- A property of the next state. -/
def nextIs (r : Res) (p : State → Bool) : Bool := match r with | .next s => p s | _ => false

/-! ## Single steps of control instructions -/

theorem test_addi_sign : xOf (exec (.rvIntegerInstruction (.opI .addi 1 5 0xFFF)) ccS) 1 = some 6 := by decide
theorem test_div_zero : xOf (exec (.rvIntegerInstruction (.opR .div 1 5 0)) ccS) 1 = some (BitVec.ofInt 64 (-1)) := by decide
theorem test_rem_sign : xOf (exec (.rvIntegerInstruction (.opR .rem 1 6 5)) ccS) 1 = some (BitVec.ofInt 64 (-3)) := by decide
theorem test_x0 : xOf (exec (.rvIntegerInstruction (.opI .addi 0 5 1)) ccS) 0 = some 0 := by decide
theorem test_branch_taken : nextIs (exec (.rvBranch .lt 6 5 8) ccS) (fun s => (s.thread 0).pc == 0x2010) = true := by decide
theorem test_jalr : nextIs (exec (.jalr 1 7 3) ccS) (fun s => (s.thread 0).pc == 0x1002 && (s.thread 0).xr 1 == 0x2004) = true := by decide
theorem test_load_sign : xOf (exec (.ccLoadStore (.load .h false 1 7 0)) ccL) 1 = some 0x0201 := by decide
theorem test_store_l1 : nextIs (exec (.ccLoadStore (.store .w 7 5 4)) ccH) (fun s => s.l1.any (fun e => e.2.dirty == 0xF0)) = true := by decide
theorem test_ecall : nextIs (exec .ecall ccS) (fun s => (s.ctx 0).trapped == some 0 && (s.part 0).traps.length == 1) = true := by decide
theorem test_kset_push : nextIs (exec (.kset 3 5) ccS) (fun s => (s.ctx 0).seq == 1 && (s.ctx 0).bq.length == 1) = true := by decide
theorem test_bwin_limit : nextIs (exec (.bwin 5) ccS) (fun s => (s.ctx 0).bq.length == 1) = true
    ∧ nextIs (exec (.bwin 7) ccS) (fun s => (s.ctx 0).bq.length == 0 && (s.ctx 0).trapped.isSome) = true := by decide
theorem test_cmpdisc : nextIs (exec (.cmpdisc 5 2) ccS) (fun s => Map.get 0 (s.ctx 0).cmp 2 == -7) = true := by decide
theorem test_nbstat : xOf (exec (.nbstat 1 4) { ccS with ctxs := [(0, { st := .running, nb := [(4, { st := .armed, e := 3, a := 1, i := 2 })] })] }) 1
    = some 0x4000_0002_0003_0001 := by decide
theorem test_esend : nextIs (exec (.esend 5 1 1) ccS) (fun s => (s.eng 1).words.map (·.w) == [7, 0]) = true := by decide

/-! ## Witnesses: control instructions -/

/-- An address translates, on a thread with nothing under way, where the hearth reaches it. -/
theorem xl_small {s : State} {va : Nat} {acc : Acc} {t : Tgt} (h1 : s.th.xf = none) (h2 : s.th.xact.bound = none) (h3 : s.th.fault = none)
    (h4 : s.reach s.focus.h s.cx.part va acc = .ok t) : CcXl s va acc t := ⟨h1, by rw [h2]; exact ⟨h3, h4⟩⟩

theorem may_load : CcMay ccL 0x1000 8 .read true false 0 false (.dev 0x1000) :=
  ⟨by decide, xl_small rfl rfl rfl rfl, fun _ => by decide, by decide, by decide⟩

/-- ControlLoadsAndStores: a load from the L1. -/
theorem witness_load : CcLoads ccL 0x1000 8 0 false (held.data.take 8) (ccL.ccPts 10) :=
  ⟨.dev 0x1000, may_load, .inl ⟨⟨rfl, rfl, .inl (by decide)⟩, rfl, held, by decide, .inr (by decide), rfl, by decide, rfl⟩⟩

/-- ControlLoadsAndStores: a store to the L1 at H scope, and one that the home has acknowledged. -/
theorem witness_store : CcStores ccH 0x1000 (bytesOf 7 4) 0 0 false ((ccH.l1Dirty (ccH.ccPortAt 10) (.dev 0x1000) held (bytesOf 7 4) 0x1000 0).ccPts 10) :=
  ⟨.dev 0x1000, ⟨by decide, xl_small rfl rfl rfl rfl, fun _ => by decide, by decide, by decide⟩,
    .inl ⟨by decide, ⟨rfl, rfl, .inl (by decide)⟩, held, by decide, .inr (by decide), rfl⟩⟩

theorem witness_store_home : ∃ u, CcStores ccG 0x1000 (bytesOf 7 4) 1 0 true u :=
  ⟨_, .dev 0x1000, ⟨by decide, xl_small rfl rfl rfl rfl, fun _ => by decide, by decide, by decide⟩,
    .inr (.inr ⟨by decide, rfl, _, rfl, rfl, rfl⟩)⟩

/-- ControlLoadsAndStores: a store to a page of the host over PCIe is posted. -/
def ccF : State := { ccS with hearths := [(0, { tlb := [{ va := 0x1000, tgt := .host false 0 0x40000, w := true, d := true }] })] }
theorem witness_post : ∃ u, CcStores ccF 0x1000 (bytesOf 7 4) 0 0 false u :=
  ⟨_, .host false 0 0x40000, ⟨by decide, xl_small rfl rfl rfl rfl, fun _ => by decide, by decide, by decide⟩, .inr (.inl ⟨rfl, .inl ⟨rfl, by decide, rfl⟩⟩)⟩

/-- ControlLoadsAndStores: a reservation on the unit, and none. -/
theorem witness_sc : (ccS.th.resv = none) ∧ tgtUnit (.dev 0x1000) = tgtUnit (.dev 0x1008) ∧ ccH.reach 0 0 0x1000 .write = .ok (.dev 0x1000) := by decide

/-- ControlAtomicsAndFences: an atomic in the L1 at H scope. -/
theorem witness_atomic : ∃ u, CcAtomics ccH 0x1000 .add 4 7 0 0 0 0x04030201 u := by
  exact ⟨_, .dev 0x1000, ⟨by decide, xl_small rfl rfl rfl rfl, fun _ => by decide, by decide, by decide⟩,
    .inl ⟨by decide, ⟨rfl, rfl, .inl (by decide)⟩, held, by decide, .inr (by decide), rfl, by decide, rfl⟩⟩

/-- ControlAtomicsAndFences: a release at H scope, and one at D scope with nothing dirty. -/
theorem witness_release_h : CcReleased ccS 0 ccS := .inl ⟨rfl, rfl⟩
theorem witness_release_d : CcReleased ccS 1 ((((ccS.releaseFlush 0).ccPart 1).acquire (((ccS.releaseFlush 0).ccPart 1).wbStamp 0)).ccPart 2) := by
  refine .inr (.inr ⟨by decide, by decide, (ccS.releaseFlush 0).ccPart 1, _, ?_, ?_, rfl, by decide, rfl⟩)
  · rw [if_pos (show ccS.th.part = 0 by decide)]; rfl
  · have e : ((ccS.releaseFlush 0).ccPart 1).l1Hearths ccS.focus.h = [0] := by decide
    rw [e]
    intro h hh
    rw [List.mem_singleton] at hh
    subst hh
    decide

/-- ControlTraps: a context that runs, one that is idle. -/
theorem witness_trap : ccS.cx.st ≠ .idle ∧ ccS.cx.trapped = none ∧ State.reset.cx.st = .idle := by decide

/-- ControlQueues: a table entry in the block store that keeps its layout (NEED 14, LEN 1), one that does not, and owned and foreign queue entries. -/
theorem witness_block_entry : blkTabOf (14 * 2 ^ 49 + 4096 * 2 ^ 32 + 0x100) 0 = some ({ need := 14, inter := false, s := 1, len := 4096, body := 0x100 }, 0)
    ∧ blkTabOf (15 * 2 ^ 49 + 1 * 2 ^ 32) 0 = none ∧ blkTabOf (1 * 2 ^ 49 + 4097 * 2 ^ 32) 0 = none := by decide
theorem witness_prq : ∃ e r, ({ ccS with ctxs := [(0, { st := .running, prq := [{ w := 5 }] })] } : State).cx.prq = e :: r
    ∧ e.slot = 0 ∧ e.gen = 0 := ⟨_, _, rfl, rfl, rfl⟩

/-- ControlSplitsAndMerges: both sides taken, with a pool thread free, and with none live enough. -/
theorem witness_split : thr.mask &&& lo32 (thr.xr 5) ≠ 0 ∧ thr.mask &&& ~~~lo32 (thr.xr 5) ≠ 0 ∧ (ccS.liveThreads 0 0).length < 4
    ∧ [4, 5, 6, 7].find? (fun t => (ccS.thread (tkey 0 t)).st == .free) = some 4 := by decide

/-- ControlSplitsAndMerges: the last split at the merge, with no entry of its own. -/
theorem witness_merge : ccS.cx.prq = [] ∧ ccS.cx.merges = [] ∧ ccS.cx.depth = 0 ∧ ccS.liveThreads 0 0 = [0] ∧ ccS.cx.bq = [] := by decide

/-- ControlEngineQueuesAndCounters: a header of one word; a counter below, at and above its count. -/
def header : L1E := { data := [1#8] ++ List.replicate 31 0, tgt := .dev 0x1000, rts := 100 }
def ccE : State := { ccS with l1 := [(State.l1Key ccS 0 (.dev 0x1000), header)] }
theorem witness_header : CcLoads ccE 0x1000 4 0 true [1#8, 0, 0, 0] (ccE.ccPts 10) := by
  exact ⟨.dev 0x1000, ⟨by decide, xl_small rfl rfl rfl rfl, fun _ => by decide, by decide, by decide⟩,
    .inl ⟨⟨rfl, rfl, .inl (by decide)⟩, rfl, header, by decide, .inr (by decide), rfl, by decide, rfl⟩⟩
theorem witness_counter : (ccS.xr 5).toNat % 2 ^ 32 < 2 ^ 31 ∧ 2 ^ 31 ≤ (ccS.xr 6).toNat % 2 ^ 32 ∧ Map.get 0 ccS.cx.cmp 0 < (ccS.xr 5).toNat := by decide

/-- ControlPublishSpawnJoin: an aligned and a misaligned record, and a tensor that is not defined. -/
theorem witness_record : (ccS.xr 7).toNat % 64 = 0 ∧ (ccS.xr 5).toNat % 64 ≠ 0 ∧ ccS.reach 0 0 0x1000 .atomic = .ok (.dev 0x1000) ∧ ccS.tensor 0 7 = none := by decide

/-- ControlTaskEnd: a task that may end, and one that may not. -/
theorem witness_task_end : ccS.drained ccS.xk = true ∧ ccS.enginesQuiet 0 0 = true ∧ ccS.gr.ops = [] ∧ ccS.taskPts 0 0 ≤ ccS.localGcc 0
    ∧ ccS.th.st = .running ∧ (ccS.liveThreads 0 0).length = 1 := by decide

/-- ControlNamedBarriers: a barrier that lacks one arrival, one that is not armed, one that is in use. -/
theorem witness_barrier : ∃ s : State, (s.nbOf 4).st = .armed ∧ (s.nbOf 4).a + 1 = (s.nbOf 4).e ∧ (s.nbOf 5).st ≠ .armed ∧ (s.nbOf 6).waiters ≠ [] :=
  ⟨{ ccS with ctxs := [(0, { st := .running, nb := [(4, { st := .armed, e := 1 }), (6, { st := .armed, e := 1, waiters := [.thread 0 1] })] })] },
    by decide, by decide, by decide, by decide⟩

/-- ControlCauseway: a barrier channel of the context, before its arrival; a broadcast channel of which it is the sender. -/
def ccW : State := { ccS with chans := [(7, { part := some 0, cfg := { kind := 1, members := [0, 1] } }),
  (263, { part := some 0, cfg := { kind := 4, members := [0, 1], sender := 0 } }), (264, { part := some 0, cfg := { kind := 5, members := [0, 1] } })] }
theorem witness_channel : CwOk (ccW.settleChan 7) 7 [1, 3] ∧ CwOk (ccW.settleChan 263) 263 [4] ∧ CwOk (ccW.settleChan 264) 264 [5]
    ∧ ¬ CwOk (ccW.settleChan 8) 8 [1, 3] := by unfold CwOk; decide


/-! ## Lane groups -/

/-- A group of context 0 in the one pass of an interlocked block of NEED 14: v2 = 5, v3 = -1 in every lane's reading of lane 0, p1 in lanes 0 and 1, k0 = 0x1000. -/
def grp : Group := {
  v := [(64, 5), (65, 6), (96, 0xFFFFFFFF)], p := [(1, 3)], k := [(0, 0x1000)], iq := [(0, [List.replicate 32 4, List.replicate 32 9])]
  blk := some { n := 1, mask := 0xFFFFFFFF, tab := { need := 14, inter := true, len := 1 }, inPass := true, body := [0] } }
def laneS : State := { ccS with groups := [(0, grp)] }
/-- The same in an exposed block. -/
def laneX : State := { laneS with groups := [(0, { grp with blk := grp.blk.map (fun b => { b with tab := { b.tab with inter := false } }) })] }

/-- The word at its point of issue in `laneS`. -/
def atIssue (g : Guard) (srcs : List (Src × Bool)) : Issue :=
  let u := laneS.settleGroup 0 0
  let b := u.lb
  let w : Lw := { act := u.active, ex := if stageOn b g then u.executing g else 0, z := !b.tab.inter }
  let r := (readSrcs u w [] srcs).getD ([], [])
  { u := u, b := b, w := w, vs := r.1, pops := r.2 }

/-- A word of `laneS` that passes the checks that depend on its registers and sources stands as LaneGo asks. -/
theorem laneGo_small (g : Guard) (inPhase always : Bool) (srcs : List (Src × Bool)) (r : Regs)
    (h1 : stageOn (atIssue g srcs).b g = true) (h2 : (r.with g srcs).outside 14 = false)
    (h3 : (readSrcs (atIssue g srcs).u (atIssue g srcs).w [] srcs).isSome = true)
    (h4 : violation (atIssue g srcs).u (r.with g srcs) = none) (h5 : poisonHit (atIssue g srcs).u (r.with g srcs) = none) :
    LaneGo laneS g inPhase always srcs r (atIssue g srcs) := by
  refine ⟨⟨rfl, by rfl, by rfl, Nat.zero_le _, by rfl, by rfl, by rfl, .inl h1, .inl (by rfl), rfl, fun _ => h2, ?_⟩, ?_, h4, h5⟩
  · intro _
    exact (by decide : (laneS.settleGroup 0 0).bplwHit = none)
  · obtain ⟨q, hq⟩ := Option.isSome_iff_exists.mp h3
    show readSrcs (atIssue g srcs).u (atIssue g srcs).w [] srcs = some ((((readSrcs (atIssue g srcs).u (atIssue g srcs).w [] srcs).getD ([], []))).1,
      (((readSrcs (atIssue g srcs).u (atIssue g srcs).w [] srcs).getD ([], []))).2)
    rw [hq]; rfl

theorem laneFixes_small (g : Guard) (inPhase wide : Bool) (d : Dst) (lat : Nat) (srcs : List (Src × Bool)) (hd : ∀ q, d ≠ .oq q)
    (h : LaneGo laneS g inPhase false srcs { wv := dstCodes d (if wide then 2 else 1), wp := dstPreds d, lat := lat } (atIssue g srcs)) :
    LaneFixes laneS g inPhase d wide lat srcs (atIssue g srcs) := ⟨h, fun q e => absurd e (hd q)⟩

/-- LaneIntegerWords, LaneFloatWords: one, two, three sources, a pair, a predicate guard. -/
theorem witness_lane_two : LaneFixes laneS .none true (.v 1) false 4 [(.v 2, false), (.v 3, false)] (atIssue .none [(.v 2, false), (.v 3, false)]) :=
  laneFixes_small _ _ _ _ _ _ (by simp) (laneGo_small _ _ _ _ _ (by rfl) (by decide) (by decide) (by decide) (by decide))
theorem witness_lane_guard : LaneFixes laneS (.p 1) true .discard false 4 [(.iqPop 0, false), (.iqPeek 0, false), (.k 0, false)]
    (atIssue (.p 1) [(.iqPop 0, false), (.iqPeek 0, false), (.k 0, false)]) :=
  laneFixes_small _ _ _ _ _ _ (by simp) (laneGo_small _ _ _ _ _ (by rfl) (by decide) (by decide) (by decide) (by decide))
theorem witness_lane_pair : LaneFixes laneS .none true (.v 4) true 4 [(.v 2, true), (.k 0, true)] (atIssue .none [(.v 2, true), (.k 0, true)]) :=
  laneFixes_small _ _ _ _ _ _ (by simp) (laneGo_small _ _ _ _ _ (by rfl) (by decide) (by decide) (by decide) (by decide))

/-! ## Single steps of lane words -/

/-- The value of a register's lane once the group's results are due. -/
def vOf (r : Res) (i l : Nat) : Option Word := match r with
  | .next s => some (((s.group 0).settle 1000).vAt i l)
  | _ => none

theorem test_iadd : vOf (exec (.iadd .none (.v 1) (.v 2) (.v 3)) laneS) 1 0 = some 4 := by decide
theorem test_iadd_pop_peek : vOf (exec (.iadd .none (.v 1) (.iqPop 0) (.iqPeek 0)) laneS) 1 7 = some 13 := by decide
theorem test_guard_lanes : vOf (exec (.movi (.p 1) (.v 2) 77) laneS) 2 1 = some 77 ∧ vOf (exec (.movi (.p 1) (.v 2) 77) laneS) 2 2 = some 0 := by decide
theorem test_shift_width : vOf (exec (.sar .none (.v 1) (.v 3) (.imm 63)) laneS) 1 0 = some 0xFFFFFFFF
    ∧ vOf (exec (.shl .none (.v 1) (.v 3) (.k 0)) laneS) 1 0 = some 0 := by decide
theorem test_imulw_signed : vOf (exec (.imulw .none (.v 4) (.v 2) (.v 3) false) laneS) 5 0 = some 0xFFFFFFFF
    ∧ vOf (exec (.imulw .none (.v 4) (.v 2) (.v 3) true) laneS) 5 0 = some 4 := by decide
theorem test_iadds_saturates : vOf (exec (.iadds .none (.v 1) (.v 2) (.v 3) true) laneS) 1 0 = some 0xFFFFFFFF := by decide
theorem test_lane_special : vOf (exec (.mov .none (.v 1) .lane) laneS) 1 31 = some 31 := by decide
theorem test_reduce : vOf (exec (.reduce .none .add (.v 1) (.v 2)) laneS) 1 9 = some 11 := by decide
theorem test_ballot : vOf (exec (.ballot .none (.v 1) 1) laneS) 1 5 = some 3 := by decide
theorem test_exit : nextIs (exec (.exit (.p 1)) laneS) (fun s => (s.group 0).exited == 3) = true := by decide
theorem test_brk : nextIs (exec (.brk .none 9) laneS) (fun s => (s.ctx 0).trapped.isSome) = true := by decide
theorem test_empty_queue_stalls : nextIs (exec (.mov .none (.v 1) (.iqPop 5)) laneS) (fun s => (s.group 0).pend.length == 0 && (s.ctx 0).trapped.isNone) = true := by
  decide
theorem test_need_trap : nextIs (exec (.mov .none (.v 112) (.v 2)) { laneS with groups := [(0, { grp with blk := grp.blk.map (fun b => { b with tab := { b.tab with need := 1 } }) })] })
    (fun s => (s.ctx 0).trapped.isNone) = true
    ∧ nextIs (exec (.mov .none (.v 8) (.v 2)) { laneS with groups := [(0, { grp with blk := grp.blk.map (fun b => { b with tab := { b.tab with need := 1 } }) })] })
    (fun s => (s.ctx 0).trapped.isSome) = true := by decide

/-! ## Witnesses: lane words -/

/-- LanePassesAndResults: two results, one due and one not; a block entry at the head of the BQ of an idle group, its window inside. -/
def entryB : BqE := { bits := BitVec.ofNat 128 (2 ^ 32), tab := { len := 1, body := 0x1000 } }
def takeS : State := { ccS with ctxs := [(0, { st := .running, bq := [entryB] })] }
theorem witness_take : takeS.settleGroup 0 0 = takeS ∧ takeS.mayTake 0 0 = true ∧ (takeS.ctx 0).bq = entryB :: []
    ∧ entryB.bits.toNat / 2 ^ 124 = 0 ∧ entryB.phase = none ∧ 0 ≤ (takeS.group 0).wa + entryB.delta := by decide
theorem witness_result : laneS.lg.pend = [] ∧ laneS.phys 1 ≠ laneS.phys 2 ∧ laneS.lcyc < laneS.lcyc + 4 := by decide
theorem witness_word_done : laneS.lg.blk = grp.blk ∧ (grp.blk.map (fun b => (b.fin, decide (b.tab.len ≤ b.w + 1), decide (b.n + b.tab.s ≤ b.k + 2))))
    = some (false, true, true) := by decide

/-- LaneIssueChecks: a parked group, an interlocked and an exposed violation, an empty queue, an uncorrectable register. -/
def laneV : State := { laneS with groups := [(0, { grp with pend := [{ due := 20, dst := .v 2, seq := 1 }] })] }
theorem witness_checks : (laneV.settleGroup 0 0).lg.pendOf (.v (laneV.phys 2)) ≠ none ∧ (violation (laneV.settleGroup 0 0) { rv := [2] }).isSome = true
    ∧ (violation laneS { rv := [2] }) = none ∧ readSrcs laneS {} [] [(.iqPop 5, false)] = none := by decide

/-- LaneIssueChecks: a pending result that is due later, and an outstanding load. -/
def laneO : State := { laneS with groups := [(0, { grp with ops := [{ id := 0, cls := .l, dst := [2], acc := [{}] }] })] }
theorem witness_schedule : (laneV.lg.pendOf (.v (laneV.phys 2))).map (·.due) = some 20 ∧ laneV.lcyc + 4 < 20
    ∧ laneV.lg.loadOf (laneV.phys 2) = none ∧ laneO.lg.pendOf (.v (laneO.phys 2)) = none
    ∧ (laneO.lg.loadOf (laneO.phys 2)).isSome = true := by decide

/-- LaneMemoryWords: every lane reaches 0x1000 + 4 · 5, in a page that may be written. -/
def lm : Lm := { scope := 1, cls := 0, sx := false, shift := 2, imm := 0 }
def memX : Issue := atIssue .none [(.k 0, true), (.imm 37, false)]
theorem witness_memory : LaneGo laneS .none false false ([(.k 0, true), (.imm 37, false)] ++ []) { wv := dstCodes (.v 7) 1 } memX
    ∧ memX.u.lg.outstanding .l < 64 ∧ memX.reaches .read 4 (fun l => (memX.addr lm l).toNat) (fun _ => .dev 0x1014) := by
  refine ⟨laneGo_small _ _ _ _ _ (by rfl) (by decide) (by decide) (by decide) (by decide), by decide, rfl, ?_⟩
  have h : ∀ l, l < 32 → (memX.addr lm l).toNat % 4 = 0 ∧ memX.u.reach memX.u.focus.h memX.u.lc.part ((memX.addr lm l).toNat) .read = .ok (.dev 0x1014)
      ∧ memX.u.watchHit memX.u.lc.part memX.u.focus.h memX.u.focus.t ((memX.addr lm l).toNat) 4 true false memX.u.lg.suppress = none := by decide
  intro l hl
  exact h l (by
    have e : lanesOf memX.w.ex = natsFrom 0 32 := by decide
    rw [e] at hl
    have := (by decide : ∀ i ∈ natsFrom 0 32, i < 32) l hl
    exact this)

/-- LaneMemoryWords: a misaligned lane, one whose page is read-only, one whose translation misses. -/
theorem witness_access_traps : (laneS.reach 0 0 0x5000 .read = .miss) ∧ laneS.reach 0 0 0x1004 .read = .ok (.dev 0x1004)
    ∧ (∃ c u, ({ laneS with hearths := [(0, { tlb := [{ va := 0x1000, tgt := .dev 0x1000 }] })] } : State).reach 0 0 0x1000 .write = .bad c u)
    ∧ laneS.lg.unfinished = none ∧ laneS.lg.xfs = [] := ⟨by decide, by decide, ⟨_, _, rfl⟩, rfl, rfl⟩

/-- LaneAccessesComplete: a load of one lane whose answer has come; an oq with and without room. -/
def acc1 : LaneAcc := { lane := 3, va := 0x1000, tgt := .dev 0x1000, ready := true, x := { got := some { data := List.replicate 32 7#8 } } }
def load1 : LaneOp := { id := 0, cls := .l, kind := .load true, dst := [2], acc := [acc1] }
def doneS : State := { laneS with groups := [(0, { grp with ops := [load1] })] }
theorem witness_complete : (doneS.group 0).ops = load1 :: [] ∧ load1.done = false ∧ load1.acc = [] ++ acc1 :: [] ∧ (load1.acc.map (·.lane)).Nodup
    ∧ acc1.ready = true ∧ acc1.done = false ∧ acc1.bad = none ∧ max (doneS.group 0).pts (doneS.localGcc 0) ≤ doneS.localGcc 0 + 64
    ∧ ∃ q, acc1.x.got = some q ∧ q.ok = true ∧ natOfBytes ((q.data.drop (tgtOff acc1.tgt)).take 4) = 0x07070707 :=
  ⟨rfl, rfl, rfl, by decide, rfl, rfl, rfl, by decide, _, rfl, rfl, by decide⟩
theorem test_load_complete : nextIs (exec (.laneLoadComplete 0 0 0) doneS) (fun s => (s.group 0).vAt 2 3 == 0x07070707 && (s.group 0).ops.isEmpty) = true := by
  decide

/-- ScratchpadWords: a place in the scratchpad for each lane, and one outside; a window of the exchange. -/
theorem witness_lds : LaneGo laneS .none true false [(.imm 32, false), (.lane, false)] { wv := dstCodes (.v 1) 1, lat := 24 }
    (atIssue .none [(.imm 32, false), (.lane, false)]) ∧ oqFull (.v 1) {} laneS = none :=
  ⟨laneGo_small _ _ _ _ _ (by rfl) (by decide) (by decide) (by decide) (by decide), rfl⟩
theorem witness_pad : (Hearth.padAddr {} 0).isSome = true ∧ (Hearth.padAddr {} (2 ^ 22 - 4)).isSome = true ∧ (Hearth.padAddr {} (2 ^ 22)).isNone = true := by decide
theorem test_sts_misaligned : nextIs (exec (.sts .none lm (.imm 33) .lane (.v 2)) laneS) (fun s => (s.ctx 0).trapped.isSome && (s.hearth 0).pad.isEmpty) = true := by
  decide
theorem witness_stx : ∃ y, (Hearth.xwin { xwin := some { ctx := 0, base := 0, size := 65536 } } = some y) ∧ 32764 + 4 ≤ y.size / 2 ∧ y.size / 2 < 32768 + 4 :=
  ⟨_, rfl, by decide, by decide⟩

/-- LaneWaitAndSystemWords: WAIT below and above its field, a barrier that is armed and one that is not; a return of this generation, and of a passed one. -/
theorem witness_wait : LaneGo laneS .none false true [] {} (atIssue .none []) ∧ LaneGo laneS .none false false [] {} (atIssue .none [])
    ∧ LaneGo laneS .none false false [(.p 1, false)] {} (atIssue .none [(.p 1, false)])
    ∧ (atIssue .none []).u.lg.outstanding .l ≤ (0#4).toNat ∧ ¬ (laneO.lg.outstanding .l ≤ (0#4).toNat) ∧ (15#4).toNat = 15 :=
  ⟨laneGo_small _ _ _ _ _ (by rfl) (by decide) (by decide) (by decide) (by decide),
    laneGo_small _ _ _ _ _ (by rfl) (by decide) (by decide) (by decide) (by decide),
    laneGo_small _ _ _ _ _ (by rfl) (by decide) (by decide) (by decide) (by decide), by decide, by decide, rfl⟩
theorem witness_lane_barrier : (Map.get {} laneS.lc.nb 4).st ≠ .armed
    ∧ (Map.get {} (State.lc { laneS with ctxs := [(0, { st := .running, nb := [(4, { st := .armed, e := 1 })] })] }).nb 4).st = .armed
    ∧ Map.get 0 laneS.lc.gens laneS.lb.slot = laneS.lb.gen := by decide
theorem test_pret : nextIs (exec (.pret .none 1 5) laneS) (fun s => (s.group 0).prets.length == 1) = true := by decide
theorem test_wait_holds : nextIs (exec (.wait .none 0 15 15 15) laneO) (fun s => (s.group 0).blk == laneO.lg.blk) = true
    ∧ nextIs (exec (.wait .none 1 15 15 15) laneO) (fun s => (s.group 0).blk == none) = true := by decide

/-- TileWords: with lanes and with none; a format word that is valid; a tile store whose rows are aligned and inside. -/
theorem witness_tile : LaneGo laneS .none false false [] {} (atIssue .none []) ∧ tileFull laneS = none ∧ lanesOf (atIssue .none []).w.ex ≠ []
    ∧ fmtValid 0x00220022 = true ∧ fmtValid 0xF = false ∧ Hearth.padOk {} 0 64 = true ∧ Hearth.padOk {} (2 ^ 22 - 16) 64 = false :=
  ⟨laneGo_small _ _ _ _ _ (by rfl) (by decide) (by decide) (by decide) (by decide), by decide, by decide, by decide, by decide, by decide, by decide⟩
theorem test_mzero : nextIs (exec (.mzero .none 2) laneS) (fun s => (s.group 0).ops.map (fun o => (o.cls == .t, o.bank, o.lanes.length)) == [(true, 2, 32)]) = true := by
  decide

/-- TileOperations: MZERO, MWR and MSCAT that are due, and one that may start. -/
def tileO (k : TileK) : LaneOp := { cls := .t, tile := some k, bank := 1, lanes := [(0, 3), (5, 128)], started := true }
def tileS (k : TileK) : State := { laneS with groups := [(0, { grp with ops := [tileO k] })] }
theorem witness_tile_op : (tileO .mzero).t0 + 4 ≤ (tileS .mzero).gcc ∧ ((tileO .mzero).lanes.map (·.1)).Nodup ∧ (∀ q ∈ (tileO .mzero).lanes, q.1 < 32)
    ∧ State.tileWaits laneS 0 0 (tileO .mzero) = false := by decide
theorem test_mwr : nextIs (exec (.tileOpComplete 0 0) (tileS (.mwr 7)))
    (fun s => (s.group 0).accAt 1 5 7 == 128 && (s.group 0).accAt 1 5 8 == 0 && (s.group 0).verOf 1 == 1 && (s.group 0).ops.isEmpty) = true := by decide

/-! ## Witnesses: transfer phases, the Causeway -/

/-- A phase block of channel 320 of an exposed body; port 0 of hearth 0 goes to hearth 1; a register is at port 2. -/
def reg2 : Reg := { port := 2, at1 := 5, vals := List.replicate 32 77, ch := 320, t0 := 2 }
def laneP : State := { ccS with
  groups := [(0, { grp with blk := grp.blk.map (fun b => { b with tab := { b.tab with inter := false }, phase := some 320, t0 := 2 }) })]
  parts := [(0, { state := 1, hset := 3, wires := [(0, 2 ^ 48 + 1)] })]
  hearths := [(0, { mapped with ports := [reg2] })]
  chans := [(320, { part := some 0, cfg := { kind := 3, members := [0, 4], lph := 100 }, phases := [{ t0 := 2, begun := [0, 4] }] })] }
theorem witness_phase : laneP.lb.phase = some 320 ∧ laneP.ph = 8 ∧ Map.get 0 (laneP.part 0).wires 0 = 2 ^ 48 + 1
    ∧ (laneP.hearth 0).ports.find? (fun q => q.port == 2) = some reg2 ∧ reg2.bad = false ∧ reg2.at1 + 1 ≤ laneP.gcc
    ∧ (laneP.hearth 0).ports.find? (fun q => q.port == 3) = none ∧ ¬ (laneP.gcc < Map.get 0 (laneP.hearth 0).outBusy 0) := by decide
theorem test_xmit : nextIs (exec (.xmit .none 2 0) laneP) (fun s => s.regsInFlight.map (fun r => (r.h, r.port, r.at1, r.vals.getD 1 0)) == [(1, 1, 12, 6)]) = true
    ∧ nextIs (exec (.xmit .none 2 1) laneP) (fun s => (s.ctx 0).trapped.isSome) = true := by decide
theorem test_xsel : nextIs (exec (.xsel .none (.v 9) 2 8) laneP) (fun s => (s.hearth 0).ports.isEmpty && ((s.group 0).settle 1000).vAt 9 6 == 77) = true
    ∧ nextIs (exec (.xsel .none (.v 9) 2 7) laneP) (fun s => (s.ctx 0).trapped.isSome && (s.chan 320).phases.map (·.abort) == [some 74]) = true := by decide

/-- TransferPhases: a phase whose member is to start, a phase that ends, a register that arrives. -/
def entryP : BqE := { entryB with phase := some 320 }
def phaseS (e : Nat) : State := { ccS with
  gcc := e, ctxs := [(0, { st := .running, bq := [entryP] })], groups := [(0, { wa := 0 })]
  chans := [(320, { part := some 0, cfg := { kind := 3, members := [0], lph := 100 }, phases := [{ t0 := 2 }] })]
  regsInFlight := [{ h := 0, port := 1, at1 := 12, ch := 320, t0 := 2 }] }
theorem witness_phase_start : (phaseS 10).phaseStart 0 = some (320, 2) ∧ (phaseS 9).phaseStart 0 = none
    ∧ (phaseS 10).ctx 0 = { st := .running, bq := [entryP] } ∧ entryP.kind = 0 ∧ ((phaseS 10).group 0).blk = none ∧ ((phaseS 10).group 0).pend = []
    ∧ ((phaseS 10).group 0).winTo = none ∧ (phaseS 10).groupFree 0 0 = true := by decide
theorem witness_phase_end : (phaseS 101).gcc < 2 + 100 ∧ 2 + 100 ≤ (phaseS 102).gcc ∧ (phaseS 11).gcc < 12 ∧ 12 ≤ (phaseS 12).gcc := by decide
theorem test_phase_end : nextIs (exec (.phaseEnd 320) (phaseS 102)) (fun s => (s.chan 320).phases.isEmpty && s.regsInFlight.isEmpty && (s.ctx 0).trapped.isSome) = true
    ∧ nextIs (exec (.phaseEnd 320) { phaseS 102 with regsInFlight := [] }) (fun s => (s.chan 320).phases.isEmpty && (s.ctx 0).trapped.isNone) = true := by decide

/-- CausewayAndSluiceSteps: an instance that is complete one cycle before, and at, its release; contributions; a held broadcast; flips; a setting. -/
def cwS (g : Nat) : State := { gcc := g, chans := [(7, { part := some 0, cfg := { kind := 1, members := [0, 1] }, here := [0, 1], last := 10 }),
  (8, { part := some 0, cfg := { kind := 5, members := [0, 1] }, contrib := [(0, { v := 2 ^ 31 - 1 }), (1, { v := 1 })], last := 10 }),
  (9, { part := some 0, cfg := { kind := 4, members := [0, 1], sender := 0 }, held := some 5 }),
  (10, { part := some 0, cfg := { kind := 2, members := [0, 5] }, inst := 1, relAt := 30 })] }
theorem witness_release : ¬ (10 + 24 ≤ (cwS 33).gcc) ∧ 10 + 24 ≤ (cwS 34).gcc ∧ (∀ m ∈ ((cwS 34).chan 7).cfg.members, m ∈ ((cwS 34).chan 7).here)
    ∧ ((cwS 34).chan 10).swaps < ((cwS 34).chan 10).inst ∧ ((cwS 34).chan 10).relAt + 2 ≤ (cwS 34).gcc ∧ (([0, 5] : List Nat).map (· / 4)).Nodup := by decide
theorem test_release : nextIs (exec (.causewayRelease 7) (cwS 33)) (fun s => (s.chan 7).inst == 0) = true
    ∧ nextIs (exec (.causewayRelease 7) (cwS 34)) (fun s => (s.chan 7).inst == 1 && (s.chan 7).here.isEmpty) = true := by decide
theorem test_reduction : nextIs (exec (.reductionRelease 8) (cwS 34)) (fun s => (s.chan 8).results == [(0, some (2 ^ 31 - 1))]) = true := by decide
theorem test_broadcast_held : nextIs (exec (.bcastHeldSend 9) (cwS 34)) (fun s => (s.chan 9).held == none && (s.ctx 1).rx == [{ ch := 9, due := 58, v := 5 }]) = true := by
  decide

/-! ## Engine words -/

/-- Queue 1 of context 0 (its copy engine) with one word and a stack. -/
def engS (w : BitVec 16) (st : List Word64) : State := { ccS with focus := { q := 1, t := 1 }, engs := [(1, { words := [{ w := w, pc := 0x2000 }], stack := st })] }
/-- Its stack after a word. -/
def stackIs (r : Res) (st : List Word64) : Bool := nextIs r (fun s => (s.eng 1).stack == st && (s.eng 1).words.isEmpty)

/-- EngineStackWordsAndSetters: one, two operands, a stack with room for one more, and a full one. -/
theorem witness_stack : ((engS 0x0500 [3]).eng 1).words = { w := 0x0500, pc := 0x2000 } :: [] ∧ ((engS 0 [3]).eng 1).stack = 3 :: [] ∧ ([] : List Word64).length ≤ 7
    ∧ ((engS 0 [5, 4]).eng 1).stack = 5 :: 4 :: [] ∧ ¬ ((engS 0 (List.replicate 8 0)).eng 1).stack.length ≤ 7 ∧ (63#8).toNat < 64 ∧ 64 ≤ (64#8).toNat := by decide
theorem test_neg : stackIs (exec .neg (engS 0x0500 [3])) [BitVec.ofInt 64 (-3)] = true := by decide
theorem test_shli : stackIs (exec (.shli 63) (engS 0x063F [3])) [2 ^ 63] = true
    ∧ nextIs (exec (.shli 64) (engS 0x0640 [3])) (fun s => (s.ctx 0).trapped.isSome) = true := by decide
theorem test_over_swap : stackIs (exec .over (engS 0x0400 [5, 4])) [4, 5, 4] = true ∧ stackIs (exec .swap (engS 0x0300 [5, 4])) [4, 5] = true := by decide
theorem test_lit : stackIs (exec (.litPush 6) (engS 0x8006 [])) [6] = true ∧ stackIs (exec (.litContinue 0x6A0) (engS 0xC6A0 [6])) [6 * 2 ^ 14 + 0x6A0] = true := by
  decide
theorem test_lit_overflow : nextIs (exec (.litPush 6) (engS 0x8006 (List.replicate 8 0))) (fun s => (s.part 0).traps.map (fun (r : TrapRec) => (r.words.getD 0 0).toNat % 256) == [8]) = true := by
  decide

/-- EngineStackWordsAndSetters: FIBRE inside, and one that meets the window; RDLIM 1 and 63 against 0 and 64. -/
theorem witness_fibre : ((engS 0 [0x1000, 0x2000]).eng 1).stack = [0x1000, 0x2000] ∧ (0x2000#64).toNat % 4096 = 0 ∧ (0x1000#64).toNat ≤ 2 ^ 21
    ∧ (0x2000#64).toNat + (0x1000#64).toNat ≤ 2 ^ 22 ∧ ((engS 0 []).hearth (engHearth 1)).xwin = none ∧ ((engS 0 []).preg 0 0x128).testBit 15 = false := by decide
theorem test_rdlim : nextIs (exec (.rdlim 63) (engS 0 [])) (fun s => (s.eng 1).rdlim == 63) = true
    ∧ nextIs (exec (.rdlim 64) (engS 0 [])) (fun s => (s.eng 1).rdlim == 16 && (s.ctx 0).trapped.isSome) = true := by decide
theorem test_mode : nextIs (exec (.mode 3 true) (engS 0 [])) (fun s => (s.eng 1).rm == 3 && (s.eng 1).ftz) = true
    ∧ nextIs (exec (.mode 4 true) (engS 0 [])) (fun s => (s.ctx 0).trapped.isSome) = true := by decide

/-- EngineMarkers: nothing ahead, a command ahead that is not done and one that is. -/
def cmdS (done : Bool) : State := { ccS with engs := [(1, { cmds := [(0, { done := done })], items := [.cmd 0, .post 2 0 0], nextCmd := 1 })] }
theorem witness_marker : ((engS 0 []).eng 1).items = [] ∧ Map.get 0 ((engS 0 []).ctx 0).cmp 2 < 2 ^ 31 - 1 ∧ ((cmdS true).eng 1).items = [.cmd 0, .post 2 0 0]
    ∧ (Map.get {} ((cmdS true).eng 1).cmds 0).done = true ∧ (Map.get {} ((cmdS false).eng 1).cmds 0).done = false ∧ openStream false 2 ((engS 0 []).eng 1) = none := by decide
theorem test_post : nextIs (exec (.post 2) (engS 0x0902 [])) (fun s => Map.get 0 (s.ctx 0).cmp 2 == 1) = true
    ∧ nextIs (exec (.markerPerform 1) (cmdS true)) (fun s => Map.get 0 (s.ctx 0).cmp 2 == 1 && (s.eng 1).items.isEmpty) = true
    ∧ nextIs (exec (.markerPerform 1) (cmdS false)) (fun s => Map.get 0 (s.ctx 0).cmp 2 == 0) = true := by decide

/-- EngineLaunches: a CPY whose operands are allowed, at and beyond the not-before limit, and room for it. -/
theorem witness_launch : ((engS 0 [10, 64, 0x1000, 0x2000]).eng 1).stack = ([0x2000, 0x1000, 64, 10] : List Word64).reverse ++ [] ∧ (64#64).toNat < 2 ^ 42
    ∧ (10 + 2 ^ 31 : Nat) ≤ (engS 0 []).gcc + 2 ^ 31 ∧ (engS 0 []).gcc + 2 ^ 31 < 11 + 2 ^ 31
    ∧ (((engS 0 []).copyCmds (engHearth 1)).filter (fun c => c.2.2.pending)).length < 64 ∧ ((engS 0 []).eng 1).rxin = none := by decide
theorem test_cpy : nextIs (exec .cpy (engS 0 [10, 64, 0x1000, 0x2000])) (fun s => (s.eng 1).cmds.map (fun c => (c.2.kind, c.2.args, c.2.t)) == [(.cpy, [0x2000, 0x1000, 64, 10], 10)]) = true := by
  decide

/-! ## Homes -/

/-- A request of hearth 0 for an atom that is in the L2. -/
def home : State := { ccS with atoms := [(0x80, { rts := 3, wts := 2 })], mem := [(0x1000, 1#8), (0x1004, 5#8)] }
def reqS (r : Req) : State := { home with reqs := [{ r with tgt := .dev 0x1000 }] }
def writeR : Req := { kind := .wr, part := 0, pts := 1, bytes := [none, some 9#8] }

/-- HomeRequestsAndRecalls: the request may be performed; its scope, its epoch, the atom. -/
theorem witness_performs : Performs (reqS writeR) 0 .wr { writeR with tgt := .dev 0x1000 } 0x1000 { rts := 3, wts := 2 } :=
  ⟨rfl, rfl, by decide, by decide, by decide, by decide, by decide, by decide, rfl, rfl, rfl, .inr (by decide)⟩
theorem witness_reads : Performs (reqS {}) 0 .rd { tgt := .dev 0x1000 } 0x1000 { rts := 3, wts := 2 } :=
  ⟨rfl, rfl, by decide, by decide, by decide, by decide, by decide, by decide, rfl, rfl, rfl, .inr (by decide)⟩
theorem witness_epoch : ¬ (writeR.src = 0 ∧ writeR.who ≠ .nobody ∧ writeR.epoch ≠ ((reqS writeR).ctx writeR.ctx).epoch) ∧ writeR.scope ≠ 2
    ∧ (reqS { writeR with scope := 2 }).recalls = [] ∧ State.oldEpoch (reqS writeR) writeR = false := by decide
theorem test_wr : nextIs (exec (.wr 0) (reqS writeR)) (fun s => s.byte 0x1000 == 1 && s.byte 0x1001 == 9 && s.reqs.isEmpty
    && (s.atom 0x1000).wts == 4 && s.reps.map (fun (r : Rep) => (r.kind == .wack, r.wts)) == [(true, 4)]) = true := by decide
theorem test_rd : nextIs (exec (.rd 0) (reqS {})) (fun s => s.reps.map (fun (r : Rep) => (r.kind == .dat, r.data.take 5, r.wts)) == [(true, [1, 0, 0, 0, 5], 2)]) = true := by
  decide
theorem test_at : nextIs (exec (.at_ 0) (reqS { kind := .at, op := .add, width := 4, a := 2, part := 0 }))
    (fun s => s.byte 0x1000 == 3 && s.reps.map (fun (r : Rep) => (r.atomic, r.val)) == [(true, 1)]) = true := by decide
theorem test_s_scope_recalls : nextIs (exec (.wr 0) (reqS { writeR with scope := 2 })) (fun s => s.reqs.length == 1 && s.byte 0x1001 == 0
    && s.recalls.map (fun (r : Recall) => (r.key, r.seq, r.missing.length)) == [(0x80, 1, 192)] && s.probes.length == 192) = true := by decide

/-- HomeRepliesAndProbes: a reply outside circuit mode; a recall of an atom that the L1 holds. -/
def repS (r : Rep) : State := { ccL with reps := [{ r with key := State.l1Key ccS 0 (.dev 0x1000), tgt := .dev 0x1000 }] }
def probeS (seq : Nat) : State := { ccL with probes := [{ kind := .recall, h := 0, key := 0x80, seq := seq }] }
theorem witness_reply : ((repS {}).reps[0]?).isSome = true ∧ (repS {}).phaseOpen 0 = false ∧ State.staleRep (repS {}) { key := State.l1Key ccS 0 (.dev 0x1000), tgt := .dev 0x1000 } = false
    ∧ Map.sorted (probeS 1).l1 = true ∧ newer 1 0 = true ∧ newer 0 1 = false := by decide
/-- A reply of each kind that may be taken, with a copy that a renewal finds and one that it does not; one that has not come, one of the host stop, one in
circuit mode; a stale one. -/
def replyOf (k : RepK) : Rep := { kind := k, key := State.l1Key ccS 0 (.dev 0x1000), tgt := .dev 0x1000, who := .thread 0 0 }
theorem witness_replies : (∀ k ∈ [RepK.dat, .rnwok, .wack, .nack, .err], (repS (replyOf k)).reps[0]? = some (replyOf k) ∧ (replyOf k).due ≤ (repS (replyOf k)).gcc
      ∧ (replyOf k).src = 0 ∧ (repS (replyOf k)).phaseOpen (replyOf k).part = false ∧ isWback (replyOf k).who = false)
    ∧ Map.find? (repS (replyOf .rnwok)).l1 (replyOf .rnwok).key = some held ∧ held.valid = 2 ^ 32 - 1 ∧ held.wts = (replyOf .rnwok).wts
    ∧ State.staleRep (repS (replyOf .dat)) (replyOf .dat) = false ∧ (repS (replyOf .dat)).writing (replyOf .dat).key = false
    ∧ ((repS (replyOf .dat)).metBy (replyOf .dat)).wts ≤ (replyOf .dat).wts
    ∧ State.staleRep { repS (replyOf .dat) with l1 := [(State.l1Key ccS 0 (.dev 0x1000), { held with wts := 900, rts := 901 })] } (replyOf .dat) = false
    ∧ { repS (replyOf .dat) with chans := [(320, { part := some 0, cfg := { kind := 3, members := [0], lph := 100 }, phases := [{ t0 := 2 }] })] }.phaseOpen 0 = true
    ∧ (repS (replyOf .dat)).gcc < ({ replyOf .dat with due := 99 } : Rep).due := by decide
/-- A probe of each kind that has arrived, of a copy and of none. -/
def probeOf (k : ProbeK) : Probe := { kind := k, h := 0, key := if k == .zrec then 0x20 else 0x80, seq := 1 }
theorem witness_probes : (∀ k ∈ [ProbeK.recall, .trec, .zrec, .pack], ({ ccL with probes := [probeOf k] } : State).probes[0]? = some (probeOf k) ∧ (probeOf k).due ≤ ccL.gcc)
    ∧ Map.sorted ccL.l1 = true ∧ 0x80 ∈ ccL.copyAtoms held.tgt ∧ newer 1 held.seq = true ∧ 0x80 / 128 ≠ 0x20 ∧ 0x80 / 128 = 1
    ∧ ccL.gcc < ({ probeOf .recall with due := 99 } : Probe).due := by decide
theorem test_pack : nextIs (exec (.pack 0) { ccL with probes := [{ probeOf .pack with h := 5 }], recalls := [{ key := 0x80, home := 3, seq := 1, missing := [5] }] })
    (fun s => s.probes.isEmpty && s.recalls.map (fun (r : Recall) => (r.missing.length, r.done)) == [(0, true)]) = true := by decide
/-- R377, R67: the stamp of a write-back is kept for the releases of its hearth; R384: an uncorrectable one traps the context that stored. -/
theorem test_wback : nextIs (exec (.wack 0) (repS { kind := .wack, who := .wback 0 0x1000, wts := 700 })) (fun s => (s.hearth 0).wbPts == 700 && (s.th.pts == 700) == false) = true
    ∧ nextIs (exec (.err 0) (repS { kind := .err, who := .wback 0 0x1000 })) (fun s => (s.ctx 0).trapped.isSome) = true := by decide
/-- R377: an acknowledged store leaves the copy its own bytes alone under rts = wts. -/
theorem test_l1_keep : (({ l1 := [(0x80, { data := List.replicate 32 0, tgt := .dev 0x1000, rts := 900 })] } : State).l1Keep 0 (.dev 0x1004) [7, 8] 50).l1.map
    (fun e => (e.2.wts, e.2.rts, e.2.valid, e.2.data.take 7)) = [(50, 50, 0x30, [0, 0, 0, 0, 7, 8, 0])] := by decide
theorem test_rnwok : nextIs (exec (.rnwok 0) (repS { kind := .rnwok, rts := 500 })) (fun s => s.l1.map (fun e => e.2.rts) == [500] && s.reps.isEmpty) = true := by decide
theorem test_recall : nextIs (exec (.rec_ 0) (probeS 1)) (fun s => s.l1.isEmpty && s.probes.map (fun (p : Probe) => p.kind == .pack) == [true]) = true := by decide

/-- SlicesAndHost: an atom that may be evicted, the base at and below 2^23 cycles, a module that is up. -/
def upS : State := { home with gcc := 2 ^ 23, boot := { up := true } }
theorem witness_slices : Map.find? upS.atoms 0x80 = some { rts := 3, wts := 2 } ∧ (upS.slice 0).base + 2 ^ 23 ≤ upS.gcc ∧ home.gcc < (home.slice 0).base + 2 ^ 23
    ∧ upS.backed 0x1000 = true ∧ upS.backed 0xC000000000 = false ∧ 0x1000 % 32 + 32 ≤ 32 := by decide
/-- SlicesAndHost: a line of which one atom is being filled, one that a recall awaits, one at rest. -/
def lineS (t : Atom) : State := { upS with atoms := [(0x80, { rts := 3, wts := 2 }), (0x82, t)] }
theorem witness_evict : (natsFrom (0x80 / 4 * 4) 4) = [0x80, 0x81, 0x82, 0x83] ∧ (((lineS { fp := true }).atoms.map (·.2)).all (fun t => !t.fp)) = false
    ∧ (((lineS { rts := 9 }).atoms.map (·.2)).all (fun t => !t.fp)) = true ∧ (lineS {}).recalls = [] := by decide
theorem test_evict_line : nextIs (exec (.l2Evict 0x80) (lineS { rts := 9 })) (fun s => s.atoms.isEmpty && (s.slice (homeOf 0x1000)).floor == 9) = true
    ∧ nextIs (exec (.l2Evict 0x80) (lineS { fp := true })) (fun s => s.atoms.length == 2) = true := by decide
theorem test_evict : nextIs (exec (.l2Evict 0x80) home) (fun s => s.atoms.isEmpty && (s.slice (homeOf 0x1000)).floor == 3) = true := by decide
theorem test_rebase : nextIs (exec (.sliceRebase 0) upS) (fun s => (s.slice 0).base == 2 ^ 22) = true := by decide
theorem test_bar1 : nextIs (exec (.bar1Access 0x1000 (.fetchAdd 4 7) false) upS) (fun s => s.reqs.map (fun (r : Req) => (r.kind == .at, r.scope, r.a)) == [(true, 2, 7)]) = true
    ∧ nextIs (exec (.bar1Access 0x1002 (.fetchAdd 4 7) false) upS) (fun s => s.reqs.isEmpty) = true := by decide

/-- R387: a register or BAR 1 access does not come while a posted write over PCIe is not acknowledged; a relaxed write does. -/
def postedS (i : Instr) : State := { upS with sched := [.event i], reqs := [{ kind := .wr, h := 255, part := 255, tgt := .dev 0x1000, pts := 0, scope := 2, src := 2 }] }
theorem test_host_waits : (postedS (.launchClear 0)).hostHolds (.launchClear 0) = true
    ∧ nextIs (step (postedS (.bar1Access 0x2000 (.read 4) false))) (fun s => s.reqs.length == 1) = true
    ∧ nextIs (step (postedS (.bar1Access 0x2000 (.write [1]) true))) (fun s => s.reqs.length == 2) = true := by decide

/-! ## Translation, faults -/

/-- Tables at 0x10000, 0x11000, 0x12000, 0x13000 that lead va 0x1000 to the frame 0x5000, writable, clean. -/
def pte (a v : Nat) : Map Byte := (bytesOf v 8).zipIdx.filterMap (fun x => if x.1 = 0 then none else some (a + x.2, x.1))
def walkS (leaf : Nat) (acc : Acc) : State := { ccS with
  mem := pte 0x10000 0x11001 ++ pte 0x11000 0x12001 ++ pte 0x12000 0x13001 ++ pte 0x13008 leaf
  atoms := [(0x800, {}), (0x880, {}), (0x900, {}), (0x980, {})]
  bars := [(0, 0x10000)], walks := [{ h := 0, part := 0, va := 0x1000, acc := acc, who := .thread 0 0 }] }

/-- Translation: the three tables point on, the leaf is valid, of 4 KiB, aligned and backed; one that is not valid; one of the wrong size. -/
theorem witness_walk : (walkS 0x5007 .write).walks[0]? = some { h := 0, part := 0, va := 0x1000, acc := .write, who := .thread 0 0 }
    ∧ (walkS 0x5007 .write).num 0x10000 8 = 0x11000 + 1 ∧ (walkS 0x5007 .write).num 0x11000 8 = 0x12000 + 1
    ∧ (walkS 0x5007 .write).num 0x12000 8 = 0x13000 + 1 ∧ (walkS 0x5007 .write).num 0x13008 8 = 0x5007 ∧ 0x5007 % 4 = 3
    ∧ (walkS 0x5007 .write).backed 0x5000 = true ∧ ((walkS 0x5007 .write).atom 0x13008).psn = false ∧ (0x50C7 / 2 ^ 6 % 4 = 3) := by decide
/-- Its atoms are in the L2, no frame table stands, neither the last-level TLB nor the pointer cache knows the page; and one that the former knows. -/
theorem witness_walk_clear : (walkS 0x5007 .write).NoFrames := by unfold State.NoFrames; decide
theorem witness_walk_atoms : (∀ a ∈ [0x800, 0x880, 0x900, 0x980], Map.find? (walkS 0x5007 .write).atoms a = some {}) ∧ ((walkS 0x5007 .write).die 0).ptrs = []
    ∧ tlbFind ((walkS 0x5007 .write).die 0).tlb 0 0x1000 = none ∧ ({} : Atom).gone = false ∧ ({} : Atom).fp = false ∧ ({} : Atom).psn = false ∧ ({} : Atom).ho = 0
    ∧ tlbFind [({ va := 0x1000, tgt := .dev 0x5000, w := true, d := true } : TlbE)] 0 0x1000 = some { va := 0x1000, tgt := .dev 0x5000, w := true, d := true }
    ∧ (walkS 0x5007 .write).atsCount 0 < 65536 := by decide
theorem test_walk_fill : nextIs (exec (.pageWalk 0) { walkS 0x5007 .write with atoms := [] }) (fun s => s.walks.length == 1 && (s.atom 0x10000).fp) = true := by decide
theorem test_walk_leaf : nextIs (exec (.pageWalk 0) (walkS 0x5007 .write)) (fun s => s.byte 0x13008 == 0x37
    && ((s.hearth 0).tlb.head?.map (fun (e : TlbE) => (e.va, e.lg, e.tgt == .dev 0x5000, e.w, e.x, e.d))) == some (0x1000, 12, true, true, false, true)) = true := by
  decide
theorem test_walk_fault : nextIs (exec (.pageWalk 0) (walkS 0x5006 .write)) (fun s => (s.part 0).faults.length == 1 && (s.thread 0).fault == some 0) = true
    ∧ nextIs (exec (.pageWalk 0) (walkS 0x50C7 .write)) (fun s => (s.thread 0).xf.map (fun (f : Xfault) => (f.cause, f.sub)) == some (0x0C, 8)) = true := by decide
theorem witness_ats : (({ ccS with ats := [{ prg := true }, {}] } : State).ats[1]?).map (·.prg) = some false ∧ (ccS.preg 0 0x010).testBit 1 = false
    ∧ (({ ccS with exts := [{ tgt := .host true 0 0x40, kind := 2 }] } : State).exts[0]?).map (·.kind) = some 2 := by decide

/-- Two accesses that one request carries, each of which gets its part of the answer. -/
def hostS (kind : Nat) : State := { ccS with exts := [{ tgt := .host true 0 0x40, kind := kind, len := 4, rq := 5, who := .thread 0 0 }, { tgt := .host true 0 0x44, kind := kind, len := 4, rq := 5, who := .nobody }] }
theorem witness_request : ((hostS 0).exts.filter (fun f => f.rq == 5)).length = 2 ∧ tgtKey (.host true 0 0x40) * 32 + tgtOff (.host true 0 0x40) ≤ tgtKey (.host true 0 0x44) * 32 + tgtOff (.host true 0 0x44)
    ∧ ccS.atsInvs.length < 32 ∧ 32 ≤ ({ ccS with atsInvs := List.replicate 32 {} } : State).atsInvs.length := by decide
theorem test_completion : nextIs (exec (.pcieCompletion 0 true [1, 2, 3, 4, 5, 6, 7, 8]) (hostS 0)) (fun s => s.exts.isEmpty && s.th.xact.got.map (·.data) == some [1, 2, 3, 4]) = true := by
  decide

/-- FaultService: an invalidation that waits, a fault entry and room for it, a token that its thread holds. -/
def invS : State := { ccS with parts := [(0, { invs := [{ kind := 1 }], faults := [{ words := [1, 2, 3, 4], token := 0 }], faultToks := [{ token := 5, who := .thread 0 0, va := 0x9000 }] })], threads := [(0, { thr with fault := some 5 })] }
theorem witness_faults : (invS.part 0).invs = { kind := 1 } :: [] ∧ invS.inFlight 0 { kind := 1 } = false ∧ (invS.part 0).fqHead - invS.preg 0 0x048 < 2 ^ (invS.preg 0 0x038 % 32)
    ∧ ((invS.part 0).faultToks.find? (fun y => y.token == 5)).isSome = true ∧ (invS.part 0).faultToks.find? (fun y => y.token == 6) = none
    ∧ (invS.thread (tkey 0 0)).fault = some 5 := by decide
def invR : State := { invS with hearths := [(0, mapped)], reqs := [{ part := 0, tgt := .dev 0x1000 }] }
theorem witness_invalidation_held : invR.inFlight 0 { kind := 1, dropped := [{ va := 0x1000, tgt := .dev 0x1000 }] } = true ∧ invS.invDirty 0 { kind := 1 } = []
    ∧ { invS with l1 := [(0x80, { held with dirty := 1 })] }.invDirty 0 { kind := 1 } = [0x80] := by decide
theorem test_invalidation_waits : nextIs (exec (.invalidationComplete 0) invR) (fun s => (s.part 0).invs.length == 1 && (s.hearth 0).tlb.isEmpty) = true := by decide
theorem test_invalidation : nextIs (exec (.invalidationComplete 0) invS) (fun s => (s.hearth 0).tlb.isEmpty && (s.part 0).invDone == 1) = true := by decide
theorem test_replay : nextIs (exec (.replay 0 5) invS) (fun s => (s.thread 0).fault == none && (s.ctx 0).trapped == none) = true
    ∧ nextIs (exec (.replayRefuse 0 5) invS) (fun s => (s.ctx 0).trapped.isSome) = true := by decide

/-! ## Engine steps, reductions -/

/-- EngineTurnsAndClocks: the copy engine of hearth 0 has the turn of its queue; a script is being fetched; a command may start. -/
theorem witness_turn : (engS 0x0500 [3]).turnOf 0 1 = some 1 ∧ engTakes 1 0x0500 = some .neg ∧ engTakes 1 0x5000 = none ∧ ccS.turnOf 0 1 = none := by decide
theorem witness_turn_nop : ((engS 0 [3]).eng 1).words = [{ w := 0, pc := 0x2000 }] ∧ engTakes 1 0 = some .engineNop ∧ ((engS 0 [3]).eng 1).stack.length ≤ 8
    ∧ (engS 0 [3]).turnOf 0 1 = some 1 ∧ nextIs (exec (.engineTurn 0 1) (engS 0 [3])) (fun s => (s.eng 1).words.isEmpty && (s.eng 1).stack == [3]) = true
    ∧ nextIs (exec (.engineTurn 0 1) (engS 0x5000 [])) (fun s => (s.ctx 0).trapped.isSome) = true := by decide
theorem test_turn : nextIs (exec (.engineTurn 0 1) (engS 0x0500 [3])) (fun s => (s.eng 1).stack == [BitVec.ofInt 64 (-3)]) = true := by decide
def fetchS : State := { ccS with mem := [(0x1000, 1#8), (0x1001, 2#8)], engs := [(1, { fetch := some (0x1000, 2, 0x2000, 3) })] }
theorem test_fetch : nextIs (exec (.scriptFetchAppend 1) fetchS) (fun s => (s.eng 1).words.map (·.w) == [0x0201]
    && (s.eng 1).fetch == some (0x1002, 1, 0x2000, 3)) = true := by decide
theorem witness_clock : ccS.gcc % 1024 ≠ 0 ∧ ({ gcc := 2048 } : State).gcc % 1024 = 0 ∧ ({ gcc := 2048 } : State).stepWanted 0 = 0 := by decide
theorem witness_clock_phase : { ccS with parts := [(0, { state := 1, hset := 1 })], chans := [(320, { part := some 0, cfg := { kind := 3, members := [0], lph := 100 }, phases := [{ t0 := 2 }] })] }.diePhase 0 = true
    ∧ ccS.diePhase 0 = false ∧ ({} : Hearth).capped = false := by decide
theorem test_resync : nextIs (exec (.gccResync 1) { gcc := 2048, dies := [(1, { gccLag := 3 })] }) (fun s => (s.die 1).gccLag == 0 && (s.die 1).gccFix == 3) = true := by
  decide

/-- EngineElements: an ACCCLR and a ZERO that have started. -/
def runS (k : CmdK) (args : List Nat) (n : Nat := 1) : State := { ccS with focus := { q := 1, t := 1 }, engs := [(1, { cmds := [(0, { kind := k, args := args, started := true, total := n })], items := [.cmd 0], nextCmd := 1 })] }
theorem witness_element : Map.find? ((runS (.accclr 2) []).eng 1).cmds 0 = some { kind := .accclr 2, started := true, total := 1 }
    ∧ ((runS (.accclr 2) []).cmd 1 0).pending = true ∧ (runS (.accclr 2) []).cmdGo 1 = true
    ∧ (runS (.accclr 2) []).aliasCmd 1 ((runS (.accclr 2) []).cmd 1 0) (bankSpan 2 true) = false := by decide
theorem test_accclr : nextIs (exec (.engineCommandComplete 1 0) (runS (.accclr 2) [])) (fun s => (s.group 0).verOf 2 == 1 && (s.eng 1).items.isEmpty) = true := by decide
theorem test_accst_misaligned : nextIs (exec (.commandElementFault 1 0) (runS (.accst 2 0) [8, 0] 1024))
    (fun s => (s.part 0).traps.map (fun (r : TrapRec) => ((r.words.getD 0 0).toNat % 256, r.words.getD 8 0)) == [(0x0D, 8)]) = true := by decide

/-- CausewayAndSluiceSteps: a root with one child whose segment has come; its trailer. -/
def tree : Tree := { inTy := 2, outTy := 2, dest := 0x1000, nodes := [{ kind := 1, parent := 127 }, { kind := 0, parent := 0 }] }
def redS : State := { ccS with parts := [(0, { state := 1, hset := 1, trees := [(0, tree)] })], reducs := [(0, { ports := [(0, { segs := [{ seg := 4, dense := true, vals := [(0, 7)] }, { seg := 6 }] })] })] }
theorem witness_sluice : Map.find? (redS.part 0).trees 0 = some tree ∧ tree.nodes[0]? = some { kind := 1, parent := 127 }
    ∧ nextSeg [{ segs := [{ seg := 4, dense := true, vals := [(0, 7)] }, { seg := 6 }] }] = some 4 ∧ nextSeg [{ trail := some {} }] = none := by decide
theorem witness_sluice_phase : redS.phaseOpen 0 = false ∧ redS.podParent 0 = none
    ∧ { redS with chans := [(320, { part := some 0, cfg := { kind := 3, members := [0], lph := 100 }, phases := [{ t0 := 2 }] })] }.phaseOpen 0 = true := by decide
theorem test_emit : nextIs (exec (.sluiceSegmentEmit 0 0 0) redS) (fun s => (s.reduc 0).out.segs.map (·.seg) == [4]) = true := by decide

/-! ## The scheduler -/

/-- Dispatches: a record at 0x1000 of level 3, an idle context that admits it; a copy record; a refused one. -/
def bytesAt (a : Nat) (l : List Byte) : Map Byte := l.zipIdx.filterMap (fun x => if x.1 = 0 then none else some (a + x.2, x.1))
/-- A record: CODE, FRAME, count, KIND, PRIO. -/
def record (code frame join kind prio : Nat) : List Byte :=
  bytesOf code 8 ++ bytesOf frame 8 ++ bytesOf join 4 ++ [BitVec.ofNat 8 kind, BitVec.ofNat 8 prio] ++ List.replicate 42 0
def tableAtoms : Map Atom := [(0, {}), (1, {}), (0x80, {}), (0x81, {}), (0x800, {}), (0x880, {}), (0x900, {}), (0x980, {})]
def taskS (join kind : Nat) : State := { gcc := 10, atoms := tableAtoms, parts := [(0, { state := 1, hset := 1, aff := [(0, { hset := 1, eset := 1 })], ready := [(3, [{ addr := 0x1000 }])] })], hearths := [(0, mapped)], bars := [(0, 0x10000)], mem := bytesAt 0x1000 (record 0x1000 0x8000 join kind 3) ++ pte 0x10000 0x11001 ++ pte 0x11000 0x12001 ++ pte 0x12000 0x13001 ++ pte 0x13008 0x1007 }
theorem witness_dispatch : (taskS 0 0).partOfHearth 0 = some 0 ∧ ((taskS 0 0).part 0).state = 1 ∧ (taskS 0 0).idleCtx 0 0 0 = true
    ∧ (taskS 0 0).lowerCtx 0 0 { addr := 0x1000 } = false ∧ pickEntry ((taskS 0 0).forCtx 0 0) ((taskS 0 0).levels 0) = some (3, 0, { addr := 0x1000 })
    ∧ (taskS 0 0).dbg 0 0 0xC0 = 0 := by decide
theorem test_dispatch : nextIs (exec (.dispatch 0 0) (taskS 0 0)) (fun s => (s.thread 0).pc == 0x1000 && (s.thread 0).xr 10 == 0x8000 && (s.thread 0).xr 11 == 0x1000
    && (s.ctx 0).st == .running && (s.ring 0 3).isEmpty) = true := by decide
theorem test_dispatch_refused : nextIs (exec (.dispatch 0 0) (taskS 0 3)) (fun s => (s.ctx 0).st == .idle
    && (s.part 0).traps.map (fun (r : TrapRec) => (r.words.getD 0 0).toNat % 256) == [1]) = true := by decide

/-- RecordsComplete: a decrement that leaves 1, one that reaches 0, one that finds 0; a push with room. -/
def decS (join : Nat) : State := { taskS join 0 with parts := [(0, { state := 1, hset := 1, decs := [{ succ := 0x1000 }], pushes := [{ addr := 0x1000, level := 3 }] })] }
theorem witness_decrement : (decS 2).sysXl 0 0x1010 .atomic = .ok (.dev 0x1010) ∧ (decS 2).homeAddr (.dev 0x1010) true = some 0x1010 ∧ ((decS 2).sysRead 0 0x1010 16).1.map (fun b => natOfBytes (b.take 4)) = some 2
    ∧ ((decS 2).part 0).decs = { succ := 0x1000 } :: [] ∧ (decS 2).dreg (0x1010 / (192 * 2 ^ 30)) 0 = 0
    ∧ ((decS 2).ring 0 3).length < 2 ^ (decS 2).preg 0 0x150 := by decide
theorem test_decrement : nextIs (exec (.joinDecrement 0) (decS 2)) (fun s => s.byte 0x1010 == 1 && (s.part 0).pushes.length == 1) = true
    ∧ nextIs (exec (.joinDecrement 0) (decS 1)) (fun s => s.byte 0x1010 == 0 && (s.part 0).pushes.length == 2) = true
    ∧ nextIs (exec (.joinDecrement 0) (decS 0)) (fun s => s.byte 0x1010 == 0 && (s.part 0).traps.length == 1) = true := by decide
theorem test_ready_push : nextIs (exec (.readyPush 0 3) (decS 2)) (fun s => (s.ring 0 3).map (·.addr) == [0x1000] && s.num 48 8 == 0x1000) = true := by decide

/-! ## Pre-emption, traps, kills -/

/-- PreEmptions: a record of priority 200 that no context serves; the running task of priority 3 (every context of hearth 0 runs), PTH 10, one image slot. -/
def busy (c prio : Nat) : Nat × Ctx := (c, { st := .running, task := { prio := prio, addr := 0x4000 + 64 * c } })
def hungryS (pth slots : Nat) : State := { taskS 0 0 with
  parts := [(0, { state := 1, hset := 1, aff := [(0, { hset := 1, eset := 1 })], ready := [(200, [{ addr := 0x1000 }])] })]
  mem := bytesAt 0x1000 (record 0x1000 0x8000 0 0 200) ++ pte 0x10000 0x11001 ++ pte 0x11000 0x12001 ++ pte 0x12000 0x13001 ++ pte 0x13008 0x1007
  ctxs := [busy 0 5, busy 1 3, busy 2 5, busy 3 5], bars := [(0, 0x10000), (0x128, BitVec.ofNat 64 (pth * 2 ^ 16)), (0x170, BitVec.ofNat 64 slots)] }
theorem witness_preempt : ((hungryS 10 1).hungry 0).map (·.prio) = some 200 ∧ ((hungryS 10 1).hungry 0).bind (fun r => (hungryS 10 1).preemptTarget 0 r) = some 1
    ∧ 3 + (hungryS 10 1).preg 0 0x128 / 2 ^ 16 % 256 ≤ 200 ∧ 200 < 3 + (hungryS 198 1).preg 0 0x128 / 2 ^ 16 % 256
    ∧ ((hungryS 10 1).part 0).slots.length < (hungryS 10 1).preg 0 0x170 ∧ (hungryS 10 0).preg 0 0x170 ≤ ((hungryS 10 0).part 0).slots.length := by decide
theorem test_preempt_signal : nextIs (exec (.preemptSignal 0) (hungryS 10 1)) (fun s => (s.part 0).preempt == some 1 && (s.ctx 1).signal.isSome && (s.ctx 1).slot == some 0) = true
    ∧ nextIs (exec (.preemptSignal 0) (hungryS 198 1)) (fun s => (s.part 0).preempt == none) = true
    ∧ nextIs (exec (.preemptSignal 0) (hungryS 10 0)) (fun s => (s.part 0).preempt == none && (s.part 0).supp == 1) = true := by decide
theorem test_preempt_stop : nextIs (exec (.preemptStop 0 0) { ccS with ctxs := [(0, { st := .running, signal := some 10 })] }) (fun s => (s.ctx 0).st == .stopping) = true
    ∧ nextIs (exec (.preemptStop 0 0) { ccS with ctxs := [(0, { st := .running, signal := some 11 })] }) (fun s => (s.ctx 0).st == .running) = true := by decide

/-- Images: a task with something in each of its areas, and its image on the context from which it was taken. -/
def imgS : State := { ccS with
  ctxs := [(0, { st := .running, bq := [entryB], prq := [{ w := 5 }], wrGran := [3], imgGran := [9] })]
  groups := [(0, { grp with blk := none, oq := [(0, [List.replicate 32 1])], wrV := 2, wrAcc := 4 })], hearths := [(0, { mapped with pad := [(12289, 8#8)] })]
  parts := [(0, { state := 1, hset := 1 })], bars := [(0x168, 0x100000)] }
def imgW : State := (imgS.writeImage 0 0 0).keepImage 0 0 0
theorem witness_image_fits : (imgS.ctx 0).bq.length ≤ 256 ∧ (imgS.ctx 0).prq.length ≤ 64 ∧ (imgS.group 0).wrAcc < 2 ^ 128 ∧ (imgS.group 0).wrV < 2 ^ 64
    ∧ imgS.liveThreads 0 0 = [0] ∧ (imgS.thread 0).slot < 4 ∧ imgS.imgAddr 0 0 = 0x100000
    ∧ (∀ q ∈ natsFrom 0 8, (Map.get [] (imgS.group 0).iq q).length ≤ 16 ∧ ∀ e ∈ Map.get [] (imgS.group 0).iq q, e.length = 32)
    ∧ (∀ q ∈ natsFrom 0 4, (Map.get [] (imgS.group 0).oq q).length ≤ 16 ∧ ∀ e ∈ Map.get [] (imgS.group 0).oq q, e.length = 32)
    ∧ (∀ e ∈ natsFrom 0 4, (imgS.eng (qkey 0 0 e)).words.length ≤ 128 ∧ (imgS.eng (qkey 0 0 e)).stack.length ≤ 16) := by decide
/-- A state whose registers are replaced reads its memory and its partitions as before, and its registers as given. -/
theorem with_bars (w s : State) : let v : State := { w with bars := s.bars }
    (∀ a, v.byte a = w.byte a) ∧ v.parts = w.parts ∧ (∀ d, v.dreg d 0 = s.dreg d 0) ∧ (∀ n, v.imgAddr 0 n = s.imgAddr 0 n) :=
  ⟨fun _ => rfl, rfl, fun _ => rfl, fun _ => rfl⟩
theorem witness_image_held : ∃ v : State, v.NoFrames ∧ v.imgAddr 0 0 = imgS.imgAddr 0 0 ∧ v.parts = imgW.parts
    ∧ (∀ j, j < 0x440000 → v.byte (imgS.imgAddr 0 0 + j) = imgW.byte (imgS.imgAddr 0 0 + j)) ∧ imgS.ctxTokens 0 0 = [] ∧ (imgS.ctx 0).trace.on = false
    ∧ (imgS.group 0).fflags < 32 ∧ (imgS.thread 0).sig < 2 ^ 64
    ∧ ((imgS.liveThreads 0 0).filter (fun t => decide (4 ≤ t))).length ≤ (v.poolFree 0).length := by
  have e : (imgS.liveThreads 0 0).filter (fun t => decide (4 ≤ t)) = [] := by decide
  obtain ⟨h1, h2, h3, h4⟩ := with_bars imgW imgS
  refine ⟨_, ?_, h4 0, h2, fun j _ => h1 _, by decide, by decide, by decide, by decide, by rw [e]; exact Nat.zero_le _⟩
  intro d hd
  rw [h3]
  exact (by decide : ∀ d, d < 4 → imgS.dreg d 0 / 2 ^ 12 % 2 ^ 40 = 0) d hd

theorem test_preempt_halted : nextIs (exec (.preemptStop 0 0) { ccS with ctxs := [(0, { st := .running, signal := some 10, halted := true })], parts := [(0, { preempt := some 0 })] })
    (fun s => (s.ctx 0).st == .running && (s.ctx 0).signal == none && (s.part 0).preempt == none) = true := by decide

/-- TrapService: a record and room for it; a wait at, and beyond, the limit; tokens of a breakpoint and of another trap. -/
def trapS : State := { ccS with
  parts := [(0, { traps := [{ words := (natsFrom 1 16).map (BitVec.ofNat 64), token := 7 }], trapToks := [{ token := 7, cause := 0x17, who := .thread 0 0 }, { token := 8, cause := 0x0C }] })], ctxs := [(0, { st := .running, trapped := some 7 })], bars := [(0x198, 0x4000)] }
def waitS (g : Nat) : State := { ccS with gcc := g, bars := [(0x128, 0x1000000)], threads := [(0, { thr with wait := some { kind := .cmpwait, since := 10 } })] }
theorem witness_trap_service : (trapS.part 0).tqHead - trapS.preg 0 0x1B0 < 2 ^ (trapS.preg 0 0x1A0 % 32) ∧ (trapS.part 0).trapToks.find? (fun y => y.token == 9) = none
    ∧ (waitS 65546).gcc - 10 ≤ 65536 * ((waitS 65546).preg 0 0x128 / 2 ^ 24 % 2 ^ 16) ∧ 65536 * ((waitS 65547).preg 0 0x128 / 2 ^ 24 % 2 ^ 16) < (waitS 65547).gcc - 10 := by
  decide
theorem test_trap_record : nextIs (exec (.trapRecordWrite 0) trapS) (fun s => s.num 0x4000 8 == 1 && s.num 0x4078 8 == 16 && (s.part 0).tqHead == 1) = true := by decide
theorem test_watchdog : nextIs (exec (.watchdogExpire (.thread 0 0)) (waitS 65546)) (fun s => (s.ctx 0).trapped.isNone) = true
    ∧ nextIs (exec (.watchdogExpire (.thread 0 0)) (waitS 65547)) (fun s => (s.part 0).traps.map (fun (r : TrapRec) => ((r.words.getD 0 0).toNat % 256, r.words.getD 8 0)) == [(0x18, 1)]) = true := by
  decide
/-- A wait that the instruction does not name counts from the cycle in which it was first tried. -/
def triedS (g : Nat) : State := { ccS with gcc := g, bars := [(0x128, 0x1000000)], threads := [(0, { thr with since := 11 })] }
theorem test_watchdog_tried : ((triedS 65546).threadLate 0 0).isNone = true ∧ ((triedS 65547).threadLate 0 0).isSome = true ∧ (triedS 65547).watchDue = true
    ∧ nextIs (exec (.watchdogExpire (.thread 0 0)) (triedS 65547)) (fun s => (s.ctx 0).trapped.isSome) = true := by
  refine ⟨by decide, by decide, by decide, by rfl⟩
theorem test_resume : nextIs (exec (.tactResume 0 7) trapS) (fun s => (s.thread 0).pc == 0x2004 && (s.ctx 0).trapped == none) = true
    ∧ nextIs (exec (.tactResume 0 8) trapS) (fun s => (s.part 0).trapToks.length == 2) = true := by decide

/-- Kills: a context of a running partition; a kill whose writes are answered. -/
def killS : State := { ccS with parts := [(0, { state := 1, hset := 1, trapToks := [{ token := 7 }], kills := [{ h := 0, c := 1 }] })], ctxs := [(0, { st := .running }), (1, { st := .killing, epoch := 1 })] }
theorem witness_kill : (killS.part 0).hset.testBit 0 = true ∧ ¬ (∃ y ∈ (killS.part 0).kills, y.h = 0 ∧ y.c = 0) ∧ (killS.part 0).kills.find? (fun y => y.h == 0 && y.c == 1) = some { h := 0, c := 1 }
    ∧ killS.writesAnswered 1 = true ∧ (killS.part 0).trapToks.find? (fun y => y.token == 7) = some { token := 7 } := by decide
theorem test_kill : nextIs (exec (.kill 0 0 0) killS) (fun s => (s.ctx 0).st == .killing && (s.ctx 0).epoch == 1 && (s.part 0).kIssued == 1) = true
    ∧ nextIs (exec (.killDone 0 0 1) killS) (fun s => (s.ctx 1).st == .idle && (s.part 0).kDone == 1) = true := by decide

/-- R400, R420: DUMP writes the header (the token, the number of entries) and then does the write's action; ACT 3 drops the write. -/
theorem test_dump : nextIs (exec (.tactDump 0 7 1) killS) (fun s => s.num 0 8 == 7 && s.num 8 8 == 0 && (s.ctx 0).st == .killing && (s.part 0).trapToks.isEmpty) = true
    ∧ nextIs (exec (.tactDump 0 7 3) killS) (fun s => s == killS) = true ∧ nextIs (exec (.tactDump 0 7 0) killS) (fun s => s == killS) = true := by decide
theorem witness_dump : (killS.part 0).trapToks.find? (fun y => y.token == 7) = some { token := 7 } ∧ (killS.pendingStores 0).length < 2 ^ 64 ∧ killS.gcc < 2 ^ 64 := by decide
/-- R367, R380: a write of the hardware takes stamps past the leases of its atoms. -/
theorem test_hw_write : ((killS.modAtom 0x40 (fun t => { t with rts := 900 })).hwNum 0x48 8 5).num 0x48 8 = 5
    ∧ (((killS.modAtom 0x40 (fun t => { t with rts := 900 })).hwNum 0x48 8 5).atom 0x40).wts = 901 := by decide

/-! ## Partitions, frames, debug -/

/-- PartitionControlAndFrames: a stopped partition that may start, one with no hearth; a launch address that is aligned and one that is not. -/
def startS (hs : Nat) : State := { boot := { up := true, record := List.replicate 100 0xFF }, bars := [(0x110, BitVec.ofNat 64 hs)] }
theorem witness_start : ((startS 0).part 0).state = 0 ∧ (startS 0).startErr 0 ≠ none ∧ (killS.part 0).state = 1 := by decide
theorem test_start_refused : nextIs (exec (.partitionStart 0) (startS 0)) (fun s => (s.part 0).state == 0 && (s.part 0).err == 1) = true := by decide
theorem test_stop : nextIs (exec (.partitionStop 0) killS) (fun s => (s.part 0).state == 2) = true
    ∧ nextIs (exec (.partitionDrainDone 0) { killS with parts := [(0, { state := 2, hset := 1 })], ctxs := [] }) (fun s => (s.part 0).state == 0) = true := by decide
theorem test_launch : nextIs (exec (.launchPush 0 0x1000) { taskS 0 0 with boot := { up := true } }) (fun s => (s.part 0).pushes.map (fun w => (w.addr, w.level, w.window)) == [(0x1000, 256, true)]) = true
    ∧ nextIs (exec (.launchPush 0 0x1020) { taskS 0 0 with boot := { up := true } }) (fun s => (s.part 0).lerr == 1 && (s.part 0).pushes.isEmpty) = true := by decide
theorem test_pstep : nextIs (exec (.pstepWrite 0 0 3) (startS 1)) (fun s => s.preg 0 0x210 == 3) = true
    ∧ nextIs (exec (.pstepWrite 0 0 4) (startS 1)) (fun s => s.preg 0 0x210 == 0) = true := by decide

/-- PartitionControlAndFrames: a zeroing command whose granule holds data; an entry of the frame table with A set, one that is to go to the cold queue. -/
def zeroS : State := { ccS with mem := [(0x1000, 5#8), (0x2000, 6#8)], dies := [(0, { zcmds := [(1, 1)] })] }
def sweepS (e wm : Nat) : State := { ccS with mem := pte 0x20000 e, bars := [(0x100000, 0x20000), (0x100008, BitVec.ofNat 64 (wm * 2 ^ 16 + 1)), (0x100010, 0x30000), (0x100018, 4)] }
theorem witness_frames : (zeroS.die 0).zcmds = (1, 1) :: [] ∧ (zeroS.die 0).zProbes = false ∧ ((sweepS 0x0300000000000001 1).dreg 0 8).testBit 0 = true
    ∧ (sweepS 0x0300000000000001 1).num 0x20000 8 = 0x0300000000000001 ∧ ((sweepS 0x0300000000000000 1).die 0).cqHead - (sweepS 0x0300000000000000 1).dreg 0 0x28 < 1 := by decide
/-- An entry whose A is set in this cycle, one that holds an access of the table's own frame, one with a reserved bit. -/
theorem witness_frame_entries : ({ setAt := 11, setA := [0] } : Die).setAt = (sweepS 0 1).gcc + 1 ∧ 0 ∈ ({ setAt := 11, setA := [0] } : Die).setA
    ∧ ((sweepS 0 1).dreg 0 0 / 2 ^ 12 % 2 ^ 40 * 4096 + 8 * (0x20000 / 65536) ≠ 0x20000) ∧ (0x0310000000000001 / 2 ^ 52 % 2 ^ 4 ≠ 0) := by decide
theorem test_sweep_held : nextIs (exec (.sweeperStep 0) { sweepS 0x0300000000000001 1 with dies := [(0, { setAt := 11, setA := [0] })] }) (fun s => s.num 0x20000 8 == 0x0300000000000001 && (s.die 0).hand == 1) = true
    ∧ nextIs (exec (.sweeperStep 0) (sweepS 0x0310000000000001 1)) (fun s => s.num 0x20000 8 == 0x0310000000000001) = true := by decide
theorem test_zero : nextIs (exec (.zeroComplete 0) zeroS) (fun s => s.byte 0x1000 == 0 && s.byte 0x2000 == 6 && (s.die 0).zProbes) = true := by decide
theorem test_sweep : nextIs (exec (.sweeperStep 0) (sweepS 0x0300000000000001 1)) (fun s => s.num 0x20000 8 == 0x0300000000000000 && (s.die 0).hand == 1) = true
    ∧ nextIs (exec (.sweeperStep 0) (sweepS 0x0300000000000000 1)) (fun s => s.num 0x20000 8 == 0x0300000000000008 && s.num 0x30008 8 == 0x0300000000000000 && (s.die 0).cqHead == 1) = true
    ∧ nextIs (exec (.sweeperStep 0) (sweepS 0x0300000000000000 0)) (fun s => s.num 0x20000 8 == 0x0300000000000000 && (s.die 0).cqHead == 0) = true := by decide

/-- DebugAndTrace: a hearth of a partition, a context that is asked to halt, one that is traced with room and packets lost. -/
def dbgS : State := { killS with boot := { up := true, record := List.replicate 100 0xFF }, bars := [(0x110, 1), (4 * 2 ^ 40 + 0x100, 0x4000), (4 * 2 ^ 40 + 0x108, 12)], ctxs := [(0, { st := .running, haltReq := true, trace := { on := true, lost := 3 } })] }
theorem witness_debug : dbgS.dbgPart 0 = some 0 ∧ dbgS.dbgPart 191 = none ∧ (dbgS.ctx 0).haltReq = true ∧ (dbgS.ctx 0).trapped = none
    ∧ dbgS.groupHalts 0 = true ∧ dbgS.threadsHalt 0 0 = true ∧ 8 + 24 * (dbgS.liveBySlot 0 0).length ≤ dbgS.traceRoom 0 0 := by decide
theorem test_halt : nextIs (exec (.haltReached 0 0) dbgS) (fun s => (s.ctx 0).halted) = true
    ∧ nextIs (exec (.debugHalt 0 0) dbgS) (fun s => (s.ctx 0).haltReq) = true := by decide
theorem test_halt_first : nextIs (exec (.debugHalt 0 0) { dbgS with ctxs := [(0, { st := .running, signal := some (10 + dbgS.signalCost 0) })] }) (fun s => (s.ctx 0).haltReq && (s.ctx 0).signal == none) = true := by
  decide
theorem test_trace_loss : nextIs (exec (.traceLossResync 0 0) dbgS) (fun s => s.num 0x4000 8 / 2 ^ 60 == 9 && s.num 0x4000 8 % 2 ^ 46 == 3 && (s.ctx 0).trace.lost == 0) = true := by decide

/-! ## Links, start-up, reliability -/

/-- QueuePairsAndPods: a queue pair in service; pod traffic on; an Ethernet port that pauses. -/
def qpS : State := { ccS with boot := { up := true }, qps := [(3, { inService := true, sent := true, tries := 0, spi := 1 })], bars := [(0x190000, 0x10000)] }
theorem witness_links : (qpS.qp 3).inService = true ∧ (qpS.qp 3).err = false ∧ (qpS.qp 3).word 0 / 2 ^ 10 % 8 ≤ (qpS.qp 3).tries ∧ (qpS.qp 4).inService = false
    ∧ (qpS.bar 0 0x190000).toNat.testBit 16 = true ∧ (ccS.bar 0 0x190000).toNat.testBit 16 = false ∧ (qpS.qp 3).rpi = (qpS.qp 3).rci := by decide
theorem test_pfc : nextIs (exec (.pfcPauseFrame 2 5 true) qpS) (fun s => s.paused == [(2, 5)]) = true := by decide
/-- A completion follows the data of its queue pair in T. -/
theorem test_completion_follows : ({ decS 2 with qps := [(3, { inService := true, pts := 9000 })] } : State).rangeOk 0 0x1010 8 .write = true
    ∧ ((({ decS 2 with qps := [(3, { inService := true, pts := 9000 })] } : State).complete 3 0x1010 5).num 0x1010 8 == 5
      && decide (9000 ≤ ((({ decS 2 with qps := [(3, { inService := true, pts := 9000 })] } : State).complete 3 0x1010 5).qp 3).pts)) = true := by decide
def qpF : State := { qpS with qps := [(3, { inService := true, err := true, failing := true })] }
theorem witness_failing : (qpF.qp 3).failing = true ∧ failReady 3 qpF = .ok () qpF := by
  have e : (qpF.qp 3).comps = [] := by decide
  refine ⟨by decide, ?_⟩
  simp only [failReady, e, List.map_nil, List.filterMap_nil, sysAllReady, Ans.bind]
theorem test_retry : nextIs (exec (.qpRetryTimeout 3) qpS) (fun s => (s.qp 3).err) = true := by decide
theorem test_peer_unmapped : nextIs (exec (.peerRequest { aid := 3, part := 0, win := 0, key := 0, off := 0, op := .read 4 }) qpS) (fun s => Map.get 0 s.refcnt 16 == 1 && s.reqs.isEmpty
    && s.wire.map (fun (w : Sent) => (w.kind == .refusal, w.n)) == [(true, 1)]) = true := by decide

/-- StartUpAndRegisters: a module that is up with a buffer in device memory; a field that takes a value and one that refuses it. -/
def bootS : State := { boot := { up := true }, bars := [(0x180008, 0x4000)] }
theorem witness_registers : bootS.backed 0x4000 = true ∧ bootS.backed (0x4000 + 16383) = true ∧ bootS.boot.up = true ∧ (bootS.part 0).state = 0
    ∧ (0x1000#64).toNat < 2 ^ 52 ∧ (0x1000#64).toNat % 2 ^ 12 = 0 := by decide
theorem test_register_field : nextIs (exec (.registerWrite 0 0x30 0x1000) bootS) (fun s => s.preg 0 0x30 == 0x1000) = true
    ∧ nextIs (exec (.registerWrite 0 0x30 0x1008) bootS) (fun s => s.preg 0 0x30 == 0) = true := by decide
theorem test_mailbox_unknown : nextIs (exec (.registerWrite 0 0x180010 9) bootS) (fun s => s.boot.mbRes == 2 && s.boot.mbDone == 1) = true := by decide
theorem test_power_loss : nextIs (exec (.powerLoss none) bootS) (fun s => !s.powered && !s.boot.up) = true := by decide

/-- ReliabilityPowerHeat: a lasting row and a location of another kind; readings at and below their thresholds. -/
def rasS : State := { bootS with boot := { up := true, lasting := [{ die := 0, src := 1, loc := 7 }], sparing := [{ die := 0, src := 0, loc := 64 }] } }
theorem witness_ras : ({ die := 0, src := 1, loc := 7 } : Retired) ∈ rasS.boot.lasting ∧ ({ die := 0, src := 0, loc := 64 } : Retired) ∈ rasS.boot.sparing
    ∧ rasS.ras.find? (fun y => y.is 0 1 7) = none ∧ 1600 ≤ 1600 ∧ ¬ (1600 ≤ 1599) := by decide
theorem test_corrected : nextIs (exec (.correctedError 0 1 7) rasS) (fun s => s.rasCount 0 1 7 == 1) = true := by decide
theorem test_error_order : nextIs (exec (.correctedError 0 1 7) { rasS with dies := [(0, { errAt := 1, errLast := (1, 8) })] }) (fun s => s.rasCount 0 1 7 == 0) = true
    ∧ nextIs (exec (.correctedError 0 1 8) { rasS with dies := [(0, { errAt := 1, errLast := (1, 8) })] }) (fun s => s.rasCount 0 1 8 == 1) = true := by decide
theorem test_retire_line : nextIs (exec (.retirement 0 1 7) { rasS with atoms := [(0, {}), (5, {})] }) (fun s => s.boot.retired.length == 1 && (s.atoms.map (·.1)) == [5] && s.boot.lasting.isEmpty) = true
    ∧ nextIs (exec (.retirement 0 1 7) { rasS with atoms := [(0, { fp := true })] }) (fun s => s.boot.retired.isEmpty && s.boot.lasting.length == 1) = true := by decide
theorem test_spare_done : nextIs (exec (.rowSpareComplete 0 0 64) rasS) (fun s => s.boot.sparing.isEmpty && s.boot.retired.length == 1) = true := by decide
theorem test_heat : nextIs (exec (.thermalEvent (.hearth 97 1600)) bootS) (fun s => (s.die 2).hot) = true
    ∧ nextIs (exec (.thermalEvent (.hearth 97 1599)) bootS) (fun s => !(s.die 2).hot) = true := by decide
/-- R452: a stack at 95.0 °C is hot until it reads below 90.0 °C; the temperature of a die is that of its hottest sensor. -/
theorem test_heat_stack : nextIs (exec (.thermalEvent (.hbm 9 1520)) bootS) (fun s => s.hotStacks == [9]) = true
    ∧ nextIs (exec (.thermalEvent (.hbm 9 1440)) { bootS with hotStacks := [9] }) (fun s => s.hotStacks == [9]) = true
    ∧ nextIs (exec (.thermalEvent (.hearth 97 1500)) { bootS with dies := [(2, { hot := true, coreTemps := [(96, 1599)] })] }) (fun s => (s.die 2).hot) = true := by decide

/-! ## Witnesses: encodings, the step, numbers -/

/-- LaneEncoding, ControlEncoding: well-formed terms with their words. -/
theorem witness_encodings : (Instr.iadd .none (.v 127) (.iqPop 7) (.imm 63)).wf = true ∧ (encodeLane (.iadd .none (.v 127) (.iqPop 7) (.imm 63))).isSome = true
    ∧ (Instr.rvIntegerInstruction (.opI .addi 31 31 0x800)).wf = true ∧ (encodeCc (.rvIntegerInstruction (.opI .addi 31 31 0x800))).isSome = true := by decide

/-- StepRunsDecoded: a thread whose pc is mapped, with a 32-bit word (ADDI x1, x5, 1) or a 16-bit form (C.LI x1, 1) in memory; the turns of a group and of an engine. -/
def stepS (w : Nat) : State := { ccS with sched := [.cc 0 0], threads := [(0, { thr with pc := 0x1000 })], mem := pte 0x1000 w, hearths := [(0, mapped)] }
theorem witness_step : (stepS 0x00128093).powered = true ∧ (stepS 0x00128093).sched = .cc 0 0 :: [] ∧ (stepS 0x00128093).ticked.threadFree 0 0 = true
    ∧ ((stepS 0x00128093).thread 0).xf = none ∧ (stepS 0x00128093).ticked.bppcHit 0 0 = none ∧ (stepS 0x00128093).reach 0 0 0x1000 .fetch = .ok (.dev 0x1000)
    ∧ (stepS 0x00128093).peekNum 0 (.dev 0x1000) 2 = 0x8093 ∧ 0x8093 % 4 = 3 ∧ (stepS 0x00128093).reach 0 0 0x1002 .fetch = .ok (.dev 0x1002)
    ∧ (stepS 0x4085).peekNum 0 (.dev 0x1000) 2 = 0x4085 ∧ 0x4085 % 4 ≠ 3 := by decide
theorem test_step_word : xOf (step (stepS 0x00128093)) 1 = some 8 ∧ nextIs (step (stepS 0x00128093)) (fun s => (s.thread 0).pc == 0x1004) = true := by decide
theorem test_step_compressed : xOf (step (stepS 0x4085)) 1 = some 1 ∧ nextIs (step (stepS 0x4085)) (fun s => (s.thread 0).pc == 0x1002) = true := by decide
theorem witness_step_turns : laneS.groupIssues 0 0 = true ∧ (engS 0x0500 [3]).turnOf 0 1 = some 1 ∧ ((engS 0x0500 [3]).eng 1).words.length = 1 := by decide
theorem test_step_lane : nextIs (step { laneS with sched := [.lane 0 0], groups := [(0, { grp with blk := grp.blk.map (fun b => { b with body := [0x05000101_00FFFFFD] }) })] })
    (fun s => (s.group 0).pend.length == 1) = true := by decide
theorem test_step_engine : nextIs (step { engS 0x0500 [3] with sched := [.engine 0 1] }) (fun s => (s.eng 1).stack == [BitVec.ofInt 64 (-3)]) = true := by decide
theorem test_no_power : step { powered := false, sched := [.cc 0 0] } = .fault .noPower := by rfl

/-- MemoryStaysCanonical: a state whose memory has the form, and one whose memory has not. -/
theorem witness_memory_canonical : (stepS 0x4085).memOk = true ∧ State.reset.memOk = true ∧ ({ mem := [(5, 0#8)] } : State).memOk = false
    ∧ ({ mem := [(5, 1#8), (4, 1#8)] } : State).memOk = false := by decide

/-- FloatOperations, ElementaryFunctions, TranscendentalFunctions: operands of each kind and of each range. -/
theorem witness_float : f32.unpack true 0x00400000 = .fin false 0 0 ∧ f32.unpack false 0x7FC00000 = .nan ∧ f32.unpack false 0xFF800000 = .inf true
    ∧ (f32.unpack false 0x3FC00000 = .fin false 12582912 (-23)) ∧ 12582912 < 2 ^ 24 ∧ 12582912 ≠ 0 ∧ -149 ≤ (-23 : Int) ∧ (-23 : Int) ≤ 104
    ∧ ((Rm.rne ≠ .rod) ∧ 2 ≤ 8 ∧ (0x00400000 : Nat) < 2 ^ 32) := by decide

/-- Rounding: a value past the largest finite number, one that is tiny, one at a tie. -/
theorem witness_rounding : (f16.finite 0x3C00).isSome = true ∧ f16.finite 0x7C00 = none ∧ f16.signOf 0xBC00 = true ∧ f16.signOf 0x3C00 = false := by decide
theorem test_rounding : rndFin f16 .rne false false 0xFFFF 0 = (0x7C00, flOF ||| flNX) ∧ rndFin f16 .rtz false false 0xFFFF 0 = (0x7BFF, flNX) ∧ rndFin f16 .rtz false false 0x10000 0 = (0x7BFF, flOF ||| flNX)
    ∧ rndFin f16 .rne false true 2049 0 = (0xE800, flNX) ∧ rndFin f16 .rup false false 2049 0 = (0x6801, flNX) := by decide

/-! ## Objects and loading (R147, R150, R316-R322) -/

/-- The script fragment of R150: `lit 100000`, `lit -5`, `lit 0`; a number out of range is refused. -/
theorem test_script_lit : litWords 100000 = some [0x8006, 0xC6A0] ∧ litWords (-5) = some [0x8005, 0x0500] ∧ litWords 0 = some [0x8000]
    ∧ litWords (2 ^ 64) = none ∧ litWords (-2 ^ 63 - 1) = none := by decide
/-- R125: NEED of a block that names v9 is 2, and v127 is not counted; R36: its entry. -/
theorem test_need : needOf [{ rv := [1, 9], wv := [127] }] = some 2 ∧ needOf [] = some 1
    ∧ blockEntry { stages := 2, window := -1 } 2 3 64 = some (bytesOf (64 + 3 * 2 ^ 32 + 2 ^ 45 + 2 ^ 48 + 2 * 2 ^ 49 + 31 * 2 ^ 59) 16) := by decide

/-- A module file of the tables' numbers; the string table holds `wts`, then the contents follow. -/
def moduleFile (secs syms rels : List (List Nat)) (body : List Byte) : List Byte :=
  let o1 : Nat := 64 + 32 * secs.length
  let o2 : Nat := o1 + 24 * syms.length
  let o3 : Nat := o2 + 24 * rels.length
  bytesOf 0x314D4C59 4 ++ bytesOf 1 2 ++ bytesOf secs.length 2 ++ bytesOf syms.length 4 ++ bytesOf rels.length 4 ++ bytesOf 1 4 ++ bytesOf 0 4
    ++ bytesOf (o3 + 8) 8 ++ bytesOf 64 8 ++ bytesOf o1 8 ++ bytesOf o2 8 ++ bytesOf o3 8
    ++ (secs.map (fun l => bytesOf (l.getD 0 0) 8 ++ bytesOf (o3 + 12 + l.getD 1 0) 8 ++ bytesOf (l.getD 2 0) 8 ++ bytesOf (l.getD 3 0) 8)).flatten
    ++ (syms.map (fun l => bytesOf 0 6 ++ bytesOf (l.getD 0 0) 2 ++ bytesOf 0 8 ++ bytesOf (l.getD 1 0) 8)).flatten
    ++ (rels.map (fun l => bytesOf (l.getD 0 0) 8 ++ bytesOf (l.getD 1 0) 4 ++ bytesOf (l.getD 2 0) 4 ++ bytesOf 0 8)).flatten
    ++ bytesOf 0 8 ++ [119#8, 116#8, 115#8, 0#8] ++ body

/-- The module of R326's example without its bss: rodata with the script at 0, data at 0x1000; the symbols zsc, wts and buf. -/
def ptrs : Module := readModule (moduleFile [[3, 0, 20, 0], [4, 20, 10, 0x1000]] [[1, 0], [0xFFFF, 0], [0, 0x4000102000]]
  [[4, 2, 2], [0x1000, 1, 0], [0x1008, 3, 1]] (((scriptImage [0, 0, 0, 0, 0x8100, 0x0800, 0x2900, 0x0900]).getD []) ++ List.replicate 10 0))
def wts : Binding := [([119#8, 116#8, 115#8], 0x105)]
/-- The contents after step 3 (R326). -/
theorem test_relocations : ptrs.rels.map (fun r => relBytes r.kind (ptrs.relX 0x4000100000 wts r).toNat)
    = [([0x8000, 0xC400, 0xC040, 0xE000].map (fun w => bytesOf w 2)).flatten, bytesOf 0x4000100000 8, bytesOf 0x0105 2] := by decide
theorem test_image : ptrs.size = 0x100A ∧ (natsFrom 0 4).map ptrs.byteAt = [8, 0, 0, 0] ∧ ptrs.byteAt 13 = 0x81 ∧ ptrs.byteAt 0x800 = 0 := by decide

/-- A module of one data section of 2 bytes with a TID16, and a partition that maps its page and defines tensor 0x0105. -/
def tiny : List Byte := moduleFile [[4, 0, 2, 0]] [[0xFFFF, 0]] [[0, 3, 0]] [0, 0]
def loadS (leaf flags : Nat) : State := { ccS with
  parts := [(0, { state := 1, hset := 1 })], bars := [(0, 0x10000), (8, 0x400000)], hearths := [(0, { mapped with btab := [(0x2000, 5)] })]
  mem := pte 0x1000 0x1111 ++ pte 0x10000 0x11001 ++ pte 0x11000 0x12001 ++ pte 0x12000 0x13001 ++ pte 0x13008 leaf
    ++ bytesAt 0x404140 (bytesOf 1 4 ++ bytesOf 1 4 ++ bytesOf 1 4 ++ bytesOf 1 4 ++ bytesOf (flags * 2 ^ 56) 8) }
def loads (s : Option State) (f : State → Bool) : Bool := match s with | some t => f t | none => false
/-- R322: the load writes the tensor id and drops the cached table entries; an unbound slot, an undefined tensor, a wrong magic or a
read-only page refuses it. -/
theorem test_load : loads ((loadS 0x1007 0x80).load 0 0x1000 wts tiny) (fun s => s.num 0x1000 2 == 0x105 && (s.hearth 0).btab.isEmpty) = true := by decide
theorem test_load_refused : (loadS 0x1007 0x80).load 0 0x1000 [] tiny = none ∧ (loadS 0x1007 0).load 0 0x1000 wts tiny = none
    ∧ (loadS 0x1007 0x80).load 0 0x1000 wts (0 :: tiny.tail) = none ∧ (loadS 0x1003 0x80).load 0 0x1000 wts tiny = none := by decide

end Sys2Proof.Tests
end

section
/-! PROOFS. Memory: what it reads as after every write. -/

namespace Sys2Proof.Machine

/-! ## What a byte reads as after a write of several bytes (R1, R2, R384) -/

theorem State.setEnabled_byte (s : State) (a x : Nat) (l : List (Option Byte)) : (s.setEnabled a l).byte x =
    if a ≤ x then (match l[x - a]? with | some (some b) => b | _ => s.byte x) else s.byte x := by
  induction l generalizing s a with
  | nil => simp [State.setEnabled]
  | cons o r ih =>
    have step (t : State) : (t.setEnabled (a + 1) r).byte x =
        if a < x then (match r[x - (a + 1)]? with | some (some b) => b | _ => t.byte x) else t.byte x := ih t (a + 1)
    rcases Nat.lt_trichotomy x a with h | rfl | h
    · have hn : ¬ a ≤ x := by omega
      have hn' : ¬ a < x := by omega
      cases o <;> simp [State.setEnabled, step, State.setByte_byte, hn, hn', Nat.ne_of_lt h]
    · cases o <;> simp [State.setEnabled, step, State.setByte_byte]
    · have hx : x - a = (x - (a + 1)) + 1 := by omega
      cases o <;> simp [State.setEnabled, step, State.setByte_byte, hx, h, Nat.le_of_lt h, Nat.ne_of_gt h]

theorem State.setBytes_eq_setEnabled (s : State) (a : Nat) (l : List Byte) : s.setBytes a l = s.setEnabled a (l.map some) := by
  induction l generalizing s a with
  | nil => simp only [State.setBytes, State.setEnabled, List.map_nil]
  | cons b r ih => simp only [State.setBytes, State.setEnabled, List.map_cons, ih]

theorem State.setBytes_byte (s : State) (a x : Nat) (l : List Byte) :
    (s.setBytes a l).byte x = if a ≤ x then l.getD (x - a) (s.byte x) else s.byte x := by
  rw [State.setBytes_eq_setEnabled, State.setEnabled_byte, List.getElem?_map, List.getD_eq_getElem?_getD]
  cases l[x - a]? <;> rfl

theorem State.setEnabled_frame (s : State) (a : Nat) (l : List (Option Byte)) :
    ∃ m z, s.setEnabled a l = { s with mem := m, zeroed := z } := by
  induction l generalizing s a with
  | nil => exact ⟨s.mem, s.zeroed, rfl⟩
  | cons o r ih =>
    cases o with
    | none => exact ih s (a + 1)
    | some b =>
      obtain ⟨m, z, e⟩ := s.setByte_frame a b
      obtain ⟨m', z', e'⟩ := ih (s.setByte a b) (a + 1)
      exact ⟨m', z', by rw [State.setEnabled, e', e]⟩

/-- A granule that carries the zero mark reads 0 (R369). -/
theorem State.byte_of_zeroed (s : State) (x : Nat) (h : s.zeroed.contains (x / 4096) = true) : s.byte x = 0 := if_pos h

/-! ## Little-endian numbers (R2) -/

theorem natsFrom_eq_map_range (a n : Nat) : natsFrom a n = (List.range n).map (a + ·) := by
  induction n generalizing a with
  | zero => rfl
  | succ n ih => simp [natsFrom, ih, List.range_succ_eq_map, Nat.add_assoc, Nat.add_comm 1]

theorem bytesOf_eq_map_range (v n : Nat) : bytesOf v n = (List.range n).map (fun i => BitVec.ofNat 8 (v / 256 ^ i)) := by
  induction n generalizing v with
  | zero => rfl
  | succ n ih => simp [bytesOf, ih, List.range_succ_eq_map, Nat.div_div_eq_div_mul, Nat.pow_succ']

theorem natOfBytes_map_range (g : Nat → Byte) (n : Nat) :
    natOfBytes ((List.range n).map g) = ((List.range n).map (fun i => (g i).toNat * 256 ^ i)).sum := by
  induction n generalizing g with
  | zero => rfl
  | succ n ih =>
    simp only [List.range_succ_eq_map, List.map_cons, List.map_map, natOfBytes, List.sum_cons, ih, ← List.sum_map_mul_left]
    simp [Function.comp_def, Nat.pow_succ', Nat.mul_left_comm]

theorem State.bytes_eq_map_range (s : State) (a n : Nat) : s.bytes a n = (List.range n).map (fun i => s.byte (a + i)) := by
  rw [State.bytes, natsFrom_eq_map_range, List.map_map]; rfl

/-- A number reads as its bytes weigh, the lowest address lightest. -/
theorem State.num_eq_sum (s : State) (a n : Nat) :
    s.num a n = ((List.range n).map (fun i => (s.byte (a + i)).toNat * 256 ^ i)).sum := by
  rw [State.num, State.bytes_eq_map_range, natOfBytes_map_range]

theorem State.setNum_byte (s : State) (a n v x : Nat) : (s.setNum a n v).byte x =
    if a ≤ x ∧ x < a + n then BitVec.ofNat 8 (v / 256 ^ (x - a)) else s.byte x := by
  rw [State.setNum, State.setBytes_byte, bytesOf_eq_map_range, List.getD_eq_getElem?_getD, List.getElem?_map]
  by_cases h : a ≤ x
  · by_cases h' : x < a + n
    · simp [h, h', List.getElem?_range (show x - a < n by omega)]
    · simp [h', List.getElem?_eq_none (l := List.range n) (i := x - a) (by simp; omega)]
  · simp [h]

theorem State.setNum_byte_add (s : State) (a n v i : Nat) (h : i < n) :
    (s.setNum a n v).byte (a + i) = BitVec.ofNat 8 (v / 256 ^ i) := by
  simp [State.setNum_byte, h]

theorem State.setNum_byte_outside (s : State) (a n v x : Nat) (h : x < a ∨ a + n ≤ x) : (s.setNum a n v).byte x = s.byte x := by
  rw [State.setNum_byte, if_neg (by omega)]

theorem State.num_setNum (s : State) (a n v : Nat) : (s.setNum a n v).num a n = v % 256 ^ n := by
  have hb : (s.setNum a n v).bytes a n = bytesOf v n := by
    rw [State.bytes_eq_map_range, bytesOf_eq_map_range]
    exact List.map_congr_left fun i hi => s.setNum_byte_add a n v i (List.mem_range.mp hi)
  rw [State.num, hb, natOfBytes_bytesOf, pow_mul]
  rfl

/-- Settles O57: the memory after reset lists no byte. -/
theorem resetMemory : Obligations.ResetMemory := rfl

/-- Settles O58: each kind of write by what a byte reads as behind it. -/
theorem memoryReads : Obligations.MemoryReads := fun s a n v x b bs es =>
  ⟨s.setByte_byte a x b, s.setBytes_byte a x bs, fun y => s.setEnabled_byte a y es, s.num_eq_sum a n, s.num_setNum a n v,
    fun i => s.setNum_byte_add a n v i, s.setNum_byte_outside a n v x, s.byte_of_zeroed x, s.materialise_byte a x, s.setEnabled_frame a es⟩

end Sys2Proof.Machine
end

section
/-! PROOFS. Memory: every step keeps its canonical form. -/

namespace Sys2Proof.Machine

/-! Each function of the model that yields a state has one lemma here, and the proofs of its callers cite it. `f_mem`: it leaves
memory as it is. `f_wf`: it writes to memory and keeps its canonical form. `f_memOk`: the same of an instruction's outcome. The
cases of a proof are the branches of the function: memory changes only in a branch that makes one of the writes whose
laws stand first under "Operations over the state". -/

/-! ## The memory that an answer carries -/

/-- The memory of the state that a part of an instruction leaves. -/
def Ans.mem {α : Type} : Ans α → List Host.Cell
  | .ok _ s => s.mem
  | .wait s => s.mem
  | .trap _ s => s.mem

/-- The memory of the state that a turn leaves. -/
def Act.mem : Act → List Host.Cell
  | .run _ s => s.mem
  | .done s => s.mem

/-- The canonical form of a state's memory, as the laws of memory state it. The proofs about long writes stay with `memOk`: the
kernel compares the states of two such statements before it looks into their memories. -/
theorem State.wf_of_memOk {s : State} (h : s.memOk) : Memory.wf s.mem := h

/-- If an outcome leaves a state, its memory is in canonical form. -/
def Res.memOk : Res → Bool
  | .next s => Memory.wf s.mem
  | .fault _ => true
  | .refused _ => true

section
variable {α β : Type} {s t : State} {a : α} {i : Trap} {x y : Ans α} {f : α → State → Ans β} {p : Prop} [Decidable p]

@[simp] theorem Ans.mem_ok : (Ans.ok a s).mem = s.mem := rfl
@[simp] theorem Ans.mem_wait : (Ans.wait s : Ans α).mem = s.mem := rfl
@[simp] theorem Ans.mem_trap : (Ans.trap i s : Ans α).mem = s.mem := rfl
@[simp] theorem Act.mem_run {i : Instr} : (Act.run i s).mem = s.mem := rfl
@[simp] theorem Act.mem_done : (Act.done s).mem = s.mem := rfl
@[simp] theorem Res.memOk_next : Res.memOk (.next s) = Memory.wf s.mem := rfl
@[simp] theorem Res.memOk_fault {e : Fault} : Res.memOk (.fault e) = true := rfl
@[simp] theorem Res.memOk_refused {e : Refusal} : Res.memOk (.refused e) = true := rfl

@[simp] theorem State.mem_ite : (if p then s else t).mem = if p then s.mem else t.mem := apply_ite State.mem p s t
@[simp] theorem Ans.mem_ite : (if p then x else y).mem = if p then x.mem else y.mem := apply_ite Ans.mem p x y
@[simp] theorem Act.mem_ite {x y : Act} : (if p then x else y).mem = if p then x.mem else y.mem := apply_ite Act.mem p x y
@[simp] theorem Res.memOk_ite {x y : Res} : Res.memOk (if p then x else y) = if p then Res.memOk x else Res.memOk y :=
  apply_ite Res.memOk p x y
@[simp] theorem Memory.wf_ite {m n : List Host.Cell} : Memory.wf (if p then m else n) = if p then Memory.wf m else Memory.wf n :=
  apply_ite Memory.wf p m n

theorem Ans.wf_of_eq_ok (h : Memory.wf x.mem) (e : x = .ok a s) : Memory.wf s.mem := by subst e; exact h
theorem Ans.wf_of_eq_wait (h : Memory.wf x.mem) (e : x = .wait s) : Memory.wf s.mem := by subst e; exact h
theorem Ans.wf_of_eq_trap (h : Memory.wf x.mem) (e : x = .trap i s) : Memory.wf s.mem := by subst e; exact h

/-! ## Sequencing -/

@[simp] theorem Ans.bind_mem (hf : ∀ a t, (f a t).mem = t.mem) : (x.bind f).mem = x.mem := by
  cases x with
  | ok a t => exact hf a t
  | wait t => rfl
  | trap i t => rfl

@[simp] theorem Ans.bind_wf (hx : Memory.wf x.mem) (hf : ∀ a t, Memory.wf t.mem → Memory.wf (f a t).mem) :
    Memory.wf (x.bind f).mem := by
  cases x with
  | ok a t => exact hf a t hx
  | wait t => exact hx
  | trap i t => exact hx

@[simp] theorem foldl_mem {l : List β} {f : State → β → State} (hf : ∀ t b, (f t b).mem = t.mem) : (l.foldl f s).mem = s.mem := by
  induction l generalizing s with
  | nil => rfl
  | cons b r ih => exact ih.trans (hf s b)

@[simp] theorem foldl_wf {l : List β} {f : State → β → State} (ok : Memory.wf s.mem)
    (hf : ∀ t b, Memory.wf t.mem → Memory.wf (f t b).mem) : Memory.wf (l.foldl f s).mem := by
  induction l generalizing s with
  | nil => exact ok
  | cons b r ih => exact ih (hf s b ok)

theorem foldl_memOk {l : List β} {f : State → β → State} (ok : s.memOk) (hf : ∀ t b, t.memOk → (f t b).memOk) :
    (l.foldl f s).memOk :=
  foldl_wf ok hf

end

@[simp] theorem State.restamp_mem {s : State} {a n} : (s.restamp a n).mem = s.mem := by
  obtain ⟨m, e⟩ := s.restamp_frame a n
  rw [e]

section
variable {s : State} (ok : Memory.wf s.mem)
include ok

/-! ## Operations over the state -/

@[simp] theorem State.setByte_wf {a b} : Memory.wf (s.setByte a b).mem := State.wf_of_memOk (s.setByte_memOk a b ok)
@[simp] theorem State.setEnabled_wf {a l} : Memory.wf (s.setEnabled a l).mem := State.wf_of_memOk (s.setEnabled_memOk a l ok)
@[simp] theorem State.setBytes_wf {a l} : Memory.wf (s.setBytes a l).mem := State.wf_of_memOk (s.setBytes_memOk a l ok)
@[simp] theorem State.touchFrame_wf {a w} : Memory.wf (s.touchFrame a w).mem := State.wf_of_memOk (s.touchFrame_memOk a w ok)
@[simp] theorem State.hwBytes_wf {a l} : Memory.wf (s.hwBytes a l).mem := State.wf_of_memOk (s.hwBytes_memOk a l ok)
@[simp] theorem State.hwNum_wf {a n v} : Memory.wf (s.hwNum a n v).mem := State.wf_of_memOk (s.hwNum_memOk a n v ok)
@[simp] theorem State.hwWords_wf {a l} : Memory.wf (s.hwWords a l).mem := State.wf_of_memOk (s.hwWords_memOk a l ok)

omit ok in
@[simp] theorem State.modAtom_mem {a f} : (s.modAtom a f).mem = s.mem := by
  simp [State.modAtom]

omit ok in
@[simp] theorem State.setBar_mem {n off v} : (s.setBar n off v).mem = s.mem := by
  simp [State.setBar]

theorem State.packet.put_wf {base size hd l} : Memory.wf (State.packet.put base size s hd l).mem := by
  induction l generalizing s hd with
  | nil => exact ok
  | cons w r ih => exact ih (State.hwNum_wf ok)

@[simp] theorem State.packet_wf {h c ty slot payload later} : Memory.wf (s.packet h c ty slot payload later).mem := by
  simp [State.packet, ok, State.packet.put_wf]

@[simp] theorem State.syncPacket_wf {h c t reason} : Memory.wf (s.syncPacket h c t reason).mem := by
  simp [State.syncPacket, ok]

@[simp] theorem State.syncAll_wf {h c reason} : Memory.wf (s.syncAll h c reason).mem := by
  simp +contextual [State.syncAll, ok]

@[simp] theorem State.brPacket_wf {h c t} : Memory.wf (s.brPacket h c t).mem := by
  simp [State.brPacket, ok]

@[simp] theorem State.brAll_wf {h c} : Memory.wf (s.brAll h c).mem := by
  simp +contextual [State.brAll, ok]

@[simp] theorem State.lossResync_wf {h c} : Memory.wf (s.lossResync h c).mem := by
  unfold State.lossResync
  grind [State.brAll_wf, State.modCtx_mem, State.syncAll_wf, State.packet_wf]

@[simp] theorem State.periodic_wf {h c} : Memory.wf (s.periodic h c).mem := by
  simp [State.periodic, ok]

@[simp] theorem State.flushBr_wf {h c t} : Memory.wf (s.flushBr h c t).mem := by
  unfold State.flushBr
  grind [State.brPacket_wf, State.periodic_wf, State.lossResync_wf]

@[simp] theorem State.emit_wf {h c t ty payload later} : Memory.wf (s.emit h c t ty payload later).mem := by
  unfold State.emit
  grind [State.packet_wf, State.periodic_wf, State.flushBr_wf, State.lossResync_wf]

@[simp] theorem State.brBit_wf {h c t taken} : Memory.wf (s.brBit h c t taken).mem := by
  simp [State.brBit, ok]

@[simp] theorem State.emitEnd_wf {h c reason} : Memory.wf (s.emitEnd h c reason).mem := by
  unfold State.emitEnd
  grind [State.flushBr_wf, State.emit_wf, foldl_wf]

omit ok in
@[simp] theorem State.foldThread_mem {p k pc target} : (s.foldThread p k pc target).mem = s.mem := by
  simp [State.foldThread]

omit ok in
@[simp] theorem State.trapNoCtx_mem {p i unit rec} : (s.trapNoCtx p i unit rec).mem = s.mem := by
  simp [State.trapNoCtx]

omit ok in
@[simp] theorem State.dropNewSlot_mem {k} : (s.dropNewSlot k).mem = s.mem := by
  unfold State.dropNewSlot
  dsimp only
  split <;> simp

@[simp] theorem State.takeTrap_wf {h c i} : Memory.wf (s.takeTrap h c i).mem := by
  unfold State.takeTrap
  dsimp only
  (repeat' split) <;> simp [ok]

@[simp] theorem State.trapCc_wf {h t i} : Memory.wf (s.trapCc h t i).mem := by
  simp [State.trapCc, ok]

@[simp] theorem State.trapLane_wf {h g i} : Memory.wf (s.trapLane h g i).mem := by
  simp [State.trapLane, ok]

omit ok in
@[simp] theorem State.parkFault_mem {p h c agent who va acc level reason tid tile} : (s.parkFault p h c agent who va acc level reason tid tile).1.mem = s.mem := by
  simp [State.parkFault]

/-! ## Homes -/

@[simp] theorem State.touchTgt_wf {t} : Memory.wf (s.touchTgt t).mem := by
  unfold State.touchTgt
  split <;> simp [ok]

@[simp] theorem State.homeRead_wf {a P L} : Memory.wf (s.homeRead a P L).2.mem := by
  simp [State.homeRead, ok]

@[simp] theorem State.sendSeen_wf {t} : Memory.wf (s.sendSeen t).mem := by
  unfold State.sendSeen
  split <;> simp [ok]

omit ok in
@[simp] theorem State.countHome_mem {a p} : (s.countHome a p).mem = s.mem := by
  simp [State.countHome]

@[simp] theorem State.seen_wf {p a} : Memory.wf (s.seen p a).mem := by
  simp [State.seen, ok]

omit ok in
/-- What holds after the two reads of a descriptor, and after the read of an entry behind them, holds after `tileRead`. The function is
unfolded as a whole: applied to its arguments it would have the kernel evaluate the descriptor. -/
theorem State.tileRead_induction {P : State → Prop} {p tid set tile} (h : ∀ a, P ((s.seen p a).seen p (a + 32)))
    (h' : ∀ a b, P (((s.seen p a).seen p (a + 32)).seen p b)) : P (s.tileRead p tid set tile) := by
  suffices ∀ f, f = State.tileRead → P (f s p tid set tile) from this _ rfl
  intro f hf
  delta State.tileRead at hf
  rw [hf]
  beta_reduce
  extract_lets a t
  clear_value a
  split
  · exact h' _ _
  · exact h _

@[simp] theorem State.tileRead_wf {p tid set tile} : Memory.wf (s.tileRead p tid set tile).mem :=
  State.tileRead_induction (P := fun t => Memory.wf t.mem) (fun _ => State.seen_wf (State.seen_wf ok))
    fun _ _ => State.seen_wf (State.seen_wf (State.seen_wf ok))

@[simp] theorem State.homeStamp_wf {a P} : Memory.wf (s.homeStamp a P).2.mem := by
  simp [State.homeStamp, ok]

@[simp] theorem State.homeWrite_wf {a P bs} : Memory.wf (s.homeWrite a P bs).2.mem := by
  simp [State.homeWrite, ok]

/-! ## How an agent reaches memory -/

omit ok in
@[simp] theorem State.sendReq_mem {r} : (s.sendReq r).mem = s.mem := by
  simp [State.sendReq]

omit ok in
@[simp] theorem State.send_mem {a r} : (s.send a r).1.mem = s.mem := by
  simp [State.send]

omit ok in
@[simp] theorem State.countExt_mem {p e} : (s.countExt p e).mem = s.mem := by
  unfold State.countExt
  split <;> simp

@[simp] theorem State.sendExt_wf {a e} : Memory.wf (s.sendExt a e).1.mem := by
  unfold State.sendExt
  split <;> simp [ok]

omit ok in
@[simp] theorem State.writeBack_mem {key} : (s.writeBack key).mem = s.mem := by
  unfold State.writeBack
  split <;> simp

omit ok in
@[simp] theorem State.l1Room_mem {key} : (s.l1Room key).mem = s.mem := by
  unfold State.l1Room
  dsimp only
  (repeat' split) <;> simp

omit ok in
@[simp] theorem State.putL1_mem {key e} : (s.putL1 key e).mem = s.mem := by
  simp [State.putL1]

omit ok in
@[simp] theorem State.flushL1_mem {h} : (s.flushL1 h).mem = s.mem := by
  simp [State.flushL1]

omit ok in
@[simp] theorem State.releaseFlush_mem {h} : (s.releaseFlush h).mem = s.mem := by
  simp [State.releaseFlush]

omit ok in
@[simp] theorem State.ask_mem {a t n scope cls} : (s.ask a t n scope cls).1.mem = s.mem := by
  unfold State.ask
  split <;> simp

@[simp] theorem State.accLoad_wf {a t n va scope cls} : Memory.wf (s.accLoad a t n va scope cls).2.1.mem := by
  unfold State.accLoad
  dsimp only
  (repeat' split) <;> simp [ok]

@[simp] theorem State.homeLoad_wf {a t n va pt cls} : Memory.wf (s.homeLoad a t n va pt cls).2.1.mem := by
  unfold State.homeLoad
  dsimp only
  (repeat' split) <;> simp [ok]

omit ok in
@[simp] theorem State.breakResv_mem {unit w} : (s.breakResv unit w).mem = s.mem := by
  simp [State.breakResv]

omit ok in
@[simp] theorem State.l1Yield_mem {key} : (s.l1Yield key).mem = s.mem := by
  unfold State.l1Yield
  split <;> simp

omit ok in
@[simp] theorem State.l1Dirty_mem {a t e bs va cls} : (s.l1Dirty a t e bs va cls).mem = s.mem := by
  simp [State.l1Dirty]

omit ok in
@[simp] theorem State.l1Keep_mem {h t bs w} : (s.l1Keep h t bs w).mem = s.mem := by
  unfold State.l1Keep
  dsimp only
  (repeat' split) <;> simp

omit ok in
@[simp] theorem State.l1Replace_mem {h t n} : (s.l1Replace h t n).mem = s.mem := by
  unfold State.l1Replace
  split <;> simp

@[simp] theorem State.accStore_wf {a t bs va scope cls} : Memory.wf (s.accStore a t bs va scope cls).2.1.mem := by
  unfold State.accStore
  dsimp only
  (repeat' split) <;> simp [ok]

@[simp] theorem State.accAtomic_wf {addf a t op w x y va scope cls} : Memory.wf (s.accAtomic addf a t op w x y va scope cls).2.1.mem := by
  unfold State.accAtomic
  dsimp only
  (repeat' split) <;> simp [ok]

@[simp] theorem State.askLine_wf {h p c t} : Memory.wf (s.askLine h p c t).mem := by
  unfold State.askLine
  dsimp only
  (repeat' split) <;> simp [ok]

omit ok in
@[simp] theorem State.dropLines_mem {h p} : (s.dropLines h p).mem = s.mem := by
  simp [State.dropLines]

omit ok in
@[simp] theorem State.modXact_mem {w f} : (s.modXact w f).mem = s.mem := by
  unfold State.modXact
  split <;> simp

omit ok in
@[simp] theorem State.setXact_mem {w x} : (s.setXact w x).mem = s.mem := by
  simp [State.setXact]

omit ok in
@[simp] theorem State.deliver_mem {w g} : (s.deliver w g).mem = s.mem := by
  unfold State.deliver
  split <;> simp

omit ok in
@[simp] theorem State.askWalk_mem {h p va acc w} : (s.askWalk h p va acc w).mem = s.mem := by
  simp [State.askWalk]

/-! ## Issue order -/

@[simp] theorem State.bodySeen_wf {h p va n} : Memory.wf (s.bodySeen h p va n).mem := by
  unfold State.bodySeen
  grind [State.dropLines_mem, State.touchTgt_wf, foldl_wf]

omit ok in
@[simp] theorem State.fillStore_mem {h f} : (s.fillStore h f).mem = s.mem := by
  simp [State.fillStore]

/-! ## What control instructions share -/

omit ok in
@[simp] theorem State.onTh_mem {f} : (s.onTh f).mem = s.mem := by
  simp [State.onTh]

omit ok in
@[simp] theorem State.onCx_mem {f} : (s.onCx f).mem = s.mem := by
  simp [State.onCx]

omit ok in
@[simp] theorem State.setXr_mem {r v} : (s.setXr r v).mem = s.mem := by
  simp [State.setXr]

omit ok in
@[simp] theorem State.retireTo_mem {pc'} : (s.retireTo pc').mem = s.mem := by
  simp [State.retireTo]

omit ok in
@[simp] theorem State.retire_mem : s.retire.mem = s.mem := by
  simp [State.retire]

omit ok in
@[simp] theorem State.waiting_mem {k} : (s.waiting k).mem = s.mem := by
  simp [State.waiting]

omit ok in
@[simp] theorem finishX_memOk {r a} (ha : Memory.wf a.mem) : (finishX r a).memOk := by
  unfold finishX
  grind [State.retire_mem, State.setXr_mem, State.trapCc_wf, Ans.mem, Res.memOk]

omit ok in
@[simp] theorem finish_memOk {a} (ha : Memory.wf a.mem) : (finish a).memOk := by
  unfold finish
  grind [State.retire_mem, State.trapCc_wf, Ans.mem, Res.memOk]

omit ok in
@[simp] theorem finishAt_memOk {a} (ha : Memory.wf a.mem) : (finishAt a).memOk := by
  unfold finishAt
  grind [State.trapCc_wf, Ans.mem, Res.memOk]

omit ok in
@[simp] theorem stage_mem {n f} (hf : ∀ t, (f t).mem = t.mem) : (stage n f s).mem = s.mem := by
  unfold stage
  split
  · rfl
  · exact (Ans.bind_mem fun _ t => by simp).trans (hf s)

@[simp] theorem stage_wf {n f} (hf : ∀ t, Memory.wf t.mem → Memory.wf (f t).mem) : Memory.wf (stage n f s).mem := by
  unfold stage
  split
  · exact ok
  · exact Ans.bind_wf (hf s ok) fun _ t ht => by simp [ht]

@[simp] theorem stageB_wf {n f} (hf : ∀ (t : State), Memory.wf t.mem → Memory.wf (f t).mem) : Memory.wf (stageB n f s).mem := by
  simp [stageB, ok, hf]

omit ok in
@[simp] theorem State.setCcPort_mem {a} : (s.setCcPort a).mem = s.mem := by
  simp [State.setCcPort]

omit ok in
@[simp] theorem ccXlate_mem {va acc} : (ccXlate va acc s).mem = s.mem := by
  unfold ccXlate
  dsimp only
  (repeat' split) <;> simp

omit ok in
@[simp] theorem ccWatch_mem {va n ld st} : (ccWatch va n ld st s).mem = s.mem := by
  unfold ccWatch
  grind [Ans.mem]

omit ok in
@[simp] theorem ccAlias_mem {va n cls store} : (ccAlias va n cls store s).mem = s.mem := by
  simp [ccAlias]

omit ok in
@[simp] theorem ccFollow_mem {t} : (ccFollow t s).mem = s.mem := by
  simp [ccFollow]

@[simp] theorem ccLoad_wf {va n scope cls nat} : Memory.wf (ccLoad va n scope cls nat s).mem := by
  unfold ccLoad
  grind [Ans.bind_wf, ccXlate_mem, ccWatch_mem, ccAlias_mem, ccFollow_mem, State.accLoad_wf, State.setCcPort_mem, Ans.mem]

@[simp] theorem ccPost_wf {t bs va scope cls} : Memory.wf (ccPost t bs va scope cls s).mem := by
  simp [ccPost, ok]

@[simp] theorem ccStore_wf {va bs scope cls nat} : Memory.wf (ccStore va bs scope cls nat s).mem := by
  unfold ccStore
  grind [Ans.bind_wf, ccXlate_mem, ccWatch_mem, ccAlias_mem, ccFollow_mem, ccPost_wf, State.accStore_wf, State.setCcPort_mem, Ans.mem]

@[simp] theorem ccAtomic_wf {va op w x y scope cls} : Memory.wf (ccAtomic va op w x y scope cls s).mem := by
  unfold ccAtomic
  grind [Ans.bind_wf, ccXlate_mem, ccWatch_mem, ccAlias_mem, ccFollow_mem, State.accAtomic_wf, State.setCcPort_mem, Ans.mem]

omit ok in
@[simp] theorem ccOwed_mem : (ccOwed s).mem = s.mem := by
  unfold ccOwed
  split <;> simp

omit ok in
@[simp] theorem State.acquire_mem {pts} : (s.acquire pts).mem = s.mem := by
  simp [State.acquire]

omit ok in
@[simp] theorem ccRelease_mem {n scope} : (ccRelease n scope s).mem = s.mem := by
  unfold ccRelease
  split
  · rfl
  · refine (Ans.bind_mem fun _ t => ?_).trans (stage_mem fun t => by simp)
    dsimp only
    split
    · rfl
    split
    · rfl
    split
    · refine (Ans.bind_mem fun _ u => stage_mem fun v => rfl).trans ?_
      split <;> simp
    · simp

omit ok in
@[simp] theorem ccSettled_mem {pts} : (ccSettled pts s).mem = s.mem := by
  simp [ccSettled]

omit ok in
@[simp] theorem State.pushBq_mem {body e} : (s.pushBq body e).mem = s.mem := by
  simp [State.pushBq]

omit ok in
@[simp] theorem State.nbWake_mem {ws res} : (s.nbWake ws res).mem = s.mem := by
  unfold State.nbWake
  grind [State.modThread_mem, State.modGroup_mem, foldl_mem]

omit ok in
@[simp] theorem State.nbArrive_mem {k n} : (s.nbArrive k n).mem = s.mem := by
  simp [State.nbArrive]

omit ok in
@[simp] theorem State.swapHalves_mem {k} : (s.swapHalves k).mem = s.mem := by
  simp [State.swapHalves]

omit ok in
@[simp] theorem State.settleChan_mem {n} : (s.settleChan n).mem = s.mem := by
  unfold State.settleChan
  dsimp only
  split <;> simp

omit ok in
@[simp] theorem ccChan_mem {entry kinds} : (ccChan entry kinds s).mem = s.mem := by
  unfold ccChan
  split <;> simp

/-! ## The ratified base -/

@[simp] theorem execRvIntegerInstruction_memOk {op} : (execRvIntegerInstruction op s).memOk := by
  unfold execRvIntegerInstruction
  split <;> simp [ok]

@[simp] theorem execRvBranch_memOk {c rs1 rs2 off} : (execRvBranch c rs1 rs2 off s).memOk := by
  simp [execRvBranch, ok]

@[simp] theorem execJalr_memOk {rd rs1 imm} : (execJalr rd rs1 imm s).memOk := by
  simp [execJalr, ok]

@[simp] theorem execCcLoadStore_memOk {op} : (execCcLoadStore op s).memOk := by
  unfold execCcLoadStore
  grind [finishX_memOk, Ans.bind_wf, ccLoad_wf, finish_memOk, ccStore_wf, Ans.mem]

omit ok in
@[simp] theorem ccRl_mem {rl va acc sc} : (ccRl rl va acc sc s).mem = s.mem := by
  simp [ccRl]

@[simp] theorem scStore_wf {r va w v sc cl} : Memory.wf (scStore r va w v sc cl s).mem := by
  unfold scStore
  grind [Ans.bind_wf, ccXlate_mem, ccWatch_mem, ccAlias_mem, ccFollow_mem, State.accStore_wf, State.setCcPort_mem, State.accAtomic_wf, State.writeBack_mem, State.send_mem, Ans.mem]

omit ok in
@[simp] theorem ccReserve_mem {t scope} : (ccReserve t scope s).mem = s.mem := by
  simp [ccReserve]

@[simp] theorem execLrSc_memOk {op} : (execLrSc op s).memOk := by
  unfold execLrSc
  grind [finishX_memOk, Ans.bind_wf, ccRl_mem, ccXlate_mem, ccLoad_wf, ccReserve_mem, State.onTh_mem, scStore_wf, Ans.mem]

@[simp] theorem execAmo_memOk {op width aq rl rd rs1 rs2} : (execAmo op width aq rl rd rs1 rs2 s).memOk := by
  unfold execAmo
  grind [finish_memOk, Ans.bind_wf, ccRl_mem, ccAtomic_wf, State.setXr_mem, Ans.mem]

@[simp] theorem execFenceI_memOk : (execFenceI s).memOk := by
  simp [execFenceI, ok]

@[simp] theorem execEbreak_memOk : (execEbreak s).memOk := by
  simp [execEbreak, ok]

@[simp] theorem execEcall_memOk : (execEcall s).memOk := by
  simp [execEcall, ok]

@[simp] theorem execCcIllegalInstruction_memOk {custom} : (execCcIllegalInstruction custom s).memOk := by
  simp [execCcIllegalInstruction, ok]

omit ok in
@[simp] theorem ccDrain_mem : (ccDrain s).mem = s.mem := by
  simp [ccDrain]

@[simp] theorem execYbbaseWrite_memOk {op rd src} : (execYbbaseWrite op rd src s).memOk := by
  simp [execYbbaseWrite, ok]

@[simp] theorem execYscopeWrite_memOk {op rd src} : (execYscopeWrite op rd src s).memOk := by
  unfold execYscopeWrite
  grind [finishX_memOk, State.onCx_mem, Ans.mem]

omit ok in
@[simp] theorem State.setXwin_mem {h w} : (s.setXwin h w).mem = s.mem := by
  simp [State.setXwin]

@[simp] theorem execYxwinWrite_memOk {op rd src} : (execYxwinWrite op rd src s).memOk := by
  unfold execYxwinWrite
  grind [State.waiting_mem, finishX_memOk, State.setXwin_mem, State.onTh_mem, State.onCx_mem, Ans.mem, Res.memOk]

/-! ## The control extension -/

@[simp] theorem ccTable_wf {va} : Memory.wf (ccTable va s).mem := by
  unfold ccTable
  dsimp only
  split <;> simp [ok]

@[simp] theorem State.emitBlk_wf {rl idx n mask} : Memory.wf (s.emitBlk rl idx n mask).mem := by
  unfold State.emitBlk
  grind [State.emit_wf, State.periodic_wf, State.flushBr_wf, State.lossResync_wf, State.modCtx_mem]

@[simp] theorem ccBemit_wf {rl rs1 rs2 idx} : Memory.wf (ccBemit rl rs1 rs2 idx s).mem := by
  unfold ccBemit
  grind [Ans.bind_wf, ccTable_wf, State.waiting_mem, State.pushBq_mem, State.modGroup_mem, State.emitBlk_wf, State.onCx_mem, Ans.mem]

@[simp] theorem execKset_memOk {n rs1} : (execKset n rs1 s).memOk := by
  simp [execKset, ok]

@[simp] theorem execBwin_memOk {rs1} : (execBwin rs1 s).memOk := by
  simp [execBwin, ok]

@[simp] theorem execBcancel_memOk {rd rs1} : (execBcancel rd rs1 s).memOk := by
  unfold execBcancel
  grind [finishX_memOk, State.onCx_mem, Ans.mem]

@[simp] theorem execBseq_memOk {rd} : (execBseq rd s).memOk := by
  unfold execBseq
  grind [finishX_memOk, Ans.mem]

omit ok in
theorem State.popPrq_mem {v t} (h : s.popPrq = some (v, t)) : t.mem = s.mem := by
  grind [State.popPrq, State.onCx_mem]

@[simp] theorem execPpop_memOk {rd} : (execPpop rd s).memOk := by
  unfold execPpop
  grind [State.popPrq_mem, finishX_memOk, State.waiting_mem, Ans.mem, Res.memOk]

@[simp] theorem execPpopAq_memOk {rd} : (execPpopAq rd s).memOk := by
  unfold execPpopAq
  grind [State.popPrq_mem, finishX_memOk, State.acquire_mem, State.waiting_mem, Ans.mem, Res.memOk]

@[simp] theorem execPtry_memOk {rd} : (execPtry rd s).memOk := by
  unfold execPtry
  grind [State.popPrq_mem, finishX_memOk, Ans.mem]

@[simp] theorem execPflush_memOk {rd} : (execPflush rd s).memOk := by
  unfold execPflush
  grind [finishX_memOk, State.onCx_mem, Ans.mem]

@[simp] theorem withStack_wf {f} (hf : ∀ (t : State), Memory.wf t.mem → Memory.wf (f t).mem) : Memory.wf (withStack f s).mem := by
  unfold withStack
  grind [State.onCx_mem, Ans.mem]

@[simp] theorem execSplit_memOk {rs1 off} : (execSplit rs1 off s).memOk := by
  unfold execSplit
  grind [State.emit_wf, finish_memOk, State.foldThread_mem, State.retireTo_mem, State.modHearth_mem, State.modThread_mem, State.onCx_mem, State.retire_mem, State.onTh_mem, finishAt_memOk, withStack_wf, Ans.bind_wf, ccStore_wf, Ans.mem, Res.memOk]

omit ok in
theorem State.closeMerge_mem {h c t n} (e : s.closeMerge h c = some (t, n)) : t.mem = s.mem := by
  grind [State.closeMerge, foldl_mem, State.modThread_mem, State.modCtx_mem]

@[simp] theorem execMerge_memOk : (execMerge s).memOk := by
  unfold execMerge
  grind [finish_memOk, State.waiting_mem, State.onCx_mem, finishAt_memOk, withStack_wf, Ans.bind_wf, ccLoad_wf, State.emit_wf, State.retireTo_mem, State.onTh_mem, State.flushBr_wf, State.closeMerge_mem, Ans.mem, Res.memOk]

omit ok in
@[simp] theorem ccSendWords_mem {e ws} : (ccSendWords e ws s).mem = s.mem := by
  simp [ccSendWords]

@[simp] theorem execEsend_memOk {rs1 count eng} : (execEsend rs1 count eng s).memOk := by
  simp [execEsend, ok]

@[simp] theorem execErun_memOk {rs1 eng} : (execErun rs1 eng s).memOk := by
  simp [execErun, ok]

@[simp] theorem execCmprd_memOk {rd n} : (execCmprd rd n s).memOk := by
  unfold execCmprd
  grind [finishX_memOk, State.acquire_mem, Ans.mem]

@[simp] theorem execCmpwait_memOk {rs1 n} : (execCmpwait rs1 n s).memOk := by
  unfold execCmpwait
  grind [finish_memOk, State.onCx_mem, State.acquire_mem, State.waiting_mem, Ans.mem, Res.memOk]

@[simp] theorem execCmpdisc_memOk {rs1 n} : (execCmpdisc rs1 n s).memOk := by
  unfold execCmpdisc
  grind [finish_memOk, State.onCx_mem, Ans.mem, Res.memOk]

@[simp] theorem execPublish_memOk {rd rs1} : (execPublish rd rs1 s).memOk := by
  unfold execPublish
  grind [finishX_memOk, Ans.bind_wf, ccRelease_mem, stage_wf, State.modPart_mem, State.onTh_mem, State.waiting_mem, Ans.mem]

omit ok in
@[simp] theorem State.spawn_mem {p a d who} : (s.spawn p a d who).mem = s.mem := by
  simp [State.spawn]

@[simp] theorem execTspawn_memOk {rs1} : (execTspawn rs1 s).memOk := by
  unfold execTspawn
  grind [finish_memOk, Ans.bind_wf, ccRelease_mem, stageB_wf, ccLoad_wf, stage_wf, ccSettled_mem, State.spawn_mem, State.waiting_mem, Ans.mem]

@[simp] theorem execTjoin_memOk {rs1} : (execTjoin rs1 s).memOk := by
  unfold execTjoin
  grind [finish_memOk, Ans.bind_wf, ccRelease_mem, stage_wf, ccSettled_mem, ccXlate_mem, State.modPart_mem, State.waiting_mem, Ans.mem]

omit ok in
@[simp] theorem State.discard_mem {h c} : (s.discard h c).mem = s.mem := by
  unfold State.discard
  grind [State.modEng_mem, State.modCtx_mem, foldl_mem]

omit ok in
@[simp] theorem State.endTask_mem {h c} : (s.endTask h c).mem = s.mem := by
  unfold State.endTask
  grind [State.setXwin_mem, State.modPart_mem, State.modThread_mem, State.modCtx_mem, foldl_mem]

omit ok in
@[simp] theorem State.completeRecord_mem {p r who} : (s.completeRecord p r who).mem = s.mem := by
  simp [State.completeRecord]

@[simp] theorem State.signature_wf {h c t} : Memory.wf (s.signature h c t).mem := by
  unfold State.signature
  dsimp only
  split
  · split
    · exact ok
    · rw [State.modPart_mem]
      exact State.hwWords_wf ok
  · exact ok

omit ok in
@[simp] theorem ccEnd_mem : (ccEnd s).mem = s.mem := by
  simp [ccEnd]

omit ok in
@[simp] theorem ccAsked_mem : (ccAsked s).mem = s.mem := by
  simp [ccAsked]

@[simp] theorem execTdone_memOk : (execTdone s).memOk := by
  unfold execTdone
  grind [finishAt_memOk, Ans.bind_wf, stage_wf, ccEnd_mem, State.completeRecord_mem, State.discard_mem, ccAsked_mem, State.signature_wf, State.emitEnd_wf, State.endTask_mem, State.retire_mem, Ans.mem]

@[simp] theorem execTyield_memOk {rs1} : (execTyield rs1 s).memOk := by
  unfold execTyield
  grind [finish_memOk, finishAt_memOk, Ans.bind_wf, stage_wf, ccEnd_mem, stageB_wf, ccLoad_wf, State.spawn_mem, State.discard_mem, ccAsked_mem, State.endTask_mem, State.retire_mem, State.emitEnd_wf, Ans.mem]

@[simp] theorem execTself_memOk {rd} : (execTself rd s).memOk := by
  unfold execTself
  grind [finishX_memOk, Ans.mem]

@[simp] theorem execNbinit_memOk {n rs1} : (execNbinit n rs1 s).memOk := by
  unfold execNbinit
  grind [finish_memOk, State.onCx_mem, Ans.mem, Res.memOk]

@[simp] theorem execNbarrive_memOk {n} : (execNbarrive n s).memOk := by
  simp [execNbarrive, ok]

@[simp] theorem execNbwait_memOk {rd n} : (execNbwait rd n s).memOk := by
  unfold execNbwait
  grind [finishX_memOk, State.acquire_mem, State.waiting_mem, State.onCx_mem, Ans.mem, Res.memOk]

@[simp] theorem execNbinval_memOk {n} : (execNbinval n s).memOk := by
  unfold execNbinval
  grind [finish_memOk, State.onTh_mem, State.onCx_mem, Ans.mem, Res.memOk]

omit ok in
@[simp] theorem State.nbInvalidate_mem {k} : (s.nbInvalidate k).mem = s.mem := by
  simp [State.nbInvalidate]

@[simp] theorem execNbstat_memOk {rd n} : (execNbstat rd n s).memOk := by
  unfold execNbstat
  grind [finishX_memOk, Ans.mem, Res.memOk]

@[simp] theorem execCwarrive_memOk {rs1} : (execCwarrive rs1 s).memOk := by
  unfold execCwarrive
  grind [finish_memOk, Ans.bind_wf, ccChan_mem, ccRelease_mem, State.waiting_mem, State.modChan_mem, State.modGroup_mem, Ans.mem]

@[simp] theorem execCwwait_memOk {rs1} : (execCwwait rs1 s).memOk := by
  unfold execCwwait
  grind [finish_memOk, Ans.bind_wf, ccChan_mem, State.acquire_mem, State.waiting_mem, Ans.mem]

omit ok in
@[simp] theorem State.bcastSend_mem {n v} : (s.bcastSend n v).mem = s.mem := by
  unfold State.bcastSend
  grind [State.modCtx_mem, State.modChan_mem, foldl_mem]

@[simp] theorem execCwbcast_memOk {rs1 rs2} : (execCwbcast rs1 rs2 s).memOk := by
  simp [execCwbcast, ok]

@[simp] theorem execCwrecv_memOk {rd rs1} : (execCwrecv rd rs1 s).memOk := by
  unfold execCwrecv
  grind [finishX_memOk, Ans.bind_wf, ccChan_mem, State.onCx_mem, State.waiting_mem, Ans.mem]

omit ok in
@[simp] theorem ccReduce_mem {op rs1 rs2} : (ccReduce op rs1 rs2 s).mem = s.mem := by
  unfold ccReduce
  grind [Ans.bind_mem, ccChan_mem, State.onTh_mem, State.modChan_mem, State.waiting_mem, Ans.mem]

@[simp] theorem execSstep_memOk {rs1} : (execSstep rs1 s).memOk := by
  unfold execSstep
  grind [finish_memOk, Ans.bind_wf, ccChan_mem, stage_wf, State.waiting_mem, ccRelease_mem, State.onTh_mem, State.modChan_mem, State.acquire_mem, Ans.mem]

@[simp] theorem execLdaq_memOk {rd rs1 width cls scope} : (execLdaq rd rs1 width cls scope s).memOk := by
  unfold execLdaq
  grind [finishX_memOk, Ans.bind_wf, ccLoad_wf, Ans.mem]

@[simp] theorem execStrl_memOk {rs1 rs2 width cls scope} : (execStrl rs1 rs2 width cls scope s).memOk := by
  unfold execStrl
  grind [finish_memOk, Ans.bind_wf, ccXlate_mem, ccRelease_mem, ccStore_wf, Ans.mem]

@[simp] theorem execFences_memOk {scope} : (execFences scope s).memOk := by
  simp [execFences, ok]

omit ok in
@[simp] theorem State.blockInval_mem {h} : (s.blockInval h).mem = s.mem := by
  simp [State.blockInval]

@[simp] theorem execIinval_memOk {scope} : (execIinval scope s).memOk := by
  unfold execIinval
  grind [finish_memOk, Ans.bind_wf, ccRelease_mem, State.blockInval_mem, Ans.mem, foldl_wf]

@[simp] theorem execTmark_memOk {imm} : (execTmark imm s).memOk := by
  simp [execTmark, ok]

/-! ## How a lane word executes -/

omit ok in
@[simp] theorem State.onLg_mem {f} : (s.onLg f).mem = s.mem := by
  simp [State.onLg]

omit ok in
@[simp] theorem State.perf_mem {h g ev amount} : (s.perf h g ev amount).mem = s.mem := by
  simp [State.perf]

omit ok in
@[simp] theorem State.bankTick_mem {h b} : (s.bankTick h b).mem = s.mem := by
  unfold State.bankTick
  dsimp only
  split <;> simp

omit ok in
@[simp] theorem State.banksTick_mem {h} : (s.banksTick h).mem = s.mem := by
  unfold State.banksTick
  dsimp only
  split <;> simp

@[simp] theorem State.loopExit_wf {h g b} : Memory.wf (s.loopExit h g b).mem := by
  suffices (s.loopExit h g b).memOk from this
  unfold State.loopExit
  dsimp only
  split
  · exact ok
  split
  · exact ok
  · refine State.memOk_of_mem _ _ (State.modHearth_mem _ _ _) ?_
    exact foldl_memOk (State.hwBytes_memOk _ _ _ ok) fun _ _ h => State.hwNum_memOk _ _ _ _ h

@[simp] theorem State.settleGroup_wf {h g} : Memory.wf (s.settleGroup h g).mem := by
  unfold State.settleGroup
  dsimp only
  split <;> simp [ok]

@[simp] theorem State.wordDone_wf : Memory.wf s.wordDone.mem := by
  simp [State.wordDone, ok]

omit ok in
@[simp] theorem State.stall_mem {ev} : (s.stall ev).mem = s.mem := by
  simp [State.stall]

@[simp] theorem laneTrap_wf {ex i} : Memory.wf (laneTrap ex i s).mem := by
  simp [laneTrap, ok]

@[simp] theorem phaseTrap_wf {ex sub} : Memory.wf (phaseTrap ex sub s).mem := by
  unfold phaseTrap
  split <;> simp [ok]

omit ok in
@[simp] theorem laneFinish_memOk {ex a} (ha : Memory.wf a.mem) : (laneFinish ex a).memOk := by
  unfold laneFinish
  grind [State.perf_mem, State.wordDone_wf, phaseTrap_wf, laneTrap_wf, Ans.mem, Res.memOk]

omit ok in
@[simp] theorem laneStall_mem {ev} : (laneStall ev s).mem = s.mem := by
  simp [laneStall]

@[simp] theorem bplwStop_wf {hit a} (ha : Memory.wf a.mem) : Memory.wf (bplwStop hit s a).mem := by
  unfold bplwStop
  grind [Ans.mem]

@[simp] theorem laneIssueOn_memOk {hit b w srcs r pre body} (hbody : ∀ a b (t : State), Memory.wf t.mem → Memory.wf (body a b t).mem) : (laneIssueOn hit b w srcs r pre body s).memOk := by
  unfold laneIssueOn
  grind [laneFinish_memOk, laneStall_mem, bplwStop_wf, Ans.bind_wf, State.onLg_mem, Ans.mem]

@[simp] theorem laneIssue_memOk {g inPhase always srcs r pre body}
    (hbody : ∀ a b (t : State), Memory.wf t.mem → Memory.wf (body a b t).mem) : (laneIssue g inPhase always srcs r pre body s).memOk := by
  unfold laneIssue
  extract_lets t
  have ht : Memory.wf t.mem := State.settleGroup_wf ok
  clear_value t
  split
  · exact ht
  · simp [ht, laneIssueOn_memOk ht hbody]

omit ok in
@[simp] theorem writeResult_mem {d wide lat w v flags} : (writeResult d wide lat w v flags s).mem = s.mem := by
  unfold writeResult
  split <;> simp

@[simp] theorem laneFixed_memOk {g inPhase d wide srcs r lat f} : (laneFixed g inPhase d wide srcs r lat f s).memOk := by
  simp [laneFixed, ok]

@[simp] theorem laneMap_memOk {g d wide srcs lat f} : (laneMap g d wide srcs lat f s).memOk := by
  simp [laneMap, ok]

@[simp] theorem laneFloat_memOk {g d wide srcs lat f} : (laneFloat g d wide srcs lat f s).memOk := by
  simp [laneFloat, ok]

/-! ## Integer words of the lanes -/

@[simp] theorem alu1_memOk {g d a lat f} : (alu1 g d a lat f s).memOk := by
  simp [alu1, ok]

@[simp] theorem alu2_memOk {g d a b lat f} : (alu2 g d a b lat f s).memOk := by
  simp [alu2, ok]

@[simp] theorem alu3_memOk {g d a b c lat f} : (alu3 g d a b c lat f s).memOk := by
  simp [alu3, ok]

@[simp] theorem execNop_memOk {g} : (execNop g s).memOk := by
  simp +contextual [execNop, ok]

/-! ## Memory words of the lanes -/

omit ok in
@[simp] theorem State.addOp_mem {o} : (s.addOp o).mem = s.mem := by
  simp [State.addOp]

omit ok in
@[simp] theorem laneAccess_mem {w o acc early x} : (laneAccess w o acc early x s).mem = s.mem := by
  unfold laneAccess
  dsimp only
  (repeat' split) <;> simp

@[simp] theorem laneLoad_memOk {g m d base off n sgn} : (laneLoad g m d base off n sgn s).memOk := by
  simp [laneLoad, ok]

@[simp] theorem laneStore_memOk {g m base off c n} : (laneStore g m base off c n s).memOk := by
  simp [laneStore, ok]

@[simp] theorem laneAtomic_memOk {op g m d base off c} : (laneAtomic op g m d base off c s).memOk := by
  simp [laneAtomic, ok]

@[simp] theorem laneCas_memOk {g m v base off n srcC creg} : (laneCas g m v base off n srcC creg s).memOk := by
  simp [laneCas, ok]

omit ok in
@[simp] theorem State.wrotePad_mem {k a n} : (s.wrotePad k a n).mem = s.mem := by
  simp [State.wrotePad]

omit ok in
@[simp] theorem ldsBad_mem {d va bad} : (ldsBad d va bad s).mem = s.mem := by
  unfold ldsBad
  split <;> simp

@[simp] theorem execLds_memOk {g m d base off} : (execLds g m d base off s).memOk := by
  unfold execLds
  grind [laneIssue_memOk, laneStall_mem, State.modHearth_mem, ldsBad_mem, writeResult_mem, Ans.mem]

@[simp] theorem execSts_memOk {g m base off c} : (execSts g m base off c s).memOk := by
  unfold execSts
  grind [laneIssue_memOk, State.onLg_mem, State.wrotePad_mem, State.modHearth_mem, laneStall_mem, Ans.mem, foldl_wf]

omit ok in
@[simp] theorem State.sendStx_mem {q} : (s.sendStx q).mem = s.mem := by
  simp [State.sendStx]

@[simp] theorem execStx_memOk {g m target off c} : (execStx g m target off c s).memOk := by
  simp [execStx, ok]

omit ok in
@[simp] theorem lanePriv_mem {w vs m o acc} : (lanePriv w vs m o acc s).mem = s.mem := by
  simp [lanePriv]

@[simp] theorem execLdp_memOk {g m d base off} : (execLdp g m d base off s).memOk := by
  simp [execLdp, ok]

@[simp] theorem execStp_memOk {g m base off c} : (execStp g m base off c s).memOk := by
  simp [execStp, ok]

omit ok in
@[simp] theorem State.prefDrop_mem : s.prefDrop.mem = s.mem := by
  simp [State.prefDrop]

@[simp] theorem execPref_memOk {g m base off} : (execPref g m base off s).memOk := by
  unfold execPref
  grind [laneIssue_memOk, State.prefDrop_mem, State.ask_mem, laneStall_mem, State.onLg_mem, State.askWalk_mem, Ans.mem, foldl_wf]

omit ok in
@[simp] theorem State.laneAgain_mem {h g o c} : (s.laneAgain h g o c).2.mem = s.mem := by
  unfold State.laneAgain
  dsimp only
  (repeat' split) <;> simp

@[simp] theorem State.laneTry_wf {h g o c} : Memory.wf (s.laneTry h g o c).2.mem := by
  unfold State.laneTry
  grind [State.laneAgain_mem, State.accLoad_wf, State.accStore_wf, State.accAtomic_wf, State.sendStx_mem, State.perf_mem, State.modGroup_mem]

@[simp] theorem State.laneBad_wf {h g o b} : Memory.wf (s.laneBad h g o b).mem := by
  unfold State.laneBad
  dsimp only
  split <;> simp [ok]

@[simp] theorem State.laneProgress_wf {h g id} : Memory.wf (s.laneProgress h g id).mem := by
  unfold State.laneProgress
  grind [State.laneTry_wf, State.modGroup_mem, State.laneBad_wf, foldl_wf]

@[simp] theorem execLaneLoadComplete_memOk {h g id} : (execLaneLoadComplete h g id s).memOk := by
  simp [execLaneLoadComplete, ok]

@[simp] theorem execLaneStoreComplete_memOk {h g id} : (execLaneStoreComplete h g id s).memOk := by
  simp [execLaneStoreComplete, ok]

@[simp] theorem execOqLoadPush_memOk {h g id} : (execOqLoadPush h g id s).memOk := by
  simp [execOqLoadPush, ok]

@[simp] theorem execStxArrive_memOk {n} : (execStxArrive n s).memOk := by
  unfold execStxArrive
  dsimp only
  (repeat' split) <;> simp [ok]

/-! ## Predicates, waiting and exit -/

@[simp] theorem lanePred_memOk {g d srcs f} : (lanePred g d srcs f s).memOk := by
  simp [lanePred, ok]

@[simp] theorem execPret_memOk {g a tag} : (execPret g a tag s).memOk := by
  simp [execPret, ok]

@[simp] theorem execPrqPush_memOk {h g} : (execPrqPush h g s).memOk := by
  unfold execPrqPush
  dsimp only
  split <;> simp [ok]

@[simp] theorem laneCross_memOk {g d srcs f} : (laneCross g d srcs f s).memOk := by
  simp [laneCross, ok]

@[simp] theorem execWait_memOk {g l a c t} : (execWait g l a c t s).memOk := by
  refine laneIssue_memOk ok fun _ _ u hu => ?_
  dsimp only
  split <;> exact hu

@[simp] theorem execFence_memOk {g scope} : (execFence g scope s).memOk := by
  unfold execFence
  grind [laneIssue_memOk, State.onLg_mem, State.releaseFlush_mem, laneStall_mem, Ans.mem]

omit ok in
@[simp] theorem State.nbArrivals_mem {h g} : (s.nbArrivals h g).mem = s.mem := by
  simp [State.nbArrivals]

@[simp] theorem execNbarriveLane_memOk {g n} : (execNbarriveLane g n s).memOk := by
  simp [execNbarriveLane, ok]

@[simp] theorem execNbwaitLane_memOk {g n} : (execNbwaitLane g n s).memOk := by
  unfold execNbwaitLane
  grind [laneIssue_memOk, State.onLg_mem, laneStall_mem, State.modCtx_mem, Ans.mem]

@[simp] theorem execExit_memOk {g} : (execExit g s).memOk := by
  simp [execExit, ok]

@[simp] theorem execTmarkLane_memOk {g mark} : (execTmarkLane g mark s).memOk := by
  unfold execTmarkLane
  grind [laneIssue_memOk, State.modCtx_mem, State.packet_wf, State.periodic_wf, State.flushBr_wf, State.lossResync_wf, Ans.mem]

@[simp] theorem execBrk_memOk {g code} : (execBrk g code s).memOk := by
  simp [execBrk, ok]

@[simp] theorem execUnassignedLaneOpcode_memOk {w} : (execUnassignedLaneOpcode w s).memOk := by
  simp +contextual [execUnassignedLaneOpcode, ok]

/-! ## The matrix array -/

omit ok in
@[simp] theorem issueTile_mem {w bank k lanes} : (issueTile w bank k lanes s).mem = s.mem := by
  simp [issueTile]

omit ok in
@[simp] theorem State.feedStep_mem {h g} : (s.feedStep h g).mem = s.mem := by
  unfold State.feedStep
  dsimp only
  (repeat' split) <;> simp

@[simp] theorem execMma_memOk {g bank fmt idx k ver} : (execMma g bank fmt idx k ver s).memOk := by
  unfold execMma
  grind [laneIssue_memOk, issueTile_mem, laneStall_mem, State.onLg_mem, Ans.mem]

@[simp] theorem execMzero_memOk {g bank} : (execMzero g bank s).memOk := by
  simp [execMzero, ok]

@[simp] theorem execMrd_memOk {g d bank col} : (execMrd g d bank col s).memOk := by
  simp [execMrd, ok]

@[simp] theorem execMwr_memOk {g a bank col} : (execMwr g a bank col s).memOk := by
  simp [execMwr, ok]

@[simp] theorem execMscat_memOk {g rm a bank fmt} : (execMscat g rm a bank fmt s).memOk := by
  unfold execMscat
  grind [laneIssue_memOk, issueTile_mem, Ans.mem]

@[simp] theorem tilePerform_wf {o h g} : Memory.wf (tilePerform o s h g).mem := by
  unfold tilePerform
  split <;> simp [ok]

@[simp] theorem execTileOpStart_memOk {h g} : (execTileOpStart h g s).memOk := by
  unfold execTileOpStart
  dsimp only
  split <;> simp [ok]

@[simp] theorem execTileOpComplete_memOk {h g} : (execTileOpComplete h g s).memOk := by
  unfold execTileOpComplete
  dsimp only
  (repeat' split) <;> simp [ok]

/-! ## Steps of a lane group -/

@[simp] theorem State.bqTrap_wf {h g e} : Memory.wf (s.bqTrap h g e).mem := by
  simp [State.bqTrap, ok]

omit ok in
@[simp] theorem State.popBq_mem {k} : (s.popBq k).mem = s.mem := by
  simp [State.popBq]

@[simp] theorem State.windowStep_wf {h g} : Memory.wf (s.windowStep h g).mem := by
  unfold State.windowStep
  extract_lets k gr x me p
  split
  · exact ok
  next new _ =>
  extract_lets spill a va
  split
  · exact ok
  split
  · simp [ok]
  split
  · exact State.takeTrap_wf ok
  split
  · exact State.takeTrap_wf (by simp [ok])
  split
  · exact State.takeTrap_wf ok
  · split <;> simp [ok]
  next t _ =>
  split
  next r u q e =>
  have hu : Memory.wf u.mem := by
    split at e
    · simpa [e] using State.accStore_wf ok (a := p) (t := t) (bs := gr.chunkAtom a gr.winPart) (va := va) (scope := 0) (cls := 0)
    · simpa [e] using State.accLoad_wf ok (a := p) (t := t) (n := 32) (va := va) (scope := 0) (cls := 0)
  extract_lets v w
  have hv : Memory.wf v.mem := by
    unfold v
    split <;> simp [hu]
  have hw : Memory.wf w.mem := by
    unfold w
    rw [State.modGroup_mem]
    exact hv
  split
  · exact hw
  · exact State.takeTrap_wf hw
  · split <;> split <;> simp [hw]

@[simp] theorem State.takeBlock_wf {h g e} : Memory.wf (s.takeBlock h g e).mem := by
  unfold State.takeBlock
  dsimp only
  (repeat' split) <;> simp [ok]

@[simp] theorem execBlockTake_memOk {h g} : (execBlockTake h g s).memOk := by
  unfold execBlockTake
  dsimp only
  (repeat' split) <;> simp [ok]

@[simp] theorem execKsetApply_memOk {h g} : (execKsetApply h g s).memOk := by
  unfold execKsetApply
  dsimp only
  (repeat' split) <;> simp [ok]

@[simp] theorem execWindowChangeApply_memOk {h g} : (execWindowChangeApply h g s).memOk := by
  unfold execWindowChangeApply
  dsimp only
  (repeat' split) <;> simp [ok]

@[simp] theorem execBqEntryOtherKind_memOk {h g} : (execBqEntryOtherKind h g s).memOk := by
  unfold execBqEntryOtherKind
  dsimp only
  (repeat' split) <;> simp [ok]

omit ok in
@[simp] theorem State.openPass_mem {h g body} : (s.openPass h g body).mem = s.mem := by
  simp [State.openPass]

@[simp] theorem execPassStart_memOk {h g} : (execPassStart h g s).memOk := by
  unfold execPassStart
  dsimp only
  (repeat' split) <;> simp [ok]

@[simp] theorem execFixedLatencyWriteback_memOk {h g} : (execFixedLatencyWriteback h g s).memOk := by
  simp [execFixedLatencyWriteback, ok]

/-! ## Transfer phases and the Causeway -/

omit ok in
@[simp] theorem phaseSend_mem {n q vals} : (phaseSend n q vals s).mem = s.mem := by
  unfold phaseSend
  dsimp only
  split <;> simp

@[simp] theorem execXmit_memOk {g a port} : (execXmit g a port s).memOk := by
  unfold execXmit
  grind [laneIssue_memOk, phaseSend_mem, Ans.mem]

@[simp] theorem State.phaseTrapAt_wf {n t0 h g sub abort} : Memory.wf (s.phaseTrapAt n t0 h g sub abort).mem := by
  simp [State.phaseTrapAt, ok]

@[simp] theorem State.beatArrive_wf {n} : Memory.wf (s.beatArrive n).mem := by
  unfold State.beatArrive
  dsimp only
  (repeat' split) <;> simp [ok]

@[simp] theorem State.settleBeats_wf {h n} : Memory.wf (s.settleBeats h n).mem := by
  induction n generalizing s with
  | zero => exact ok
  | succ f ih =>
    unfold State.settleBeats
    split
    · exact ok
    · exact ih (State.beatArrive_wf ok)

@[simp] theorem phaseSel_memOk {g d port fwd cyc} : (phaseSel g d port fwd cyc s).memOk := by
  unfold phaseSel
  grind [State.settleBeats_wf, laneIssue_memOk, Ans.bind_wf, phaseSend_mem, writeResult_mem, State.modHearth_mem, Ans.mem, Res.memOk]

@[simp] theorem execPhaseBlockStart_memOk {h g} : (execPhaseBlockStart h g s).memOk := by
  unfold execPhaseBlockStart
  grind [State.settleGroup_wf, State.modChan_mem, State.phaseTrapAt_wf, State.takeBlock_wf, State.bodySeen_wf, State.openPass_mem, State.modGroup_mem, Res.memOk]

@[simp] theorem execXmitBeatArrive_memOk {n} : (execXmitBeatArrive n s).memOk := by
  unfold execXmitBeatArrive
  split <;> simp [ok]

omit ok in
@[simp] theorem State.closePhase_mem {n t0} : (s.closePhase n t0).mem = s.mem := by
  unfold State.closePhase
  grind [State.modHearth_mem, State.modChan_mem, foldl_mem]

@[simp] theorem execPhaseEnd_memOk {ch} : (execPhaseEnd ch s).memOk := by
  unfold execPhaseEnd
  grind [State.settleGroup_wf, State.phaseTrapAt_wf, State.closePhase_mem, Res.memOk, foldl_wf]

@[simp] theorem execPhaseAbort_memOk {ch} : (execPhaseAbort ch s).memOk := by
  unfold execPhaseAbort
  grind [State.settleGroup_wf, State.phaseTrapAt_wf, State.closePhase_mem, Res.memOk, foldl_wf]

@[simp] theorem execCausewayRelease_memOk {ch} : (execCausewayRelease ch s).memOk := by
  simp [execCausewayRelease, ok]

@[simp] theorem execReductionRelease_memOk {ch} : (execReductionRelease ch s).memOk := by
  simp [execReductionRelease, ok]

@[simp] theorem execExchangeSwap_memOk {ch} : (execExchangeSwap ch s).memOk := by
  simp [execExchangeSwap, ok]

@[simp] theorem execBroadcastArrive_memOk {ch} : (execBroadcastArrive ch s).memOk := by
  simp +contextual [execBroadcastArrive, ok]

@[simp] theorem execBcastHeldSend_memOk {ch} : (execBcastHeldSend ch s).memOk := by
  unfold execBcastHeldSend
  split <;> simp [ok]

@[simp] theorem execPublishFlip_memOk {p tid} : (execPublishFlip p tid s).memOk := by
  simp [execPublishFlip, ok]

@[simp] theorem execExchangeWindowSettingArrive_memOk {h} : (execExchangeWindowSettingArrive h s).memOk := by
  unfold execExchangeWindowSettingArrive
  dsimp only
  split <;> simp [ok]

/-! ## Engine words -/

@[simp] theorem State.engFail_wf {q pc who i} : Memory.wf (s.engFail q pc who i).mem := by
  unfold State.engFail
  grind [State.takeTrap_wf, State.modEng_mem, State.trapNoCtx_mem]

omit ok in
@[simp] theorem State.passTurn_mem {q} : (s.passTurn q).mem = s.mem := by
  simp [State.passTurn]

@[simp] theorem engWord_memOk {pop push f} (hf : ∀ a b (t : State), Memory.wf t.mem → Memory.wf (f a b t).mem) : (engWord pop push f s).memOk := by
  unfold engWord
  grind [State.engFail_wf, State.modEng_mem, Ans.mem, Res.memOk]

@[simp] theorem State.badWord_wf {q} : Memory.wf (s.badWord q).mem := by
  simp [State.badWord, ok]

@[simp] theorem engArg_memOk {ok m} (hm : ∀ (t : State), Memory.wf t.mem → Res.memOk (m t)) : (engArg ok m s).memOk := by
  unfold engArg
  grind [State.badWord_wf, Res.memOk]

@[simp] theorem engPure_memOk {pop push f} : (engPure pop push f s).memOk := by
  simp +contextual [engPure, ok]

@[simp] theorem engSet_memOk {pop f} (hf : ∀ a (t : State), Memory.wf t.mem → Memory.wf (f a t).mem) : (engSet pop f s).memOk := by
  unfold engSet
  grind [engWord_memOk, Ans.bind_wf, State.modEng_mem, Ans.mem]

@[simp] theorem execShli_memOk {n} : (execShli n s).memOk := by
  simp +contextual [execShli, ok]

@[simp] theorem execMode_memOk {rm ftz} : (execMode rm ftz s).memOk := by
  simp +contextual [execMode, ok]

@[simp] theorem execEfenceWord_memOk : (execEfenceWord s).memOk := by
  simp +contextual [execEfenceWord, ok]

@[simp] theorem State.performPost_wf {q c pos pc} : Memory.wf (s.performPost q c pos pc).mem := by
  simp [State.performPost, ok]

omit ok in
@[simp] theorem State.performArrive_mem {q n} : (s.performArrive q n).mem = s.mem := by
  simp [State.performArrive]

@[simp] theorem State.settleMarkers_wf {q n} : Memory.wf (s.settleMarkers q n).mem := by
  induction n generalizing s with
  | zero => exact ok
  | succ f ih =>
    unfold State.settleMarkers
    dsimp only
    split
    · exact ok
    · split <;> simp [ok, ih]
    · simp [ok, ih]
    · split <;> simp [ok, ih]
    · simp [ok, ih]

@[simp] theorem State.settleQueue_wf {q} : Memory.wf (s.settleQueue q).mem := by
  simp [State.settleQueue, ok]

@[simp] theorem execPost_memOk {n} : (execPost n s).memOk := by
  simp +contextual [execPost, ok]

@[simp] theorem execArrive_memOk {n} : (execArrive n s).memOk := by
  simp +contextual [execArrive, ok]

omit ok in
@[simp] theorem State.addCmd_mem {w c} : (s.addCmd w c).mem = s.mem := by
  simp [State.addCmd]

@[simp] theorem engLaunch_memOk {pop f} (hf : ∀ a (t : State), Memory.wf t.mem → Memory.wf (f a t).mem) : (engLaunch pop f s).memOk := by
  simp +contextual [engLaunch, ok, hf]

@[simp] theorem engCopy_memOk {pop f} (hf : ∀ a (t : State), Memory.wf t.mem → Memory.wf (f a t).mem) : (engCopy pop f s).memOk := by
  refine engLaunch_memOk ok fun l t ht => ?_
  dsimp only
  split
  · exact ht
  split
  · exact ht
  · exact Ans.bind_wf (hf _ _ ht) fun _ _ hu => hu

@[simp] theorem execCpy_memOk : (execCpy s).memOk := by
  simp [execCpy, ok]

@[simp] theorem execZero_memOk : (execZero s).memOk := by
  simp [execZero, ok]

@[simp] theorem execBloadb_memOk : (execBloadb s).memOk := by
  simp [execBloadb, ok]

@[simp] theorem execXch_memOk : (execXch s).memOk := by
  simp [execXch, ok]

@[simp] theorem execSlred_memOk : (execSlred s).memOk := by
  simp [execSlred, ok]

omit ok in
@[simp] theorem tenOp_mem {rpt T c01 c23 raddr} : (tenOp rpt T c01 c23 raddr s).mem = s.mem := by
  simp [tenOp]

@[simp] theorem execSrct_memOk : (execSrct s).memOk := by
  simp +contextual [execSrct, ok]

@[simp] theorem execDstt_memOk : (execDstt s).memOk := by
  simp +contextual [execDstt, ok]

@[simp] theorem execBox_memOk {dM1} : (execBox dM1 s).memOk := by
  simp +contextual [execBox, ok]

omit ok in
@[simp] theorem tenLaunch_mem {k l} : (tenLaunch k l s).mem = s.mem := by
  unfold tenLaunch
  dsimp only
  (repeat' split) <;> simp

@[simp] theorem execTcpy_memOk : (execTcpy s).memOk := by
  simp [execTcpy, ok]

@[simp] theorem execTgath_memOk {wide} : (execTgath wide s).memOk := by
  simp [execTgath, ok]

@[simp] theorem execTscat_memOk {wide} : (execTscat wide s).memOk := by
  simp [execTscat, ok]

@[simp] theorem execAccst_memOk {bank fmt} : (execAccst bank fmt s).memOk := by
  simp +contextual [execAccst, ok]

@[simp] theorem execAccld_memOk {bank fmt} : (execAccld bank fmt s).memOk := by
  simp +contextual [execAccld, ok]

@[simp] theorem execAccclr_memOk {bank} : (execAccclr bank s).memOk := by
  simp +contextual [execAccclr, ok]

@[simp] theorem execVmode_memOk {on} : (execVmode on s).memOk := by
  simp [execVmode, ok]

@[simp] theorem execFibre_memOk : (execFibre s).memOk := by
  unfold execFibre
  grind [engSet_memOk, Ans.mem]

@[simp] theorem execSpgemm_memOk : (execSpgemm s).memOk := by
  simp [execSpgemm, ok]

@[simp] theorem execRvtab_memOk : (execRvtab s).memOk := by
  simp +contextual [execRvtab, ok]

@[simp] theorem execRxin_memOk {bf} : (execRxin bf s).memOk := by
  simp [execRxin, ok]

@[simp] theorem execRprog_memOk : (execRprog s).memOk := by
  simp [execRprog, ok]

@[simp] theorem execRyout_memOk : (execRyout s).memOk := by
  simp [execRyout, ok]

@[simp] theorem execRdlim_memOk {d} : (execRdlim d s).memOk := by
  simp +contextual [execRdlim, ok]

@[simp] theorem execReval_memOk {bM1} : (execReval bM1 s).memOk := by
  unfold execReval
  grind [engLaunch_memOk, Ans.mem]

@[simp] theorem execStrm_memOk {q} : (execStrm q s).memOk := by
  simp [execStrm, ok]

@[simp] theorem execOstrm_memOk {q} : (execOstrm q s).memOk := by
  simp [execOstrm, ok]

@[simp] theorem execStrmt_memOk {q} : (execStrmt q s).memOk := by
  unfold execStrmt
  grind [engLaunch_memOk, Ans.bind_wf, tenOp_mem, Ans.mem]

@[simp] theorem execScloseIq_memOk {n} : (execScloseIq n s).memOk := by
  unfold execScloseIq
  grind [engWord_memOk, State.modGroup_mem, State.modEng_mem, State.settleQueue_wf, Ans.mem]

@[simp] theorem execScloseOq_memOk {n} : (execScloseOq n s).memOk := by
  unfold execScloseOq
  grind [engWord_memOk, State.modEng_mem, State.settleQueue_wf, Ans.mem]

/-! ## Homes and networks -/

omit ok in
@[simp] theorem homeFill_mem {a} : (homeFill a s).mem = s.mem := by
  unfold homeFill
  split <;> simp

omit ok in
@[simp] theorem homeSnoop_mem {a write} : (homeSnoop a write s).mem = s.mem := by
  simp [homeSnoop]

omit ok in
@[simp] theorem State.snoopAll_mem {ls inv} : (s.snoopAll ls inv).mem = s.mem := by
  simp [State.snoopAll]

omit ok in
@[simp] theorem homeRecall_mem {own a} : (homeRecall own a s).mem = s.mem := by
  unfold homeRecall
  split <;> simp

omit ok in
@[simp] theorem State.unrecall_mem {own} : (s.unrecall own).mem = s.mem := by
  simp [State.unrecall]

omit ok in
@[simp] theorem State.admitReq_mem {a} : (s.admitReq a).mem = s.mem := by
  simp [State.admitReq]

omit ok in
@[simp] theorem State.reply_mem {r} : (s.reply r).mem = s.mem := by
  simp [State.reply]

@[simp] theorem performReq_memOk {n k f} (hf : ∀ a b (t : State), Memory.wf t.mem → Memory.wf (f a b t).mem) : (performReq n k f s).memOk := by
  unfold performReq
  grind [State.reply_mem, State.unrecall_mem, Ans.bind_wf, homeFill_mem, State.admitReq_mem, State.countHome_mem, Ans.mem, Res.memOk]

@[simp] theorem homeRd_wf {r a} : Memory.wf (homeRd r a s).mem := by
  simp +contextual [homeRd, ok]

@[simp] theorem execRd_memOk {n} : (execRd n s).memOk := by
  simp +contextual [execRd, ok]

@[simp] theorem execRnw_memOk {n} : (execRnw n s).memOk := by
  simp +contextual [execRnw, ok]

omit ok in
@[simp] theorem homeWriteGate_mem {r a} : (homeWriteGate r a s).mem = s.mem := by
  simp [homeWriteGate]

@[simp] theorem homeWr_wf {r a} : Memory.wf (homeWr r a s).mem := by
  simp +contextual [homeWr, ok]

@[simp] theorem execWr_memOk {n} : (execWr n s).memOk := by
  simp +contextual [execWr, ok]

@[simp] theorem execWb_memOk {n} : (execWb n s).memOk := by
  simp +contextual [execWb, ok]

@[simp] theorem execAt_memOk {n} : (execAt n s).memOk := by
  unfold execAt
  grind [performReq_memOk, Ans.bind_wf, homeWriteGate_mem, State.homeWrite_wf, State.breakResv_mem, Ans.mem]

omit ok in
@[simp] theorem State.wired_mem {x} : (s.wired x).mem = s.mem := by
  simp [State.wired]

@[simp] theorem takeRep_memOk {n ok f} (hf : ∀ a (t : State), Memory.wf t.mem → Memory.wf (f a t).mem) : (takeRep n ok f s).memOk := by
  unfold takeRep
  grind [State.wired_mem, Res.memOk]

omit ok in
@[simp] theorem State.missDone_mem {key} : (s.missDone key).mem = s.mem := by
  simp [State.missDone]

@[simp] theorem execDat_memOk {n} : (execDat n s).memOk := by
  simp [execDat, ok]

@[simp] theorem execRnwok_memOk {n} : (execRnwok n s).memOk := by
  unfold execRnwok
  grind [takeRep_memOk, State.setXact_mem, State.missDone_mem, State.deliver_mem]

@[simp] theorem execWack_memOk {n} : (execWack n s).memOk := by
  unfold execWack
  grind [takeRep_memOk, State.modHearth_mem, State.deliver_mem]

@[simp] theorem execNack_memOk {n} : (execNack n s).memOk := by
  simp [execNack, ok]

@[simp] theorem execErr_memOk {n} : (execErr n s).memOk := by
  unfold execErr
  grind [takeRep_memOk, State.takeTrap_wf, State.deliver_mem]

omit ok in
@[simp] theorem State.dropL1_mem {h p} : (s.dropL1 h p).mem = s.mem := by
  simp [State.dropL1]

@[simp] theorem execRec_memOk {n} : (execRec n s).memOk := by
  unfold execRec
  grind [State.dropL1_mem, State.modHearth_mem, Res.memOk, foldl_wf]

@[simp] theorem execTrec_memOk {n} : (execTrec n s).memOk := by
  unfold execTrec
  split <;> simp [ok]

@[simp] theorem execZrec_memOk {n} : (execZrec n s).memOk := by
  unfold execZrec
  grind [State.dropL1_mem, State.modHearth_mem, Res.memOk, foldl_wf]

omit ok in
@[simp] theorem State.dropAtom_mem {atom} : (s.dropAtom atom).mem = s.mem := by
  unfold State.dropAtom
  split <;> simp

@[simp] theorem execPack_memOk {n} : (execPack n s).memOk := by
  unfold execPack
  split <;> simp [ok]

omit ok in
@[simp] theorem State.failFills_mem {lost f} : (s.failFills lost f).mem = s.mem := by
  simp [State.failFills]

@[simp] theorem execFillReturn_memOk {atom host} : (execFillReturn atom host s).memOk := by
  unfold execFillReturn
  split <;> simp [ok]

@[simp] theorem execL2Evict_memOk {atom} : (execL2Evict atom s).memOk := by
  simp [execL2Evict, ok]

@[simp] theorem execSliceRebase_memOk {home} : (execSliceRebase home s).memOk := by
  simp [execSliceRebase, ok]

@[simp] theorem execBirsp_memOk {line dirty} : (execBirsp line dirty s).memOk := by
  unfold execBirsp
  grind [State.setByte_wf, State.modAtom_mem, Res.memOk, foldl_wf]

@[simp] theorem execHostSnoop_memOk {line} : (execHostSnoop line s).memOk := by
  unfold execHostSnoop
  grind [homeRecall_mem, State.dropAtom_mem, State.breakResv_mem, Ans.mem, Res.memOk, foldl_wf]

omit ok in
@[simp] theorem State.hostReq_mem {src pa op} : (s.hostReq src pa op).mem = s.mem := by
  simp [State.hostReq]

@[simp] theorem execHostCxlMemAccess_memOk {pa op} : (execHostCxlMemAccess pa op s).memOk := by
  simp [execHostCxlMemAccess, ok]

@[simp] theorem execBar1Access_memOk {pa op relaxed} : (execBar1Access pa op relaxed s).memOk := by
  simp [execBar1Access, ok]

@[simp] theorem execFlitError_memOk {die bad reg} : (execFlitError die bad reg s).memOk := by
  unfold execFlitError
  split <;> simp [ok]

/-! ## How an engine command reaches memory -/

omit ok in
@[simp] theorem State.onCmd_mem {q n f} : (s.onCmd q n f).mem = s.mem := by
  simp [State.onCmd]

omit ok in
@[simp] theorem eNoPage_mem {q n f acc} : (eNoPage q n f acc s).mem = s.mem := by
  simp [eNoPage]

omit ok in
@[simp] theorem eXlate.ask_mem {q n va acc} : (eXlate.ask q n va acc s).mem = s.mem := by
  unfold eXlate.ask
  split <;> simp

omit ok in
@[simp] theorem eXlate_mem {q n va acc} : (eXlate q n va acc s).mem = s.mem := by
  grind [eXlate, eXlate.ask_mem, Ans.mem]

omit ok in
@[simp] theorem State.setCmdPort_mem {q n a} : (s.setCmdPort q n a).mem = s.mem := by
  simp [State.setCmdPort]

omit ok in
@[simp] theorem cmdAcs_mem {q n va} {r : Acs × State × Port} : (cmdAcs q n va r).mem = r.2.1.mem := by
  obtain ⟨a, s, p⟩ := r
  cases a <;> simp [cmdAcs]

omit ok in
@[simp] theorem State.noteExt_mem {q n t} : (s.noteExt q n t).mem = s.mem := by
  simp [State.noteExt]

@[simp] theorem eRead_wf {q n va t len cls sp} : Memory.wf (eRead q n va t len cls s sp).mem := by
  unfold eRead
  grind [cmdAcs_mem, State.homeLoad_wf, State.noteExt_mem, Ans.mem]

@[simp] theorem eWrite_wf {q n va t bs cls sp} : Memory.wf (eWrite q n va t bs cls s sp).mem := by
  unfold eWrite
  grind [State.onCmd_mem, cmdAcs_mem, State.accStore_wf, State.noteExt_mem, Ans.mem]

@[simp] theorem eStage_wf {q n k f} (hf : ∀ (t : State), Memory.wf t.mem → Memory.wf (f t).mem) : Memory.wf (eStage q n k f s).mem := by
  simp [eStage, ok, hf]

@[simp] theorem eLoads_wf {q n cls k l} : Memory.wf (eLoads q n cls k l s).mem := by
  induction l generalizing s k with
  | nil => exact ok
  | cons a r ih =>
    refine Ans.bind_wf (eStage_wf ok fun t ht => ?_) fun _ t ht => ih ht
    exact Ans.bind_wf (by simp [ht]) fun _ u hu => eRead_wf hu

@[simp] theorem eStores_wf {q n cls k l bs} : Memory.wf (eStores q n cls k l bs s).mem := by
  induction l generalizing s k bs with
  | nil => exact ok
  | cons a r ih =>
    refine Ans.bind_wf (eStage_wf ok fun t ht => ?_) fun _ t ht => ih ht
    exact Ans.bind_wf (by simp [ht]) fun _ u hu => eWrite_wf hu

omit ok in
@[simp] theorem eAlign_mem {va w} : (eAlign va w s).mem = s.mem := by
  simp [eAlign]

@[simp] theorem eTen_wf {q n d tid c off store} : Memory.wf (eTen q n d tid c off store s).mem := by
  unfold eTen
  grind [State.tileRead_wf, Ans.bind_wf, eNoPage_mem, Ans.mem]

@[simp] theorem eScale_wf {q n k pa f} (hf : ∀ (t : State), Memory.wf t.mem → Memory.wf (f t).mem) : Memory.wf (eScale q n k pa f s).mem := by
  simp +contextual [eScale, ok, hf]

@[simp] theorem eScaleLoad_wf {q n cls k pa} : Memory.wf (eScaleLoad q n cls k pa s).mem := by
  simp +contextual [eScaleLoad, ok]

@[simp] theorem eScaleStore_wf {q n cls k pa bs} : Memory.wf (eScaleStore q n cls k pa bs s).mem := by
  simp +contextual [eScaleStore, ok]

theorem eTenLoad.go_wf {q n cls d tid c k l} : Memory.wf (eTenLoad.go q n cls d tid c k l s).mem := by
  induction l generalizing s k with
  | nil => exact ok
  | cons a r ih =>
    refine Ans.bind_wf (eStage_wf ok fun t ht => ?_) fun _ t ht => ih ht
    exact Ans.bind_wf (eTen_wf ht) fun _ u hu => eRead_wf hu

@[simp] theorem eTenLoad_wf {q n cls k d tid c} : Memory.wf (eTenLoad q n cls k d tid c s).mem :=
  eTenLoad.go_wf ok

theorem eTenStore.go_wf {q n cls d tid c k l bs} : Memory.wf (eTenStore.go q n cls d tid c k l bs s).mem := by
  induction l generalizing s k bs with
  | nil => exact ok
  | cons a r ih =>
    refine Ans.bind_wf (eStage_wf ok fun t ht => ?_) fun _ t ht => ih ht
    exact Ans.bind_wf (eTen_wf ht) fun _ u hu => eWrite_wf hu

@[simp] theorem eTenStore_wf {q n cls k d tid c bs} : Memory.wf (eTenStore q n cls k d tid c bs s).mem :=
  eTenStore.go_wf ok

omit ok in
@[simp] theorem State.leafSend_mem {p tree e st} : (s.leafSend p tree e st).mem = s.mem := by
  unfold State.leafSend
  grind [State.modReduc_mem]

omit ok in
@[simp] theorem State.leafFail_mem {q n} : (s.leafFail q n).mem = s.mem := by
  simp [State.leafFail]

/-! ## Page walks, faults and invalidation -/

@[simp] theorem State.setAD_wf {e leaf acc} : Memory.wf (s.setAD e leaf acc).2.mem := by
  simp [State.setAD, ok]

omit ok in
@[simp] theorem State.tlbPut_mem {h e} : (s.tlbPut h e).mem = s.mem := by
  simp [State.tlbPut]

omit ok in
@[simp] theorem State.llPut_mem {d e} : (s.llPut d e).mem = s.mem := by
  simp [State.llPut]

omit ok in
@[simp] theorem State.atsPut_mem {e} : (s.atsPut e).mem = s.mem := by
  simp [State.atsPut]

omit ok in
@[simp] theorem State.ptrsPut_mem {d p va path} : (s.ptrsPut d p va path).mem = s.mem := by
  simp [State.ptrsPut]

omit ok in
@[simp] theorem homeReady_mem {p a write} : (homeReady p a write s).mem = s.mem := by
  simp [homeReady]

omit ok in
@[simp] theorem homesReady_mem {p write l} : (homesReady p write l s).mem = s.mem := by
  induction l generalizing s with
  | nil => rfl
  | cons a r ih => simp [homesReady, ih]

@[simp] theorem walkRead_wf {p ea} : Memory.wf (walkRead p ea s).mem := by
  simp +contextual [walkRead, ok]

@[simp] theorem walkReads_wf {p l} : Memory.wf (walkReads p l s).mem := by
  induction l generalizing s with
  | nil => exact ok
  | cons a r ih => simp +contextual [walkReads, ih, ok]

omit ok in
@[simp] theorem State.askAts_mem {r} : (s.askAts r).mem = s.mem := by
  simp [State.askAts]

@[simp] theorem sysReady_wf {p va n acc} : Memory.wf (sysReady p va n acc s).mem := by
  unfold sysReady
  refine Ans.bind_wf (by simp [ok]) fun _ t ht => Ans.bind_wf ?_ fun _ u hu => ?_
  · grind [Ans.mem, homeReady_mem]
  · grind [Ans.mem, homesReady_mem, Ans.bind_wf, State.askAts_mem, State.askLine_wf]

@[simp] theorem sysAllReady_wf {p acc l} : Memory.wf (sysAllReady p acc l s).mem := by
  induction l generalizing s with
  | nil => exact ok
  | cons a r ih => simp +contextual [sysAllReady, ih, ok]

omit ok in
@[simp] theorem State.sysDone_mem {p} : (s.sysDone p).mem = s.mem := by
  simp [State.sysDone]

@[simp] theorem sysGate_memOk {p ready f} (hready : ∀ (t : State), Memory.wf t.mem → Memory.wf (ready t).mem) (hf : ∀ (t : State), Memory.wf t.mem → Memory.wf (f t).mem) : (sysGate p ready f s).memOk := by
  unfold sysGate
  grind [State.sysDone_mem, Ans.mem, Res.memOk]

@[simp] theorem State.sysWalked_wf {p va acc} : Memory.wf (s.sysWalked p va acc).mem := by
  unfold State.sysWalked
  grind [State.seen_wf, State.setAD_wf, foldl_wf]

@[simp] theorem State.sysSeen_wf {p va n} : Memory.wf (s.sysSeen p va n).mem := by
  unfold State.sysSeen
  grind [State.seen_wf, State.sysWalked_wf, foldl_wf]

@[simp] theorem State.sysStoreAt_wf {a P bs} : Memory.wf (s.sysStoreAt a P bs).2.mem := by
  simp [State.sysStoreAt, ok]

@[simp] theorem State.sysWrite_wf {a bs} : Memory.wf (s.sysWrite a bs).mem := by
  simp [State.sysWrite, ok]

theorem State.sysPut_wf {p va P bs n t} (h : s.sysPut p va P bs = some (n, t)) : Memory.wf t.mem := by
  grind [State.sysPut, State.sysWalked_wf, State.sysStoreAt_wf, State.countHome_mem, State.sendSeen_wf, State.countExt_mem]

omit ok in
@[simp] theorem State.walkBad_mem {w f} : (s.walkBad w f).mem = s.mem := by
  unfold State.walkBad
  split <;> simp

omit ok in
@[simp] theorem State.walkDone_mem {w} : (s.walkDone w).mem = s.mem := by
  unfold State.walkDone
  split <;> simp

omit ok in
@[simp] theorem State.walkFault_mem {w f} : (s.walkFault w f).mem = s.mem := by
  unfold State.walkFault
  dsimp only
  (repeat' split) <;> simp

@[simp] theorem State.tileSeen_wf {w p tid va store} : Memory.wf (s.tileSeen w p tid va store).mem := by
  unfold State.tileSeen
  split
  · exact State.tileRead_wf ok
  · exact State.tileRead_wf ok

@[simp] theorem State.walkReady_wf {w e} : Memory.wf (s.walkReady w e).mem := by
  unfold State.walkReady
  dsimp only
  (repeat' split) <;> simp [ok]

@[simp] theorem State.walkLeaf_wf {w e} : Memory.wf (s.walkLeaf w e).mem := by
  unfold State.walkLeaf
  split <;> simp [ok]

@[simp] theorem execPageWalk_memOk {n} : (execPageWalk n s).memOk := by
  unfold execPageWalk
  dsimp only
  split
  · exact ok
  next w _ =>
  split
  · simp [ok]
  split
  · simp [ok]
  split
  · next e => exact Ans.wf_of_eq_wait (walkReads_wf ok) e
  · next e => exact Ans.wf_of_eq_trap (walkReads_wf ok) e
  next t e =>
  have ht : Memory.wf t.mem := Ans.wf_of_eq_ok (walkReads_wf ok) e
  split
  · simp [ht]
  · simp [ht]
  have hu {e leaf} : Memory.wf (t.setAD e leaf w.acc).2.mem := State.setAD_wf ht
  have hx {c : Prop} [Decidable c] {leaf} : Memory.wf (if c then .ok () t else homeSnoop leaf true t : Ans Unit).mem := by
    simp [ht]
  split
  · rw [Res.memOk_next]
    exact State.walkLeaf_wf (by simp [hu])
  · next e => exact Ans.wf_of_eq_wait hx e
  · next e => exact Ans.wf_of_eq_trap hx e

omit ok in
@[simp] theorem State.prgSend_mem : s.prgSend.mem = s.mem := by
  unfold State.prgSend
  grind [foldl_mem]

@[simp] theorem execAtsCompletion_memOk {n read write frame size} : (execAtsCompletion n read write frame size s).memOk := by
  unfold execAtsCompletion
  split <;> simp [ok]

omit ok in
@[simp] theorem State.atsSettle_mem : s.atsSettle.mem = s.mem := by
  simp [State.atsSettle]

@[simp] theorem execAtsInvalidate_memOk {pasid addr len} : (execAtsInvalidate pasid addr len s).memOk := by
  simp [execAtsInvalidate, ok]

@[simp] theorem execPrgSuccess_memOk {n} : (execPrgSuccess n s).memOk := by
  simp [execPrgSuccess, ok]

@[simp] theorem execPrgInvalidRequest_memOk {n} : (execPrgInvalidRequest n s).memOk := by
  simp [execPrgInvalidRequest, ok]

@[simp] theorem execPrgResponseFailure_memOk {n} : (execPrgResponseFailure n s).memOk := by
  unfold execPrgResponseFailure
  split <;> simp [ok]

@[simp] theorem State.hostHas_wf {e bs} : Memory.wf (s.hostHas e bs).mem := by
  unfold State.hostHas
  split <;> simp [ok]

@[simp] theorem State.extDone_wf {n ok cause sub data} : Memory.wf (s.extDone n ok cause sub data).mem := by
  unfold State.extDone
  grind [State.hostHas_wf, State.deliver_mem, foldl_wf]

@[simp] theorem execPcieCompletion_memOk {n ok data} : (execPcieCompletion n ok data s).memOk := by
  unfold execPcieCompletion
  grind [State.extDone_wf, Res.memOk]

@[simp] theorem execPcieAtomicCompletion_memOk {n ok} : (execPcieAtomicCompletion n ok s).memOk := by
  unfold execPcieAtomicCompletion
  grind [State.hostHas_wf, State.extDone_wf, Res.memOk]

omit ok in
@[simp] theorem State.invPush_mem {p c} : (s.invPush p c).mem = s.mem := by
  simp [State.invPush]

@[simp] theorem execInvcmdRange_memOk {p count} : (execInvcmdRange p count s).memOk := by
  simp [execInvcmdRange, ok]

@[simp] theorem execInvcmdPartition_memOk {p} : (execInvcmdPartition p s).memOk := by
  simp [execInvcmdPartition, ok]

@[simp] theorem execInvcmdTensor_memOk {p tid} : (execInvcmdTensor p tid s).memOk := by
  simp [execInvcmdTensor, ok]

omit ok in
@[simp] theorem State.loseHeld_mem {p c} : (s.loseHeld p c).mem = s.mem := by
  simp [State.loseHeld]

omit ok in
@[simp] theorem State.invDrop_mem {p c} : (s.invDrop p c).mem = s.mem := by
  simp [State.invDrop]

@[simp] theorem execInvalidationComplete_memOk {p} : (execInvalidationComplete p s).memOk := by
  unfold execInvalidationComplete
  split <;> simp [ok]

@[simp] theorem execFaultEntryWrite_memOk {p} : (execFaultEntryWrite p s).memOk := by
  unfold execFaultEntryWrite
  split
  · exact ok
  dsimp only
  split
  · exact ok
  · rw [Res.memOk_next, State.modPart_mem]
    exact State.hwWords_wf ok

omit ok in
@[simp] theorem State.unpark_mem {p f} : (s.unpark p f).mem = s.mem := by
  unfold State.unpark
  split <;> simp

@[simp] theorem State.refuseAgent_wf {p f} : Memory.wf (s.refuseAgent p f).mem := by
  unfold State.refuseAgent
  split <;> simp [ok]

@[simp] theorem State.lateReplay_wf {p token} : Memory.wf (s.lateReplay p token).mem := by
  unfold State.lateReplay
  split <;> simp [ok]

@[simp] theorem execReplay_memOk {p token} : (execReplay p token s).memOk := by
  unfold execReplay
  split <;> simp [ok]

@[simp] theorem execReplayRefuse_memOk {p token} : (execReplayRefuse p token s).memOk := by
  unfold execReplayRefuse
  split <;> simp [ok]

/-! ## The Sluice -/

@[simp] theorem execSluiceSegmentEmit_memOk {p tree node} : (execSluiceSegmentEmit p tree node s).memOk := by
  unfold execSluiceSegmentEmit
  dsimp only
  (repeat' split) <;> simp [ok]

@[simp] theorem State.endReduc_wf {p tree fail} : Memory.wf (s.endReduc p tree fail).mem := by
  unfold State.endReduc
  grind [State.settleQueue_wf, State.modEng_mem, State.onCmd_mem, State.engFail_wf, foldl_wf]

@[simp] theorem State.awaitRoot_wf {p tree t parent} : Memory.wf (s.awaitRoot p tree t parent).mem := by
  simp [State.awaitRoot, ok]

@[simp] theorem execSluiceRootStore_memOk {p tree} : (execSluiceRootStore p tree s).memOk := by
  unfold execSluiceRootStore
  split
  · exact ok
  dsimp only
  split
  · exact ok
  split
  · exact State.awaitRoot_wf ok
  split
  · exact State.endReduc_wf ok
  split
  · exact State.endReduc_wf ok
  split
  · exact ok
  refine sysGate_memOk ok (fun _ ht => sysReady_wf ht) fun t ht => ?_
  have hu {c : Prop} [Decidable c] {a} : Memory.wf (if c then t.touchFrame a false else t).mem := by simp [ht]
  split
  · next e =>
    have hv := State.sysPut_wf hu e
    split
    · exact State.endReduc_wf (by simp [hv])
    · simp [hv]
  · exact State.endReduc_wf hu

/-! ## Elements of engine commands -/

omit ok in
@[simp] theorem State.cmdFlags_mem {q n fl} : (s.cmdFlags q n fl).mem = s.mem := by
  simp [State.cmdFlags]

@[simp] theorem accstElem_wf {q n bank fmt} : Memory.wf (accstElem q n bank fmt s).mem := by
  unfold accstElem
  grind [Ans.bind_wf, eAlign_mem, eStores_wf, State.cmdFlags_mem, Ans.mem]

@[simp] theorem accldElem_wf {q n bank fmt} : Memory.wf (accldElem q n bank fmt s).mem := by
  unfold accldElem
  grind [Ans.bind_wf, eAlign_mem, eLoads_wf, State.modGroup_mem, Ans.mem]

omit ok in
@[simp] theorem accclrElem_mem {q n bank} : (accclrElem q n bank s).mem = s.mem := by
  simp [accclrElem]

omit ok in
@[simp] theorem State.copied_mem {q n len} : (s.copied q n len).mem = s.mem := by
  simp [State.copied]

@[simp] theorem cpyElem_wf {q n} : Memory.wf (cpyElem q n s).mem := by
  simp +contextual [cpyElem, ok]

@[simp] theorem zeroElem_wf {q n} : Memory.wf (zeroElem q n s).mem := by
  simp [zeroElem, ok]

@[simp] theorem bloadbElem_wf {q n} : Memory.wf (bloadbElem q n s).mem := by
  simp [bloadbElem, ok]

omit ok in
@[simp] theorem xchSend_mem {q n target o v} : (xchSend q n target o v s).mem = s.mem := by
  unfold xchSend
  dsimp only
  split <;> simp

@[simp] theorem xchElem_wf {q n} : Memory.wf (xchElem q n s).mem := by
  simp +contextual [xchElem, ok]

@[simp] theorem tenElem_wf {q n k0 drop sc dc dup} : Memory.wf (tenElem q n k0 drop sc dc dup s).mem := by
  unfold tenElem
  dsimp only
  split
  · split
    · split
      · exact ok
      split
      · exact ok
      refine Ans.bind_wf (eTenLoad_wf ok) fun _ t ht => Ans.bind_wf ?_ fun _ u hu => ?_
      · split
        · exact eScaleLoad_wf ht
        · exact ht
      · split
        · simp [hu]
        · refine Ans.bind_wf (eTenStore_wf (by simp [hu])) fun _ v hv => Ans.bind_wf ?_ fun _ w hw => by simp [hw]
          split
          · exact eScaleStore_wf hv
          · exact hv
    · exact ok
  · exact ok

@[simp] theorem reportElem_wf {q n o} : Memory.wf (reportElem q n o s).mem := by
  unfold reportElem
  grind [Ans.bind_wf, eAlign_mem, eStores_wf, Ans.mem]

@[simp] theorem tcpyElem_wf {q n} : Memory.wf (tcpyElem q n s).mem := by
  unfold tcpyElem
  grind [reportElem_wf, Ans.bind_wf, tenElem_wf, Ans.mem]

@[simp] theorem sliceElem_wf {q n scat wide} : Memory.wf (sliceElem q n scat wide s).mem := by
  unfold sliceElem
  dsimp only
  split
  · split
    · exact reportElem_wf ok
    split
    · exact ok
    refine Ans.bind_wf ?_ fun j t ht => ?_
    · split
      · exact Ans.bind_wf (by simp [ok]) fun _ u hu => Ans.bind_wf (eLoads_wf hu) fun _ v hv => hv
      · exact ok
    · split
      · simp [ht]
      · refine Ans.bind_wf (tenElem_wf (by simp [ht])) fun _ u hu => ?_
        simp only [Ans.mem_ok]
        split
        · simp [hu]
        · exact hu
  · exact ok

@[simp] theorem slredElem_wf {q n} : Memory.wf (slredElem q n s).mem := by
  unfold slredElem
  dsimp only
  split
  · exact ok
  split
  · exact ok
  split
  · exact ok
  split
  · exact ok
  split
  · split
    · exact ok
    split
    · next e => simpa using Ans.wf_of_eq_ok (eLoads_wf ok) e
    · next e => exact Ans.wf_of_eq_wait (eLoads_wf ok) e
    · next e =>
      have ht := Ans.wf_of_eq_trap (eLoads_wf ok) e
      split <;> exact ht
  · split
    · exact ok
    · simp only [Ans.mem_ite, Ans.mem_ok, Ans.mem_trap, Ans.mem_wait, State.modReduc_mem, State.leafSend_mem]
      split
      · exact ok
      · split <;> exact ok

@[simp] theorem rvtabElem_wf {q n} : Memory.wf (rvtabElem q n s).mem := by
  unfold rvtabElem
  grind [Ans.bind_wf, eAlign_mem, eLoads_wf, State.modEng_mem, Ans.mem]

@[simp] theorem ruleEnd_wf {q n b ws} : Memory.wf (ruleEnd q n b ws s).mem := by
  unfold ruleEnd
  grind [Ans.bind_wf, eLoads_wf, State.cmdFlags_mem, eStores_wf, State.onCmd_mem, Ans.mem]

@[simp] theorem revalElem_wf {q n b} : Memory.wf (revalElem q n b s).mem := by
  unfold revalElem
  grind [eLoads_wf, Ans.bind_wf, State.onCmd_mem, ruleEnd_wf, Ans.mem]

omit ok in
@[simp] theorem State.onSp_mem {q n f} : (s.onSp q n f).mem = s.mem := by
  simp [State.onSp]

omit ok in
@[simp] theorem State.fibreAsk_mem {q n} : (s.fibreAsk q n).mem = s.mem := by
  simp [State.fibreAsk]

omit ok in
@[simp] theorem State.scramble_mem {q n} : (s.scramble q n).mem = s.mem := by
  simp [State.scramble]

@[simp] theorem spElem_wf {q n} : Memory.wf (spElem q n s).mem := by
  unfold spElem
  grind [Ans.bind_wf, eLoads_wf, eStores_wf, eAlign_mem, State.onSp_mem, State.scramble_mem, State.cmdFlags_mem, State.fibreAsk_mem, Ans.mem]

omit ok in
@[simp] theorem State.iqElem_mem {q n i v} : (s.iqElem q n i v).mem = s.mem := by
  simp [State.iqElem]

@[simp] theorem strmElem_wf {q n i} : Memory.wf (strmElem q n i s).mem := by
  simp +contextual [strmElem, ok]

@[simp] theorem strmtElem_wf {q n i} : Memory.wf (strmtElem q n i s).mem := by
  unfold strmtElem
  dsimp only
  (repeat' split) <;> simp [ok]

@[simp] theorem ostrmElem_wf {q n i} : Memory.wf (ostrmElem q n i s).mem := by
  unfold ostrmElem
  grind [Ans.bind_wf, eAlign_mem, eStores_wf, State.modGroup_mem, Ans.mem]

@[simp] theorem cmdElem_wf {q n} : Memory.wf (cmdElem q n s).mem := by
  unfold cmdElem
  split <;> simp [ok]

/-! ## The engines' own steps -/

/-- OVER and the instructions that no engine takes are the last case: `over` is a word of Lean and cannot name a case. -/
@[simp] theorem engRun_memOk {i} : (engRun i s).memOk := by
  have hover : (execOver s).memOk := engPure_memOk ok
  have hnext : Res.memOk (.next s) := ok
  cases i with
  | litPush => exact show (execLitPush _ s).memOk from engPure_memOk ok
  | litContinue => exact show (execLitContinue _ s).memOk from engPure_memOk ok
  | engineNop => exact show (execEngineNop s).memOk from engPure_memOk ok
  | dup => exact show (execDup s).memOk from engPure_memOk ok
  | drop => exact show (execDrop s).memOk from engPure_memOk ok
  | swap => exact show (execSwap s).memOk from engPure_memOk ok
  | neg => exact show (execNeg s).memOk from engPure_memOk ok
  | shli => exact execShli_memOk ok
  | add => exact show (execAdd s).memOk from engPure_memOk ok
  | gccp => exact show (execGccp _ s).memOk from engPure_memOk ok
  | post => exact execPost_memOk ok
  | arrive => exact execArrive_memOk ok
  | mode => exact execMode_memOk ok
  | efenceWord => exact execEfenceWord_memOk ok
  | accst => exact execAccst_memOk ok
  | accld => exact execAccld_memOk ok
  | accclr => exact execAccclr_memOk ok
  | vmode => exact execVmode_memOk ok
  | spgemm => exact execSpgemm_memOk ok
  | fibre => exact execFibre_memOk ok
  | cpy => exact execCpy_memOk ok
  | srct => exact execSrct_memOk ok
  | dstt => exact execDstt_memOk ok
  | box => exact execBox_memOk ok
  | tcpy => exact execTcpy_memOk ok
  | tgath => exact execTgath_memOk ok
  | tscat => exact execTscat_memOk ok
  | bloadb => exact execBloadb_memOk ok
  | slred => exact execSlred_memOk ok
  | zero => exact execZero_memOk ok
  | xch => exact execXch_memOk ok
  | strm => exact execStrm_memOk ok
  | strmt => exact execStrmt_memOk ok
  | ostrm => exact execOstrm_memOk ok
  | scloseIq => exact execScloseIq_memOk ok
  | scloseOq => exact execScloseOq_memOk ok
  | rvtab => exact execRvtab_memOk ok
  | rxin => exact execRxin_memOk ok
  | rprog => exact execRprog_memOk ok
  | ryout => exact execRyout_memOk ok
  | rdlim => exact execRdlim_memOk ok
  | reval => exact execReval_memOk ok
  | _ => assumption

@[simp] theorem State.takeWords_wf {q n} : Memory.wf (s.takeWords q n).mem := by
  induction n generalizing s with
  | zero => exact ok
  | succ f ih =>
    unfold State.takeWords
    grind [State.badWord_wf, engRun_memOk, Res.memOk]

@[simp] theorem execEngineTurn_memOk {h e} : (execEngineTurn h e s).memOk := by
  unfold execEngineTurn
  split <;> simp [ok]

@[simp] theorem execScriptFetchAppend_memOk {q} : (execScriptFetchAppend q s).memOk := by
  unfold execScriptFetchAppend
  dsimp only
  (repeat' split) <;> simp [ok]

omit ok in
@[simp] theorem State.startCmd_mem {q n} : (s.startCmd q n).mem = s.mem := by
  simp [State.startCmd]

@[simp] theorem execCopyCommandStart_memOk {e} : (execCopyCommandStart e s).memOk := by
  unfold execCopyCommandStart
  dsimp only
  (repeat' split) <;> simp [ok]

@[simp] theorem execStreamOpen_memOk {q n} : (execStreamOpen q n s).memOk := by
  unfold execStreamOpen
  dsimp only
  split <;> simp [ok]

omit ok in
@[simp] theorem State.sizeCmd_mem {q n} : (s.sizeCmd q n).mem = s.mem := by
  unfold State.sizeCmd
  dsimp only
  split <;> simp

omit ok in
@[simp] theorem State.elemDone_mem {q n k} : (s.elemDone q n k).mem = s.mem := by
  simp [State.elemDone]

@[simp] theorem State.completeCmd_wf {q n} : Memory.wf (s.completeCmd q n).mem := by
  simp [State.completeCmd, ok]

@[simp] theorem State.endCmd_wf {q n} : Memory.wf (s.endCmd q n).mem := by
  simp [State.endCmd, ok]

@[simp] theorem execEngineCommandComplete_memOk {q n} : (execEngineCommandComplete q n s).memOk := by
  unfold execEngineCommandComplete
  grind [State.startCmd_mem, State.sizeCmd_mem, State.endCmd_wf, cmdElem_wf, State.elemDone_mem, Ans.mem, Res.memOk]

@[simp] theorem execStreamElement_memOk {q n} : (execStreamElement q n s).memOk := by
  unfold execStreamElement
  grind [State.endCmd_wf, cmdElem_wf, State.elemDone_mem, Ans.mem, Res.memOk]

omit ok in
@[simp] theorem State.parkCmd_mem {q n i} : (s.parkCmd q n i).mem = s.mem := by
  simp [State.parkCmd]

@[simp] theorem State.trapFlags_wf {q n} : Memory.wf (s.trapFlags q n).mem := by
  simp [State.trapFlags, ok]

@[simp] theorem execCommandElementFault_memOk {q n} : (execCommandElementFault q n s).memOk := by
  unfold execCommandElementFault
  grind [State.sizeCmd_mem, cmdElem_wf, State.parkCmd_mem, State.leafFail_mem, State.engFail_wf, State.onCmd_mem, State.trapFlags_wf, Ans.mem, Res.memOk]

@[simp] theorem execMarkerPerform_memOk {q} : (execMarkerPerform q s).memOk := by
  simp [execMarkerPerform, ok]

/-! ## What a turn does -/

@[simp] theorem fetchHalf_wf {va} : Memory.wf (fetchHalf va s).mem := by
  unfold fetchHalf
  grind [Ans.bind_wf, ccXlate_mem, State.touchTgt_wf, State.askLine_wf, State.dropLines_mem, Ans.mem]

@[simp] theorem ccFetch_wf : Memory.wf (ccFetch s).mem := by
  unfold ccFetch
  grind [Ans.bind_wf, fetchHalf_wf, Ans.mem]

omit ok in
@[simp] theorem State.enter_mem {h t} : (s.enter h t).mem = s.mem := by
  simp [State.enter]

@[simp] theorem ccTurn_wf {h t} : Memory.wf (ccTurn h t s).mem := by
  unfold ccTurn
  grind [State.enter_mem, State.trapCc_wf, ccFetch_wf, State.onTh_mem, State.dropLines_mem, Ans.mem, Act.mem]

omit ok in
@[simp] theorem laneTurn_mem {h g} : (laneTurn h g s).mem = s.mem := by
  unfold laneTurn
  dsimp only
  (repeat' split) <;> simp

@[simp] theorem engineTurn_wf {h e} : Memory.wf (engineTurn h e s).mem := by
  unfold engineTurn
  dsimp only
  (repeat' split) <;> simp [ok]

/-! ## Context images -/

@[simp] theorem State.setNums_wf {a n l} : Memory.wf (s.setNums a n l).mem := by
  induction l generalizing s a with
  | nil => exact ok
  | cons v r ih => exact ih (State.hwNum_wf ok)

@[simp] theorem State.setElems_wf {a l} : Memory.wf (s.setElems a l).mem := by
  induction l generalizing s a with
  | nil => exact ok
  | cons e r ih => exact ih (State.hwBytes_wf ok)

@[simp] theorem State.putFields_wf {a l} : Memory.wf (s.putFields a l).mem := 
  State.wf_of_memOk (foldl_memOk ok fun _ _ h => State.hwNum_memOk _ _ _ _ h)

@[simp] theorem State.writeImage_wf {h c n} : Memory.wf (s.writeImage h c n).mem := by
  suffices (s.writeImage h c n).memOk from this
  unfold State.writeImage
  dsimp only
  refine State.memOk_of_mem _ _ (State.modCtx_mem _ _ _) ?_
  refine foldl_memOk (State.hwNum_memOk _ _ _ _ ?_) fun _ _ h => State.hwBytes_memOk _ _ _ h
  refine foldl_memOk ?_ fun _ _ h => State.hwBytes_memOk _ _ _ h
  refine foldl_memOk ?_ fun _ _ h => State.hwBytes_memOk _ _ _ h
  refine foldl_memOk ?_ fun _ _ h => State.setElems_wf h
  refine foldl_memOk ?_ fun _ _ h => State.setElems_wf h
  exact State.setNums_wf (State.setNums_wf (State.putFields_wf ok))

omit ok in
@[simp] theorem State.keepImage_mem {h c n} : (s.keepImage h c n).mem = s.mem := by
  simp [State.keepImage]

omit ok in
@[simp] theorem State.leave_mem {h c} : (s.leave h c).mem = s.mem := by
  unfold State.leave
  grind [State.modThread_mem, State.modEng_mem, State.setXwin_mem, State.modGroup_mem, State.modCtx_mem, foldl_mem]

@[simp] theorem State.restoreImage_wf {p h c n} : Memory.wf (s.restoreImage p h c n).mem := by
  refine State.wf_of_memOk ?_
  unfold State.restoreImage
  extract_lets im k c0 a m old g0 grp map x0 t0 x pad s1 s2 s3 s4 s5 s6 toks s7 s8 s9
  have h1 : s1.memOk := State.memOk_of_mem _ _ ((State.modGroup_mem _ _ _).trans (State.modHearth_mem _ _ _)) ok
  clear_value s1
  have h2 : s2.memOk := foldl_memOk (State.touchRange_memOk _ _ _ _ h1) fun _ _ h => State.touchFrame_memOk _ _ _ h
  clear_value s2
  have h3 : s3.memOk := State.memOk_of_mem _ _ (State.modCtx_mem _ _ _) h2
  clear_value s3
  have h4 : s4.memOk := foldl_memOk h3 fun _ _ h => State.memOk_of_mem _ _ (State.modThread_mem _ _ _) h
  clear_value s4
  have h5 : s5.memOk := foldl_memOk h4 fun _ _ h => State.memOk_of_mem _ _ (State.modEng_mem _ _ _) h
  clear_value s5
  have h6 : s6.memOk := by
    unfold s6
    split
    · exact State.memOk_of_mem _ _ State.setXwin_mem h5
    · exact h5
  clear_value s6
  have h7 : s7.memOk := State.memOk_of_mem _ _ (State.modPart_mem _ _ _) h6
  clear_value s7
  have h8 : s8.memOk := h7
  clear_value s8
  have h9 : s9.memOk := by
    unfold s9
    split
    · exact State.syncAll_wf h8
    · exact h8
  clear_value s9
  exact foldl_memOk h9 fun _ _ h => State.lateReplay_wf h

/-! ## The scheduler -/

omit ok in
@[simp] theorem State.refuseRecord_mem {p a cause sub va} : (s.refuseRecord p a cause sub va).mem = s.mem := by
  simp [State.refuseRecord]

@[simp] theorem State.ringPush_wf {p l e} : Memory.wf (s.ringPush p l e).mem := by
  unfold State.ringPush
  dsimp only
  rw [State.modPart_mem]
  exact State.hwNum_wf ok

@[simp] theorem State.ringFront_wf {p l e} : Memory.wf (s.ringFront p l e).mem := by
  refine State.wf_of_memOk (State.memOk_of_mem _ _ (State.modPart_mem _ _ _) ?_)
  refine State.hwNum_memOk _ _ _ _ ?_
  split
  · exact State.hwNum_memOk _ _ _ _ ok
  · exact ok

omit ok in
@[simp] theorem State.ringTake_mem {p l i} : (s.ringTake p l i).mem = s.mem := by
  simp [State.ringTake]

omit ok in
@[simp] theorem ringReady_mem {p l} : (ringReady p l s).mem = s.mem := by
  simp [ringReady]

@[simp] theorem State.readPush_wf {p w} : Memory.wf (s.readPush p w).mem := by
  simp [State.readPush, ok]

@[simp] theorem execReadyPush_memOk {p level} : (execReadyPush p level s).memOk := by
  unfold execReadyPush
  grind [sysGate_memOk, sysReady_wf, State.readPush_wf, State.ringPush_wf, State.modPart_mem, Res.memOk]

omit ok in
@[simp] theorem State.decFail_mem {p d cause sub} : (s.decFail p d cause sub).mem = s.mem := by
  unfold State.decFail
  split <;> simp

omit ok in
@[simp] theorem State.popDec_mem {p} : (s.popDec p).mem = s.mem := by
  simp [State.popDec]

omit ok in
@[simp] theorem State.decDone_mem {p d n b} : (s.decDone p d n b).mem = s.mem := by
  simp [State.decDone]

@[simp] theorem State.decFar_wf {p d t} : Memory.wf (s.decFar p d t).mem := by
  unfold State.decFar
  dsimp only
  (repeat' split) <;> simp [ok]

@[simp] theorem State.decHome_wf {p d a} : Memory.wf (s.decHome p d a).mem := by
  unfold State.decHome
  grind [State.popDec_mem, State.decFail_mem, State.decDone_mem, State.sysWrite_wf, State.seen_wf, State.sysWalked_wf]

@[simp] theorem execJoinDecrement_memOk {p} : (execJoinDecrement p s).memOk := by
  unfold execJoinDecrement
  split
  · exact ok
  dsimp only
  split
  · next e => exact Ans.wf_of_eq_wait (sysReady_wf ok) e
  · next e => exact Ans.wf_of_eq_trap (sysReady_wf ok) e
  next t e =>
  have ht : Memory.wf t.mem := Ans.wf_of_eq_ok (sysReady_wf ok) e
  split
  · simp [ht]
  · exact sysGate_memOk ht (fun _ hu => sysReady_wf hu) fun _ hu => hu
  · split
    · exact State.decFar_wf ht
    · exact sysGate_memOk ht (fun _ hu => sysReady_wf hu) fun _ hu => State.decHome_wf hu

omit ok in
@[simp] theorem State.popFan_mem {p} : (s.popFan p).mem = s.mem := by
  simp [State.popFan]

@[simp] theorem State.fanCheck_wf {p f} : Memory.wf (s.fanCheck p f).mem := by
  unfold State.fanCheck
  dsimp only
  (repeat' split) <;> simp [ok]

@[simp] theorem State.fanStep_wf {p f r i} : Memory.wf (s.fanStep p f r i).mem := by
  unfold State.fanStep
  dsimp only
  (repeat' split) <;> simp [ok]

@[simp] theorem execFanoutWalk_memOk {p} : (execFanoutWalk p s).memOk := by
  unfold execFanoutWalk
  split
  · exact ok
  split
  · refine sysGate_memOk ok (fun t ht => Ans.bind_wf (sysReady_wf ht) fun _ u hu => ?_) fun t ht => State.fanCheck_wf ht
    split
    · exact sysAllReady_wf hu
    · exact hu
  · refine sysGate_memOk ok (fun t ht => ?_) fun t ht => State.fanStep_wf ht
    split
    · exact ht
    · exact sysReady_wf ht

@[simp] theorem headsReady_wf {p f l} : Memory.wf (headsReady p f l s).mem := by
  induction l generalizing s with
  | nil => exact ok
  | cons a r ih =>
    refine Ans.bind_wf (sysReady_wf ok) fun _ t ht => ?_
    split
    · exact ht
    · exact ih ht

@[simp] theorem dispatchReady_wf {p f} : Memory.wf (dispatchReady p f s).mem := by
  unfold dispatchReady
  grind [Ans.bind_wf, headsReady_wf, ringReady_mem, Ans.mem]

@[simp] theorem State.startTask_wf {p h c r} : Memory.wf (s.startTask p h c r).mem := by
  simp +contextual [State.startTask, ok]

@[simp] theorem State.dispatchTo_wf {p h c l i e} : Memory.wf (s.dispatchTo p h c l i e).mem := by
  unfold State.dispatchTo
  dsimp only
  split <;> simp [ok]

@[simp] theorem execDispatch_memOk {h c} : (execDispatch h c s).memOk := by
  unfold execDispatch
  grind [sysGate_memOk, dispatchReady_wf, State.dispatchTo_wf, Res.memOk]

@[simp] theorem State.copyTo_wf {p e l i w} : Memory.wf (s.copyTo p e l i w).mem := by
  unfold State.copyTo
  dsimp only
  split <;> simp [ok]

@[simp] theorem execCopyRecordDispatch_memOk {p e} : (execCopyRecordDispatch p e s).memOk := by
  unfold execCopyRecordDispatch
  grind [sysGate_memOk, dispatchReady_wf, State.copyTo_wf, Res.memOk]

@[simp] theorem execCopyRecordComplete_memOk {e} : (execCopyRecordComplete e s).memOk := by
  unfold execCopyRecordComplete
  dsimp only
  split <;> simp [ok]

@[simp] theorem execGccResync_memOk {die} : (execGccResync die s).memOk := by
  simp [execGccResync, ok]

@[simp] theorem execClockStepChange_memOk {h} : (execClockStepChange h s).memOk := by
  simp [execClockStepChange, ok]

@[simp] theorem execProgramTimestampWaitEnd_memOk {a} : (execProgramTimestampWaitEnd a s).memOk := by
  unfold execProgramTimestampWaitEnd
  grind [State.laneProgress_wf, execStreamElement_memOk, execEngineCommandComplete_memOk, Res.memOk]

/-! ## Pre-emption, traps and kills -/

@[simp] theorem execPreemptSignal_memOk {p} : (execPreemptSignal p s).memOk := by
  unfold execPreemptSignal
  split <;> simp [ok]

omit ok in
@[simp] theorem State.unselect_mem {k} : (s.unselect k).mem = s.mem := by
  simp [State.unselect]

@[simp] theorem execPreemptStop_memOk {h c} : (execPreemptStop h c s).memOk := by
  unfold execPreemptStop
  grind [State.settleGroup_wf, State.unselect_mem, State.modCtx_mem, State.settleQueue_wf, State.writeBack_mem, State.writeImage_wf, State.emitEnd_wf, State.leave_mem, State.keepImage_mem, State.modPart_mem, State.ringFront_wf, Res.memOk, foldl_wf]

@[simp] theorem execTrapRecordWrite_memOk {p} : (execTrapRecordWrite p s).memOk := by
  unfold execTrapRecordWrite
  split
  · exact ok
  dsimp only
  split
  · exact ok
  · rw [Res.memOk_next, State.modPart_mem]
    exact State.hwWords_wf ok

@[simp] theorem execWatchdogExpire_memOk {w} : (execWatchdogExpire w s).memOk := by
  unfold execWatchdogExpire
  dsimp only
  (repeat' split) <;> simp [ok]

omit ok in
@[simp] theorem State.dropTrapTok_mem {p token} : (s.dropTrapTok p token).mem = s.mem := by
  simp [State.dropTrapTok]

omit ok in
@[simp] theorem State.rewait_mem {h c} : (s.rewait h c).mem = s.mem := by
  unfold State.rewait
  grind [State.modThread_mem, State.modGroup_mem, State.modEng_mem, State.modPart_mem, foldl_mem]

@[simp] theorem State.resumeAgent_wf {t} : Memory.wf (s.resumeAgent t).mem := by
  unfold State.resumeAgent
  dsimp only
  (repeat' split) <;> simp [ok]

@[simp] theorem execTactResume_memOk {p token} : (execTactResume p token s).memOk := by
  unfold execTactResume
  split <;> simp [ok]

@[simp] theorem State.putDump_wf {a l i} : Memory.wf (s.putDump a l i).mem := by
  induction l generalizing s a i with
  | nil => exact ok
  | cons e r ih => exact ih (State.hwBytes_wf ok)

@[simp] theorem State.dump_wf {p t} : Memory.wf (s.dump p t).mem := by
  simp [State.dump, ok]

omit ok in
@[simp] theorem State.startKill_mem {p h c counted} : (s.startKill p h c counted).mem = s.mem := by
  unfold State.startKill
  grind [State.modEng_mem, State.modPart_mem, State.modCtx_mem, foldl_mem]

@[simp] theorem execKill_memOk {p h c} : (execKill p h c s).memOk := by
  simp [execKill, ok]

omit ok in
@[simp] theorem State.startKillAll_mem {p} : (s.startKillAll p).mem = s.mem := by
  simp [State.startKillAll]

@[simp] theorem execKillAll_memOk {p} : (execKillAll p s).memOk := by
  simp [execKillAll, ok]

@[simp] theorem execTactKillContext_memOk {p token} : (execTactKillContext p token s).memOk := by
  unfold execTactKillContext
  split <;> simp [ok]

@[simp] theorem execTactKillPartition_memOk {p token} : (execTactKillPartition p token s).memOk := by
  unfold execTactKillPartition
  split <;> simp [ok]

@[simp] theorem execTactDump_memOk {p token act} : (execTactDump p token act s).memOk := by
  unfold execTactDump
  split <;> simp [ok]

omit ok in
@[simp] theorem State.dropKilled_mem {p h c} : (s.dropKilled p h c).mem = s.mem := by
  unfold State.dropKilled
  dsimp only
  split <;> simp

@[simp] theorem execKillDone_memOk {p h c} : (execKillDone p h c s).memOk := by
  unfold execKillDone
  dsimp only
  split <;> simp [ok]

/-! ## Partitions -/

@[simp] theorem execLaunchPush_memOk {p v} : (execLaunchPush p v s).memOk := by
  simp [execLaunchPush, ok]

@[simp] theorem execLaunchClear_memOk {p} : (execLaunchClear p s).memOk := by
  simp [execLaunchClear, ok]

omit ok in
@[simp] theorem State.latchStart_mem {p} : (s.latchStart p).mem = s.mem := by
  simp [State.latchStart]

@[simp] theorem State.startSeen_wf {p err} : Memory.wf (s.startSeen p err).mem := 
  State.wf_of_memOk (foldl_memOk ok fun _ _ h => State.touchRange_memOk _ _ _ _ h)

@[simp] theorem execPartitionStart_memOk {p} : (execPartitionStart p s).memOk := by
  unfold execPartitionStart
  grind [State.snoopAll_mem, State.modPart_mem, State.startSeen_wf, State.latchStart_mem, Res.memOk]

@[simp] theorem execPartitionStop_memOk {p} : (execPartitionStop p s).memOk := by
  simp [execPartitionStop, ok]

@[simp] theorem execPartitionDrainDone_memOk {p} : (execPartitionDrainDone p s).memOk := by
  simp [execPartitionDrainDone, ok]

@[simp] theorem execPstepWrite_memOk {p i v} : (execPstepWrite p i v s).memOk := by
  simp [execPstepWrite, ok]

@[simp] theorem execBudgetPeriod_memOk : (execBudgetPeriod s).memOk := by
  simp +contextual [execBudgetPeriod, ok]

/-! ## Halts and traces -/

@[simp] theorem execDebugHalt_memOk {h c} : (execDebugHalt h c s).memOk := by
  unfold execDebugHalt
  split <;> simp [ok]

@[simp] theorem execHaltReached_memOk {h c} : (execHaltReached h c s).memOk := by
  simp +contextual [execHaltReached, ok]

omit ok in
@[simp] theorem State.shiftWaits_mem {h c} : (s.shiftWaits h c).mem = s.mem := by
  unfold State.shiftWaits
  grind [State.modThread_mem, State.modGroup_mem, State.modEng_mem, State.modPart_mem, foldl_mem]

@[simp] theorem execDebugResume_memOk {h c} : (execDebugResume h c s).memOk := by
  unfold execDebugResume
  split <;> simp [ok]

@[simp] theorem execDebugStep_memOk {h c} : (execDebugStep h c s).memOk := by
  simp [execDebugStep, ok]

@[simp] theorem execPosSample_memOk {h c} : (execPosSample h c s).memOk := by
  unfold execPosSample
  split <;> simp [ok]

@[simp] theorem execTraceBaseWrite_memOk {h c v} : (execTraceBaseWrite h c v s).memOk := by
  unfold execTraceBaseWrite
  split <;> simp [ok]

@[simp] theorem execTraceLossResync_memOk {h c} : (execTraceLossResync h c s).memOk := by
  simp [execTraceLossResync, ok]

/-! ## Driver registers and zeroing -/

omit ok in
@[simp] theorem State.mbDone_mem {res} : (s.mbDone res).mem = s.mem := by
  simp [State.mbDone]

omit ok in
@[simp] theorem State.keepSel_mem {bar off} : (s.keepSel bar off).mem = s.mem := by
  simp [State.keepSel]

@[simp] theorem execRegisterWrite_memOk {bar off v} : (execRegisterWrite bar off v s).memOk := by
  simp [execRegisterWrite, ok]

@[simp] theorem execZcmd_memOk {die count} : (execZcmd die count s).memOk := by
  simp [execZcmd, ok]

@[simp] theorem State.markZero_wf {g} : Memory.wf (s.markZero g).mem := by
  unfold State.markZero
  split
  · exact ok
  · exact memClear_wf _ _ _ ok

@[simp] theorem execZeroComplete_memOk {die} : (execZeroComplete die s).memOk := by
  unfold execZeroComplete
  grind [State.snoopAll_mem, State.modDie_mem, State.markZero_wf, Res.memOk, foldl_wf]

@[simp] theorem execSweeperStep_memOk {die} : (execSweeperStep die s).memOk := by
  unfold execSweeperStep
  extract_lets ctl base i ea e hd t ring u
  have ht : Memory.wf t.mem := by simp only [t, State.modDie_mem, ok]
  clear_value t ea ring
  have hu : Memory.wf u.mem := State.hwNum_wf ht
  clear_value u
  split
  · exact ok
  split
  · exact ht
  split
  · rw [Res.memOk_next]
    split
    · exact ht
    · exact State.hwNum_wf ht
  split
  · rw [Res.memOk_next, State.modDie_mem]
    exact State.hwNum_wf hu
  · exact ht

/-! ## Pods -/

@[simp] theorem State.peerSeen_wf {r} : Memory.wf (s.peerSeen r).mem := by
  simp [State.peerSeen, ok]

omit ok in
@[simp] theorem State.refuse_mem {t sub} : (s.refuse t sub).mem = s.mem := by
  simp [State.refuse]

omit ok in
@[simp] theorem State.podStream_mem {r k port ws} : (s.podStream r k port ws).mem = s.mem := by
  unfold State.podStream
  dsimp only
  (repeat' split) <;> simp

@[simp] theorem State.peerWalked_wf {p va op} : Memory.wf (s.peerWalked p va op).mem := by
  simp +contextual [State.peerWalked, ok]

@[simp] theorem execPeerRequest_memOk {r} : (execPeerRequest r s).memOk := by
  unfold execPeerRequest
  grind [State.podStream_mem, State.peerSeen_wf, State.refuse_mem, sysGate_memOk, sysAllReady_wf, State.peerWalked_wf, Res.memOk]

@[simp] theorem execPeerResponse_memOk {n ok data} : (execPeerResponse n ok data s).memOk := by
  unfold execPeerResponse
  grind [State.extDone_wf, Res.memOk]

@[simp] theorem execPeerRefusal_memOk {n sub} : (execPeerRefusal n sub s).memOk := by
  simp [execPeerRefusal, ok]

@[simp] theorem State.failExts_wf {f} : Memory.wf (s.failExts f).mem := by
  unfold State.failExts
  grind [State.extDone_wf, foldl_wf]

omit ok in
@[simp] theorem State.failHostFills_mem : s.failHostFills.mem = s.mem := by
  simp [State.failHostFills]

@[simp] theorem execLinkFailure_memOk {k} : (execLinkFailure k s).memOk := by
  unfold execLinkFailure
  split <;> simp [ok]

/-! ## Ethernet stations -/

@[simp] theorem rangeReady_wf {p va n acc} : Memory.wf (rangeReady p va n acc s).mem := by
  simp [rangeReady, ok]

@[simp] theorem State.rangeStore_wf {p va d P} : Memory.wf (s.rangeStore p va d P).2.mem := by
  refine List.foldlRecOn (motive := fun r : Nat × State => Memory.wf r.2.mem) _ _ ok fun r hr q _ => ?_
  split
  · next e => exact State.sysPut_wf hr e
  · exact hr

@[simp] theorem State.qpData_wf {n va d} : Memory.wf (s.qpData n va d).mem := by
  simp [State.qpData, ok]

@[simp] theorem State.rangeSeen_wf {p va n} : Memory.wf (s.rangeSeen p va n).mem := by
  simp +contextual [State.rangeSeen, ok]

@[simp] theorem State.complete_wf {n va count} : Memory.wf (s.complete n va count).mem := by
  simp [State.complete, ok]

@[simp] theorem State.qpState_wf {n st} : Memory.wf (s.qpState n st).mem := by
  simp [State.qpState, ok]

@[simp] theorem qpReady_wf {n} : Memory.wf (qpReady n s).mem := by
  unfold qpReady
  grind [Ans.bind_wf, sysAllReady_wf]

@[simp] theorem execQpload_memOk {qpn} : (execQpload qpn s).memOk := by
  simp +contextual [execQpload, ok]

@[simp] theorem State.qpIndex_wf {n off i} : Memory.wf (s.qpIndex n off i).mem := by
  simp [State.qpIndex, ok]

@[simp] theorem State.setSci_wf {n i} : Memory.wf (s.setSci n i).mem := by
  simp [State.setSci, ok]

@[simp] theorem State.setRci_wf {n i} : Memory.wf (s.setRci n i).mem := by
  simp [State.setRci, ok]

@[simp] theorem failReady_wf {n} : Memory.wf (failReady n s).mem := by
  simp +contextual [failReady, ok]

@[simp] theorem State.qpFailed_wf {n} : Memory.wf (s.qpFailed n).mem := by
  unfold State.qpFailed
  grind [State.complete_wf, State.setSci_wf, State.setRci_wf, State.modQp_mem, State.qpState_wf, foldl_wf]

omit ok in
@[simp] theorem State.qpError_mem {n} : (s.qpError n).mem = s.mem := by
  simp [State.qpError]

@[simp] theorem qpStep_memOk {n ready f} (hready : ∀ (t : State), Memory.wf t.mem → Memory.wf (ready t).mem) (hf : ∀ (t : State), Memory.wf t.mem → Memory.wf (f t).mem) : (qpStep n ready f s).memOk := by
  simp +contextual [qpStep, ok, hready, hf]

@[simp] theorem sendReady_wf {n} : Memory.wf (sendReady n s).mem := by
  unfold sendReady
  grind [Ans.bind_wf, rangeReady_wf, sysAllReady_wf, Ans.mem]

@[simp] theorem State.qpSend_wf {n} : Memory.wf (s.qpSend n).mem := by
  unfold State.qpSend
  dsimp only
  (repeat' split) <;> simp [ok]

@[simp] theorem execQpSendDoorbell_memOk {qpn} : (execQpSendDoorbell qpn s).memOk := by
  refine qpStep_memOk ok (fun t ht => Ans.bind_wf (rangeReady_wf ht) fun _ u hu => sendReady_wf hu) fun t ht => ?_
  dsimp only
  split
  · simp [ht]
  split
  · simp [ht]
  split
  · simp [ht]
  · exact State.qpSend_wf (by simp [ht])

@[simp] theorem execQpEntryComplete_memOk {qpn good data} : (execQpEntryComplete qpn good data s).memOk := by
  refine qpStep_memOk ok (fun t ht => ?_) fun t ht => ?_
  · split
    · exact ht
    · refine Ans.bind_wf (rangeReady_wf ht) fun _ u hu => ?_
      split
      · exact hu
      · refine Ans.bind_wf ?_ fun _ v hv => rangeReady_wf hv
        split
        · exact rangeReady_wf hu
        · exact hu
  · dsimp only
    split
    · simp [ht]
    split
    · exact ht
    split
    · simp [ht]
    split
    · exact ht
    split
    · simp [ht]
    · rw [State.modQp_mem]
      refine State.setSci_wf (State.complete_wf ?_)
      split
      · exact State.qpData_wf ht
      · exact ht

@[simp] theorem execQpRetryTimeout_memOk {qpn} : (execQpRetryTimeout qpn s).memOk := by
  simp +contextual [execQpRetryTimeout, ok]

@[simp] theorem execQpReceiveDoorbell_memOk {qpn} : (execQpReceiveDoorbell qpn s).memOk := by
  unfold execQpReceiveDoorbell
  grind [qpStep_memOk, rangeReady_wf, State.qpError_mem, State.modQp_mem, State.sysSeen_wf]

@[simp] theorem execRoceSendReceive_memOk {qpn data} : (execRoceSendReceive qpn data s).memOk := by
  unfold execRoceSendReceive
  grind [qpStep_memOk, Ans.bind_wf, rangeReady_wf, State.wired_mem, State.qpError_mem, State.setRci_wf, State.complete_wf, State.qpData_wf, State.rangeSeen_wf, Ans.mem]

omit ok in
@[simp] theorem State.accessNak_mem {qpn} : (s.accessNak qpn).mem = s.mem := by
  simp [State.accessNak]

@[simp] theorem execRoceWriteReceive_memOk {qpn key va data} : (execRoceWriteReceive qpn key va data s).memOk := by
  simp +contextual [execRoceWriteReceive, ok]

@[simp] theorem execRoceReadReceive_memOk {qpn key va len} : (execRoceReadReceive qpn key va len s).memOk := by
  unfold execRoceReadReceive
  grind [qpStep_memOk, rangeReady_wf, State.wired_mem, State.rangeSeen_wf, State.accessNak_mem, Ans.mem]

@[simp] theorem execPfcPauseFrame_memOk {port prio pause} : (execPfcPauseFrame port prio pause s).memOk := by
  simp [execPfcPauseFrame, ok]

/-! ## Start-up and the mailbox -/

omit ok in
@[simp] theorem State.cold_wf {p} : Memory.wf (s.cold p).mem := rfl

omit ok in
@[simp] theorem State.bootFail_mem {d code} : (s.bootFail d code).mem = s.mem := by
  simp [State.bootFail]

omit ok in
@[simp] theorem State.bootTail_mem {env} : (s.bootTail env).mem = s.mem := by
  unfold State.bootTail
  split <;> simp

omit ok in
@[simp] theorem execBoot_memOk {env} : (execBoot env s).memOk := by
  unfold execBoot
  dsimp only
  split <;> simp

omit ok in
@[simp] theorem execPowerLoss_memOk {tornSlot} : (execPowerLoss tornSlot s).memOk := by
  simp [execPowerLoss]

@[simp] theorem State.physWrite_wf {pa d} : Memory.wf (s.physWrite pa d).mem := by
  simp +contextual [State.physWrite, ok]

@[simp] theorem State.attest_wf : Memory.wf s.attest.mem := by
  simp [State.attest, ok]

omit ok in
@[simp] theorem State.stage_mem : s.stage.mem = s.mem := by
  unfold State.stage
  dsimp only
  split <;> rw [State.mbDone_mem]

omit ok in
@[simp] theorem State.mbStart_mem {op} : (s.mbStart op).mem = s.mem := by
  simp [State.mbStart]

@[simp] theorem execMbReadCert_memOk : (execMbReadCert s).memOk := by
  simp [execMbReadCert, ok]

@[simp] theorem execMbAttest_memOk : (execMbAttest s).memOk := by
  simp [execMbAttest, ok]

@[simp] theorem execMbStageRecord_memOk : (execMbStageRecord s).memOk := by
  simp [execMbStageRecord, ok]

@[simp] theorem State.mbRun_wf : Memory.wf s.mbRun.mem := by
  unfold State.mbRun
  grind [Ans.bind_wf, homesReady_mem, State.mbDone_mem, State.physWrite_wf, State.attest_wf, State.stage_mem, Ans.mem]

/-! ## Reliability and power -/

@[simp] theorem State.rasEvent_wf {d src kind loc n} : Memory.wf (s.rasEvent d src kind loc n).mem := by
  unfold State.rasEvent
  dsimp only
  split
  · exact ok
  · rw [State.modDie_mem]
    exact State.hwWords_wf ok

omit ok in
@[simp] theorem State.countError_mem {d src loc} : (s.countError d src loc).mem = s.mem := by
  simp [State.countError]

omit ok in
@[simp] theorem State.toRetire_mem {d src loc} : (s.toRetire d src loc).mem = s.mem := by
  simp [State.toRetire]

@[simp] theorem execCorrectedError_memOk {die src loc} : (execCorrectedError die src loc s).memOk := by
  simp [execCorrectedError, ok]

omit ok in
@[simp] theorem State.spoil_mem {src loc} : (s.spoil src loc).mem = s.mem := by
  unfold State.spoil
  dsimp only
  (repeat' split) <;> simp

@[simp] theorem execUncorrectableError_memOk {die src loc} : (execUncorrectableError die src loc s).memOk := by
  unfold execUncorrectableError
  dsimp only
  (repeat' split) <;> simp [ok]

omit ok in
@[simp] theorem State.l1LineOut_mem {h} : (s.l1LineOut h).mem = s.mem := by
  unfold State.l1LineOut
  dsimp only
  split <;> simp

@[simp] theorem execRetirement_memOk {die src loc} : (execRetirement die src loc s).memOk := by
  simp [execRetirement, ok]

@[simp] theorem execRowSpareComplete_memOk {die src loc} : (execRowSpareComplete die src loc s).memOk := by
  simp [execRowSpareComplete, ok]

@[simp] theorem execRasClear_memOk {die} : (execRasClear die s).memOk := by
  simp [execRasClear, ok]

@[simp] theorem execPowerTick_memOk {eighthWatts dies} : (execPowerTick eighthWatts dies s).memOk := by
  simp +contextual [execPowerTick, ok]

@[simp] theorem State.critical_wf {d t} : Memory.wf (s.critical d t).mem := by
  simp [State.critical, ok]

@[simp] theorem execThermalEvent_memOk {k} : (execThermalEvent k s).memOk := by
  unfold execThermalEvent
  split <;> simp [ok]

/-! ## The cycle counter -/

omit ok in
@[simp] theorem State.groupCycle_mem {k} : (s.groupCycle k).mem = s.mem := by
  simp [State.groupCycle]

omit ok in
@[simp] theorem State.tapsErr_mem : s.tapsErr.mem = s.mem := by
  unfold State.tapsErr
  grind [State.modDie_mem, foldl_mem]

@[simp] theorem State.clockTick_wf : Memory.wf s.clockTick.mem := by
  unfold State.clockTick
  grind [State.settleGroup_wf, State.nbArrivals_mem, State.nbInvalidate_mem, State.mbRun_wf, State.atsSettle_mem, State.banksTick_mem, State.groupCycle_mem, State.tapsErr_mem, State.settleQueue_wf, foldl_wf]

@[simp] theorem turnAct_wf {m} : Memory.wf (turnAct m s).mem := by
  unfold turnAct
  split <;> simp [ok]

omit ok in
@[simp] theorem State.nextTurn_mem : s.nextTurn.2.mem = s.mem := by
  unfold State.nextTurn
  split <;> simp

omit ok in
@[simp] theorem State.ticked_mem : s.ticked.mem = s.mem := by
  simp [State.ticked]

/-! ## Dispatch -/

/-- The last case is OVER, as in `engRun_memOk`. -/
theorem exec_memOk {i} : Res.memOk (exec i s) := by
  cases i with
  | bemit => exact finish_memOk (ccBemit_wf ok)
  | bemitRl => exact finish_memOk (ccBemit_wf ok)
  | kset => exact execKset_memOk ok
  | bwin => exact execBwin_memOk ok
  | bcancel => exact execBcancel_memOk ok
  | ppop => exact execPpop_memOk ok
  | ppopAq => exact execPpopAq_memOk ok
  | ptry => exact execPtry_memOk ok
  | pflush => exact execPflush_memOk ok
  | bseq => exact execBseq_memOk ok
  | bqdrain => exact finish_memOk (by rwa [ccDrain_mem])
  | split => exact execSplit_memOk ok
  | merge => exact execMerge_memOk ok
  | esend => exact execEsend_memOk ok
  | erun => exact execErun_memOk ok
  | cmprd => exact execCmprd_memOk ok
  | cmpwait => exact execCmpwait_memOk ok
  | cmpdisc => exact execCmpdisc_memOk ok
  | publish => exact execPublish_memOk ok
  | efence => exact finish_memOk (by rwa [ccSendWords_mem])
  | tspawn => exact execTspawn_memOk ok
  | tjoin => exact execTjoin_memOk ok
  | tdone => exact execTdone_memOk ok
  | tyield => exact execTyield_memOk ok
  | tself => exact execTself_memOk ok
  | nbinit => exact execNbinit_memOk ok
  | nbarrive => exact execNbarrive_memOk ok
  | nbwait => exact execNbwait_memOk ok
  | nbinval => exact execNbinval_memOk ok
  | nbstat => exact execNbstat_memOk ok
  | cwarrive => exact execCwarrive_memOk ok
  | cwwait => exact execCwwait_memOk ok
  | cwbcast => exact execCwbcast_memOk ok
  | cwrecv => exact execCwrecv_memOk ok
  | cwrsum => exact finishX_memOk (by rwa [ccReduce_mem])
  | cwrmin => exact finishX_memOk (by rwa [ccReduce_mem])
  | cwrmax => exact finishX_memOk (by rwa [ccReduce_mem])
  | sstep => exact execSstep_memOk ok
  | ldaq => exact execLdaq_memOk ok
  | strl => exact execStrl_memOk ok
  | fences => exact execFences_memOk ok
  | iinval => exact execIinval_memOk ok
  | tmark => exact execTmark_memOk ok
  | ccLoadStore => exact execCcLoadStore_memOk ok
  | lrSc => exact execLrSc_memOk ok
  | amo _ _ aq => exact execAmo_memOk (aq := aq) ok
  | rvFence => exact finish_memOk (by rwa [ccRelease_mem])
  | fenceI => exact execFenceI_memOk ok
  | rvBranch => exact execRvBranch_memOk ok
  | jalr => exact execJalr_memOk ok
  | ebreak => exact execEbreak_memOk ok
  | ecall => exact execEcall_memOk ok
  | ccIllegalInstruction => exact execCcIllegalInstruction_memOk ok
  | rvIntegerInstruction => exact execRvIntegerInstruction_memOk ok
  | ybbaseWrite => exact execYbbaseWrite_memOk ok
  | yscopeWrite => exact execYscopeWrite_memOk ok
  | yxwinWrite => exact execYxwinWrite_memOk ok
  | nop => exact execNop_memOk ok
  | mov => exact show (execMov _ _ _ s).memOk from alu1_memOk ok
  | movi => exact show (execMovi _ _ _ s).memOk from laneMap_memOk ok
  | iadd => exact show (execIadd _ _ _ _ s).memOk from alu2_memOk ok
  | isub => exact show (execIsub _ _ _ _ s).memOk from alu2_memOk ok
  | iaddi => exact show (execIaddi _ _ _ _ s).memOk from alu1_memOk ok
  | imul => exact show (execImul _ _ _ _ s).memOk from alu2_memOk ok
  | imulh => exact show (execImulh _ _ _ _ s).memOk from alu2_memOk ok
  | imulhu => exact show (execImulhu _ _ _ _ s).memOk from alu2_memOk ok
  | imad => exact show (execImad _ _ _ _ _ s).memOk from alu3_memOk ok
  | imin => exact show (execImin _ _ _ _ s).memOk from alu2_memOk ok
  | imax => exact show (execImax _ _ _ _ s).memOk from alu2_memOk ok
  | umin => exact show (execUmin _ _ _ _ s).memOk from alu2_memOk ok
  | umax => exact show (execUmax _ _ _ _ s).memOk from alu2_memOk ok
  | iabs => exact show (execIabs _ _ _ s).memOk from alu1_memOk ok
  | iadds => exact show (execIadds _ _ _ _ _ s).memOk from alu2_memOk ok
  | and => exact show (execAnd _ _ _ _ s).memOk from alu2_memOk ok
  | or => exact show (execOr _ _ _ _ s).memOk from alu2_memOk ok
  | xor => exact show (execXor _ _ _ _ s).memOk from alu2_memOk ok
  | andn => exact show (execAndn _ _ _ _ s).memOk from alu2_memOk ok
  | ltab => exact show (execLtab _ _ _ _ _ _ s).memOk from alu3_memOk ok
  | shl => exact show (execShl _ _ _ _ s).memOk from alu2_memOk ok
  | shr => exact show (execShr _ _ _ _ s).memOk from alu2_memOk ok
  | sar => exact show (execSar _ _ _ _ s).memOk from alu2_memOk ok
  | rotl => exact show (execRotl _ _ _ _ s).memOk from alu2_memOk ok
  | clz => exact show (execClz _ _ _ s).memOk from alu1_memOk ok
  | popc => exact show (execPopc _ _ _ s).memOk from alu1_memOk ok
  | brev => exact show (execBrev _ _ _ s).memOk from alu1_memOk ok
  | bfx => exact show (execBfx _ _ _ _ _ _ s).memOk from alu1_memOk ok
  | bfi => exact show (execBfi _ _ _ _ _ _ s).memOk from alu2_memOk ok
  | sel => exact show (execSel _ _ _ _ _ s).memOk from alu3_memOk ok
  | iadd64 => exact show (execIadd64 _ _ _ _ s).memOk from laneMap_memOk ok
  | isub64 => exact show (execIsub64 _ _ _ _ s).memOk from laneMap_memOk ok
  | shl64 => exact show (execShl64 _ _ _ _ s).memOk from laneMap_memOk ok
  | shr64 => exact show (execShr64 _ _ _ _ s).memOk from laneMap_memOk ok
  | imulw => exact show (execImulw _ _ _ _ _ s).memOk from laneMap_memOk ok
  | icmp => exact show (execIcmp _ _ _ _ _ s).memOk from laneMap_memOk ok
  | icmp64 => exact show (execIcmp64 _ _ _ _ _ s).memOk from laneMap_memOk ok
  | fadd => exact show (execFadd _ _ _ _ _ s).memOk from laneFloat_memOk ok
  | fsub => exact show (execFsub _ _ _ _ _ s).memOk from laneFloat_memOk ok
  | fmul => exact show (execFmul _ _ _ _ _ s).memOk from laneFloat_memOk ok
  | ffma => exact show (execFfma _ _ _ _ _ _ s).memOk from laneFloat_memOk ok
  | fmin => exact show (execFmin _ _ _ _ s).memOk from laneFloat_memOk ok
  | fmax => exact show (execFmax _ _ _ _ s).memOk from laneFloat_memOk ok
  | frcp => exact show (execFrcp _ _ _ s).memOk from laneFloat_memOk ok
  | frsq => exact show (execFrsq _ _ _ s).memOk from laneFloat_memOk ok
  | fsqrt => exact show (execFsqrt _ _ _ _ s).memOk from laneFloat_memOk ok
  | fexp2 => exact show (execFexp2 _ _ _ s).memOk from laneFloat_memOk ok
  | flog2 => exact show (execFlog2 _ _ _ s).memOk from laneFloat_memOk ok
  | fsinpi => exact show (execFsinpi _ _ _ s).memOk from laneFloat_memOk ok
  | fcospi => exact show (execFcospi _ _ _ s).memOk from laneFloat_memOk ok
  | fcmp => exact show (execFcmp _ _ _ _ _ s).memOk from laneFloat_memOk ok
  | fclass => exact show (execFclass _ _ _ s).memOk from laneFloat_memOk ok
  | fcvt => exact show (execFcvt _ _ _ _ _ _ s).memOk from laneFloat_memOk ok
  | frnd => exact show (execFrnd _ _ _ _ s).memOk from laneFloat_memOk ok
  | pkadd => exact show (execPkadd _ _ _ _ _ _ s).memOk from laneFloat_memOk ok
  | pkmul => exact show (execPkmul _ _ _ _ _ _ s).memOk from laneFloat_memOk ok
  | pkfma => exact show (execPkfma _ _ _ _ _ _ _ s).memOk from laneFloat_memOk ok
  | pkdot => exact show (execPkdot _ _ _ _ _ _ _ s).memOk from laneFloat_memOk ok
  | fcvtq => exact show (execFcvtq _ _ _ _ _ _ _ s).memOk from laneFloat_memOk ok
  | plnpack => exact show (execPlnpack _ _ _ _ _ s).memOk from laneFixed_memOk ok
  | plnunpack => exact show (execPlnunpack _ _ _ _ _ _ s).memOk from laneFixed_memOk ok
  | ldb => exact show (execLdb _ _ _ _ _ s).memOk from laneLoad_memOk ok
  | ldbs => exact show (execLdbs _ _ _ _ _ s).memOk from laneLoad_memOk ok
  | ldh => exact show (execLdh _ _ _ _ _ s).memOk from laneLoad_memOk ok
  | ldhs => exact show (execLdhs _ _ _ _ _ s).memOk from laneLoad_memOk ok
  | ldw => exact show (execLdw _ _ _ _ _ s).memOk from laneLoad_memOk ok
  | ldd => exact show (execLdd _ _ _ _ _ s).memOk from laneLoad_memOk ok
  | stb => exact show (execStb _ _ _ _ _ s).memOk from laneStore_memOk ok
  | sth => exact show (execSth _ _ _ _ _ s).memOk from laneStore_memOk ok
  | stw => exact show (execStw _ _ _ _ _ s).memOk from laneStore_memOk ok
  | std => exact show (execStd _ _ _ _ _ s).memOk from laneStore_memOk ok
  | lds => exact execLds_memOk ok
  | sts => exact execSts_memOk ok
  | stx => exact execStx_memOk ok
  | ldp => exact execLdp_memOk ok
  | stp => exact execStp_memOk ok
  | pref => exact execPref_memOk ok
  | aadd => exact show (execAadd _ _ _ _ _ _ s).memOk from laneAtomic_memOk ok
  | amin => exact show (execAmin _ _ _ _ _ _ s).memOk from laneAtomic_memOk ok
  | amax => exact show (execAmax _ _ _ _ _ _ s).memOk from laneAtomic_memOk ok
  | aumin => exact show (execAumin _ _ _ _ _ _ s).memOk from laneAtomic_memOk ok
  | aumax => exact show (execAumax _ _ _ _ _ _ s).memOk from laneAtomic_memOk ok
  | aand => exact show (execAand _ _ _ _ _ _ s).memOk from laneAtomic_memOk ok
  | aor => exact show (execAor _ _ _ _ _ _ s).memOk from laneAtomic_memOk ok
  | axor => exact show (execAxor _ _ _ _ _ _ s).memOk from laneAtomic_memOk ok
  | axchg => exact show (execAxchg _ _ _ _ _ _ s).memOk from laneAtomic_memOk ok
  | aaddf => exact show (execAaddf _ _ _ _ _ _ s).memOk from laneAtomic_memOk ok
  | acas => exact show (execAcas _ _ _ _ _ _ s).memOk from laneCas_memOk ok
  | acas64 => exact show (execAcas64 _ _ _ _ _ _ s).memOk from laneCas_memOk ok
  | acas128 => exact show (execAcas128 _ _ _ _ _ _ s).memOk from laneCas_memOk ok
  | pand => exact show (execPand _ _ _ _ s).memOk from lanePred_memOk ok
  | por => exact show (execPor _ _ _ _ s).memOk from lanePred_memOk ok
  | pxor => exact show (execPxor _ _ _ _ s).memOk from lanePred_memOk ok
  | pandn => exact show (execPandn _ _ _ _ s).memOk from lanePred_memOk ok
  | pset => exact show (execPset _ _ _ s).memOk from lanePred_memOk ok
  | ballot => exact show (execBallot _ _ _ s).memOk from laneFixed_memOk ok
  | pvote => exact show (execPvote _ _ _ _ s).memOk from laneFixed_memOk ok
  | pret => exact execPret_memOk ok
  | xl => exact show (execXl _ _ _ _ _ s).memOk from laneCross_memOk ok
  | scan => exact show (execScan _ _ _ _ _ s).memOk from laneCross_memOk ok
  | reduce => exact show (execReduce _ _ _ _ s).memOk from laneCross_memOk ok
  | compact => exact show (execCompact _ _ _ _ s).memOk from laneCross_memOk ok
  | exit => exact execExit_memOk ok
  | mma => exact execMma_memOk ok
  | mzero => exact execMzero_memOk ok
  | mrd => exact execMrd_memOk ok
  | mwr => exact execMwr_memOk ok
  | mscat => exact execMscat_memOk ok
  | mver => exact show (execMver _ _ _ s).memOk from laneFixed_memOk ok
  | rebal => exact show (execRebal _ _ _ _ _ s).memOk from laneFixed_memOk ok
  | lbound => exact show (execLbound _ _ _ _ _ s).memOk from laneFixed_memOk ok
  | wait => exact execWait_memOk ok
  | fence => exact execFence_memOk ok
  | nbarriveLane => exact execNbarriveLane_memOk ok
  | nbwaitLane => exact execNbwaitLane_memOk ok
  | xmit => exact execXmit_memOk ok
  | xsel => exact show (execXsel _ _ _ _ s).memOk from phaseSel_memOk ok
  | xselF => exact show (execXselF _ _ _ _ _ s).memOk from phaseSel_memOk ok
  | tmarkLane => exact execTmarkLane_memOk ok
  | brk => exact execBrk_memOk ok
  | cntr => exact show (execCntr _ _ _ s).memOk from laneFixed_memOk ok
  | unassignedLaneOpcode => exact execUnassignedLaneOpcode_memOk ok
  | litPush => exact show (execLitPush _ s).memOk from engPure_memOk ok
  | litContinue => exact show (execLitContinue _ s).memOk from engPure_memOk ok
  | engineNop => exact show (execEngineNop s).memOk from engPure_memOk ok
  | dup => exact show (execDup s).memOk from engPure_memOk ok
  | drop => exact show (execDrop s).memOk from engPure_memOk ok
  | swap => exact show (execSwap s).memOk from engPure_memOk ok
  | neg => exact show (execNeg s).memOk from engPure_memOk ok
  | shli => exact execShli_memOk ok
  | add => exact show (execAdd s).memOk from engPure_memOk ok
  | gccp => exact show (execGccp _ s).memOk from engPure_memOk ok
  | post => exact execPost_memOk ok
  | arrive => exact execArrive_memOk ok
  | mode => exact execMode_memOk ok
  | efenceWord => exact execEfenceWord_memOk ok
  | accst => exact execAccst_memOk ok
  | accld => exact execAccld_memOk ok
  | accclr => exact execAccclr_memOk ok
  | vmode => exact execVmode_memOk ok
  | spgemm => exact execSpgemm_memOk ok
  | fibre => exact execFibre_memOk ok
  | cpy => exact execCpy_memOk ok
  | srct => exact execSrct_memOk ok
  | dstt => exact execDstt_memOk ok
  | box => exact execBox_memOk ok
  | tcpy => exact execTcpy_memOk ok
  | tgath => exact execTgath_memOk ok
  | tscat => exact execTscat_memOk ok
  | bloadb => exact execBloadb_memOk ok
  | slred => exact execSlred_memOk ok
  | zero => exact execZero_memOk ok
  | xch => exact execXch_memOk ok
  | strm => exact execStrm_memOk ok
  | strmt => exact execStrmt_memOk ok
  | ostrm => exact execOstrm_memOk ok
  | scloseIq => exact execScloseIq_memOk ok
  | scloseOq => exact execScloseOq_memOk ok
  | rvtab => exact execRvtab_memOk ok
  | rxin => exact execRxin_memOk ok
  | rprog => exact execRprog_memOk ok
  | ryout => exact execRyout_memOk ok
  | rdlim => exact execRdlim_memOk ok
  | reval => exact execReval_memOk ok
  | dispatch => exact execDispatch_memOk ok
  | copyRecordDispatch => exact execCopyRecordDispatch_memOk ok
  | copyRecordComplete => exact execCopyRecordComplete_memOk ok
  | joinDecrement => exact execJoinDecrement_memOk ok
  | fanoutWalk => exact execFanoutWalk_memOk ok
  | readyPush => exact execReadyPush_memOk ok
  | blockTake => exact execBlockTake_memOk ok
  | ksetApply => exact execKsetApply_memOk ok
  | windowChangeApply => exact execWindowChangeApply_memOk ok
  | passStart => exact execPassStart_memOk ok
  | fixedLatencyWriteback => exact execFixedLatencyWriteback_memOk ok
  | laneLoadComplete => exact execLaneLoadComplete_memOk ok
  | oqLoadPush => exact execOqLoadPush_memOk ok
  | laneStoreComplete => exact execLaneStoreComplete_memOk ok
  | tileOpComplete => exact execTileOpComplete_memOk ok
  | tileOpStart => exact execTileOpStart_memOk ok
  | prqPush => exact execPrqPush_memOk ok
  | stxArrive => exact execStxArrive_memOk ok
  | exchangeSwap => exact execExchangeSwap_memOk ok
  | engineTurn => exact execEngineTurn_memOk ok
  | scriptFetchAppend => exact execScriptFetchAppend_memOk ok
  | copyCommandStart => exact show (execCopyCommandStart _ s).memOk from execCopyCommandStart_memOk ok
  | commandElementFault => exact execCommandElementFault_memOk ok
  | engineCommandComplete => exact execEngineCommandComplete_memOk ok
  | markerPerform => exact execMarkerPerform_memOk ok
  | streamOpen => exact execStreamOpen_memOk ok
  | streamElement => exact execStreamElement_memOk ok
  | causewayRelease => exact execCausewayRelease_memOk ok
  | reductionRelease => exact execReductionRelease_memOk ok
  | broadcastArrive => exact execBroadcastArrive_memOk ok
  | bcastHeldSend => exact execBcastHeldSend_memOk ok
  | phaseBlockStart => exact execPhaseBlockStart_memOk ok
  | xmitBeatArrive => exact execXmitBeatArrive_memOk ok
  | phaseEnd => exact execPhaseEnd_memOk ok
  | phaseAbort => exact execPhaseAbort_memOk ok
  | sluiceSegmentEmit => exact execSluiceSegmentEmit_memOk ok
  | sluiceRootStore => exact execSluiceRootStore_memOk ok
  | publishFlip => exact execPublishFlip_memOk ok
  | preemptSignal => exact execPreemptSignal_memOk ok
  | preemptStop => exact execPreemptStop_memOk ok
  | trapRecordWrite => exact execTrapRecordWrite_memOk ok
  | faultEntryWrite => exact execFaultEntryWrite_memOk ok
  | watchdogExpire => exact execWatchdogExpire_memOk ok
  | pageWalk => exact execPageWalk_memOk ok
  | gccResync => exact execGccResync_memOk ok
  | clockStepChange => exact execClockStepChange_memOk ok
  | sliceRebase => exact execSliceRebase_memOk ok
  | rd => exact execRd_memOk ok
  | rnw => exact execRnw_memOk ok
  | wr => exact execWr_memOk ok
  | wb => exact execWb_memOk ok
  | at_ => exact execAt_memOk ok
  | dat => exact execDat_memOk ok
  | rnwok => exact execRnwok_memOk ok
  | wack => exact execWack_memOk ok
  | nack => exact execNack_memOk ok
  | err => exact execErr_memOk ok
  | rec_ => exact execRec_memOk ok
  | trec => exact execTrec_memOk ok
  | zrec => exact execZrec_memOk ok
  | pack => exact execPack_memOk ok
  | fillReturn => exact execFillReturn_memOk ok
  | l2Evict => exact execL2Evict_memOk ok
  | birsp => exact execBirsp_memOk ok
  | hostSnoop => exact execHostSnoop_memOk ok
  | hostCxlMemAccess => exact execHostCxlMemAccess_memOk ok
  | bar1Access => exact execBar1Access_memOk ok
  | atsCompletion => exact execAtsCompletion_memOk ok
  | atsInvalidate => exact execAtsInvalidate_memOk ok
  | prgSuccess => exact execPrgSuccess_memOk ok
  | prgInvalidRequest => exact execPrgInvalidRequest_memOk ok
  | prgResponseFailure => exact execPrgResponseFailure_memOk ok
  | pcieAtomicCompletion => exact execPcieAtomicCompletion_memOk ok
  | flitError => exact execFlitError_memOk ok
  | launchPush => exact execLaunchPush_memOk ok
  | launchClear => exact execLaunchClear_memOk ok
  | partitionStart => exact execPartitionStart_memOk ok
  | partitionStop => exact execPartitionStop_memOk ok
  | partitionDrainDone => exact execPartitionDrainDone_memOk ok
  | pstepWrite => exact execPstepWrite_memOk ok
  | tactResume => exact execTactResume_memOk ok
  | tactKillContext => exact execTactKillContext_memOk ok
  | tactKillPartition => exact execTactKillPartition_memOk ok
  | tactDump => exact execTactDump_memOk ok
  | kill => exact execKill_memOk ok
  | killAll => exact execKillAll_memOk ok
  | killDone => exact execKillDone_memOk ok
  | invcmdRange => exact execInvcmdRange_memOk ok
  | invcmdPartition => exact execInvcmdPartition_memOk ok
  | invcmdTensor => exact execInvcmdTensor_memOk ok
  | invalidationComplete => exact execInvalidationComplete_memOk ok
  | replay => exact execReplay_memOk ok
  | replayRefuse => exact execReplayRefuse_memOk ok
  | zcmd => exact execZcmd_memOk ok
  | zeroComplete => exact execZeroComplete_memOk ok
  | sweeperStep => exact execSweeperStep_memOk ok
  | budgetPeriod => exact execBudgetPeriod_memOk ok
  | debugHalt => exact execDebugHalt_memOk ok
  | haltReached => exact execHaltReached_memOk ok
  | debugResume => exact execDebugResume_memOk ok
  | debugStep => exact execDebugStep_memOk ok
  | posSample => exact execPosSample_memOk ok
  | traceBaseWrite => exact execTraceBaseWrite_memOk ok
  | traceLossResync => exact execTraceLossResync_memOk ok
  | qpload => exact execQpload_memOk ok
  | qpSendDoorbell => exact execQpSendDoorbell_memOk ok
  | qpReceiveDoorbell => exact execQpReceiveDoorbell_memOk ok
  | roceSendReceive => exact execRoceSendReceive_memOk ok
  | roceWriteReceive => exact execRoceWriteReceive_memOk ok
  | roceReadReceive => exact execRoceReadReceive_memOk ok
  | qpEntryComplete => exact execQpEntryComplete_memOk ok
  | qpRetryTimeout => exact execQpRetryTimeout_memOk ok
  | peerRequest => exact execPeerRequest_memOk ok
  | peerRefusal => exact execPeerRefusal_memOk ok
  | mbReadCert => exact execMbReadCert_memOk ok
  | mbAttest => exact execMbAttest_memOk ok
  | mbStageRecord => exact execMbStageRecord_memOk ok
  | boot => exact execBoot_memOk
  | powerLoss => exact execPowerLoss_memOk
  | correctedError => exact execCorrectedError_memOk ok
  | uncorrectableError => exact execUncorrectableError_memOk ok
  | retirement => exact execRetirement_memOk ok
  | rowSpareComplete => exact execRowSpareComplete_memOk ok
  | rasClear => exact execRasClear_memOk ok
  | powerTick => exact execPowerTick_memOk ok
  | thermalEvent => exact execThermalEvent_memOk ok
  | registerWrite => exact execRegisterWrite_memOk ok
  | bqEntryOtherKind => exact execBqEntryOtherKind_memOk ok
  | programTimestampWaitEnd => exact execProgramTimestampWaitEnd_memOk ok
  | exchangeWindowSettingArrive => exact execExchangeWindowSettingArrive_memOk ok
  | linkFailure => exact execLinkFailure_memOk ok
  | peerResponse => exact execPeerResponse_memOk ok
  | pcieCompletion => exact execPcieCompletion_memOk ok
  | pfcPauseFrame => exact execPfcPauseFrame_memOk ok
  | _ => exact show (execOver s).memOk from engPure_memOk ok

/-! ## One step -/

theorem step_memOk : Res.memOk (step s) := by
  have ht : Memory.wf (turnAct s.nextTurn.1 s.nextTurn.2.ticked).mem := turnAct_wf (by simp [ok])
  unfold step
  split
  · cases e : turnAct s.nextTurn.1 s.nextTurn.2.ticked with
    | run i t => rw [e] at ht; exact exec_memOk ht
    | done t => rw [e] at ht; exact ht
  · rfl

end

/-- Settles O59: a step is a turn's choice and the execution of what it chose, and each leaves a memory in canonical form. -/
theorem memoryStaysCanonical : Obligations.MemoryStaysCanonical := by
  intro s t ok h
  have hs : Res.memOk (step s) := step_memOk ok
  rw [h] at hs
  exact hs

end Sys2Proof.Machine
end

section
/-! PROOFS. The step of a hearth under a ceiling that is no step code (O37). -/

namespace Sys2Proof.Machine

/-- A die whose throttle ceiling is 5, above every step code, with a hearth of a running partition at step 0. Of its steps the first alone is enabled;
the byte behind its four VBIN codes, which belongs to the next die, is not 0. -/
def overThrottled : State :=
  { boot := { record := List.replicate 48 0 ++ [1, 0, 0, 0, 1] }, parts := [(0, { state := 1, hset := 1 })], dies := [(0, { throttle := 5 })] }

/-- The search below the ceiling begins at the byte of the next die, and finds it enabled. -/
theorem overThrottled_stepWanted : overThrottled.stepWanted 0 = 4 := by decide

theorem overThrottled_partOfHearth : overThrottled.partOfHearth 0 = some 0 := by decide

/-- Refutes O37: the model takes any number as a ceiling. Under 5, where only step 0 is enabled, the hearth takes the "step" 4, since its search from the ceiling
downwards reads a VBIN code of the next die first; the statement has it take step 0. -/
theorem not_engineTurnsAndClocks : ¬ Obligations.EngineTurnsAndClocks := by
  unfold Obligations.EngineTurnsAndClocks
  rintro ⟨-, hclock⟩
  obtain ⟨-, -, -, -, -, -, -, hstep, -⟩ := hclock overThrottled 0 0 0 0 0 0 {} {}
  obtain ⟨-, -, hbelow⟩ := hstep 0 overThrottled_partOfHearth
  have hoff : ∀ j, 0 < j → j < 4 → natOfBytes ((overThrottled.boot.record.drop (48 + 4 * (0 / 48) + j)).take 1) = 0 := by
    intro j h0 h4
    interval_cases j <;> rfl
  have h := hbelow (by decide) (by decide) (by decide) hoff
  rw [overThrottled_stepWanted] at h
  exact absurd h (by decide)

end Sys2Proof.Machine
end

section
/-! PROOFS. Tile operations: cells, scratchpad bytes, the order of an MSCAT's stores (O26). -/

namespace Sys2Proof.Machine

/-! ## Folds -/

section
variable {σ ι κ γ : Type} {F : σ → ι → σ} {P : σ → Prop} {l : List ι}

/-- What every step keeps, a fold keeps. -/
theorem foldl_invariant {s : σ} (hs : P s) (hF : ∀ t, P t → ∀ i ∈ l, P (F t i)) : P (l.foldl F s) := by
  induction l generalizing s with
  | nil => exact hs
  | cons i r ih => exact ih (hF s hs i List.mem_cons_self) fun t ht j hj => hF t ht j (List.mem_cons_of_mem i hj)

/-- Steps that each change the reading of one key, no two the same: a key that no step has reads as before, a step's own key reads as it left it.
`ok` bounds the keys that are read. -/
theorem foldl_keyed_on [DecidableEq κ] {key : ι → κ} {ok : κ → Prop} {rd : σ → κ → γ} {new : ι → γ → γ} {s : σ} (hs : P s)
    (hP : ∀ t, P t → ∀ i ∈ l, P (F t i))
    (hrd : ∀ t, P t → ∀ i ∈ l, ∀ k, ok k → rd (F t i) k = if k = key i then new i (rd t k) else rd t k) (hn : (l.map key).Nodup) :
    (∀ k, ok k → k ∉ l.map key → rd (l.foldl F s) k = rd s k) ∧ ∀ i ∈ l, ok (key i) → rd (l.foldl F s) (key i) = new i (rd s (key i)) := by
  induction l generalizing s with
  | nil => exact ⟨fun _ _ _ => rfl, fun i hi => absurd hi List.not_mem_nil⟩
  | cons j r ih =>
    rw [List.map_cons, List.nodup_cons] at hn
    obtain ⟨hj, hn⟩ := hn
    obtain ⟨hother, hown⟩ := ih (hP s hs j List.mem_cons_self) (fun t ht i hi => hP t ht i (List.mem_cons_of_mem j hi))
      (fun t ht i hi => hrd t ht i (List.mem_cons_of_mem j hi)) hn
    have h1 := hrd s hs j List.mem_cons_self
    refine ⟨fun k hok hk => ?_, fun i hi hok => ?_⟩
    · rw [List.map_cons, List.mem_cons, not_or] at hk
      rw [List.foldl_cons, hother k hok hk.2, h1 k hok, if_neg hk.1]
    · rcases List.mem_cons.mp hi with rfl | hi
      · rw [List.foldl_cons, hother _ hok hj, h1 _ hok, if_pos rfl]
      · have hne : key i ≠ key j := fun e => hj (e ▸ List.mem_map_of_mem hi)
        rw [List.foldl_cons, hown i hi hok, h1 _ hok, if_neg hne]

theorem foldl_keyed [DecidableEq κ] {key : ι → κ} {rd : σ → κ → γ} {new : ι → γ → γ} {s : σ}
    (hrd : ∀ t, ∀ i ∈ l, ∀ k, rd (F t i) k = if k = key i then new i (rd t k) else rd t k) (hn : (l.map key).Nodup) :
    (∀ k, k ∉ l.map key → rd (l.foldl F s) k = rd s k) ∧ ∀ i ∈ l, rd (l.foldl F s) (key i) = new i (rd s (key i)) := by
  obtain ⟨hother, hown⟩ := foldl_keyed_on (P := fun _ => True) (ok := fun _ => True) (s := s) trivial (fun _ _ _ _ => trivial)
    (fun t _ i hi k _ => hrd t i hi k) hn
  exact ⟨fun k => hother k trivial, fun i hi => hown i hi trivial⟩

end

/-! ## Cells -/

section
variable (g : Group) (b r c v n : Nat)

/-- A cell by its key. -/
def Group.cell (g : Group) (n : Nat) : Nat := (Map.get 0 g.acc n).toNat

theorem Group.accAt_eq_cell : g.accAt b r c = g.cell (accKey b r c) := rfl

theorem accKey_inj {b r c b' r' c' : Nat} (hr : r < 32) (hc : c < 32) (hr' : r' < 32) (hc' : c' < 32) :
    accKey b r c = accKey b' r' c' ↔ b = b' ∧ r = r' ∧ c = c' := by
  unfold accKey
  omega

theorem Group.cell_setAcc : (g.setAcc b r c v).cell n = if n = accKey b r c then v % 2 ^ 32 else g.cell n := by
  unfold Group.cell Group.setAcc
  split
  · next h => subst h; simp
  · next h => simp only [Map.get_set_ne 0 g.acc (BitVec.ofNat 32 v) h]

/-- The part of a group that no write of cells changes. -/
def Group.aside (g : Group) : List LaneOp × Map Word × Map Nat := (g.ops, g.v, g.ver)

@[simp] theorem Group.aside_setAcc : (g.setAcc b r c v).aside = g.aside := rfl

end

/-! ## Bytes of the scratchpad -/

section
variable (hh : Hearth) (a x : Nat) (bs : List Byte)

theorem Hearth.putPad_pad : Map.get 0 (hh.putPad a bs).pad x = if a ≤ x then bs.getD (x - a) (Map.get 0 hh.pad x) else Map.get 0 hh.pad x := by
  induction bs generalizing hh a with
  | nil => simp [Hearth.putPad]
  | cons b r ih =>
    rw [Hearth.putPad, ih]
    rcases Nat.lt_trichotomy x a with h | rfl | h
    · rw [if_neg (by omega), if_neg (by omega)]
      exact Map.get_set_ne 0 hh.pad b (by omega)
    · rw [if_neg (by omega), if_pos (Nat.le_refl x), Nat.sub_self]
      simp
    · rw [if_pos (by omega), if_pos (by omega), show x - a = (x - (a + 1)) + 1 by omega, List.getD_cons_succ]
      congr 1
      exact Map.get_set_ne 0 hh.pad b (by omega)

theorem Hearth.setPad_pad : Map.get 0 (hh.setPad a bs).pad x = if a ≤ x then bs.getD (x - a) (Map.get 0 hh.pad x) else Map.get 0 hh.pad x := by
  rw [Hearth.setPad, Hearth.putPad_pad]

theorem Hearth.setPad_pad_outside (h : x < a ∨ a + bs.length ≤ x) : Map.get 0 (hh.setPad a bs).pad x = Map.get 0 hh.pad x := by
  rw [Hearth.setPad_pad]
  split
  · exact List.getD_eq_default _ _ (by omega)
  · rfl

/-- A number reads as it was written. -/
theorem Hearth.padNum_setPad (v n : Nat) : (hh.setPad a (bytesOf v n)).padNum a n = v % 2 ^ (8 * n) := by
  have hb : (natsFrom a n).map (Map.get 0 (hh.setPad a (bytesOf v n)).pad) = bytesOf v n := by
    rw [bytesOf_eq_map_range, natsFrom_eq_map_range, List.map_map]
    refine List.map_congr_left fun i hi => ?_
    have hi := List.mem_range.mp hi
    rw [Function.comp_apply, Hearth.setPad_pad, if_pos (by omega), List.getD_eq_getElem?_getD, List.getElem?_map]
    simp [hi]
  rw [Hearth.padNum, hb, natOfBytes_bytesOf]

theorem Hearth.padNum_setPad_apart {n : Nat} (h : x + n ≤ a ∨ a + bs.length ≤ x) : (hh.setPad a bs).padNum x n = hh.padNum x n := by
  unfold Hearth.padNum
  congr 1
  refine List.map_congr_left fun y hy => ?_
  have := mem_natsFrom.mp hy
  exact Hearth.setPad_pad_outside hh a y bs (by omega)

end

/-! ## Free orders -/

theorem dropAt_perm {α : Type} {l : List α} {i : Nat} {a : α} (h : l[i]? = some a) : (a :: dropAt l i).Perm l := by
  induction l generalizing i with
  | nil => simp at h
  | cons b r ih =>
    cases i with
    | zero => simp only [List.getElem?_cons_zero, Option.some.injEq] at h; subst h; exact .refl _
    | succ i => exact (List.Perm.swap b a _).trans ((ih h).cons b)

/-- A free order has the list's elements. -/
theorem freeOrder_perm {α : Type} (seed f : Nat) (l : List α) : (freeOrder seed f l).Perm l := by
  induction f generalizing l with
  | zero => rw [freeOrder]
  | succ f ih =>
    match l with
    | [] => exact .refl _
    | [a] => exact .refl _
    | a :: b :: r =>
      simp only [freeOrder]
      split
      · next c h => exact ((ih _).cons c).trans (dropAt_perm h)
      · exact .refl _

end Sys2Proof.Machine
end

section
/-! PROOFS. Tile operations: their start and their completion (O26). -/

namespace Sys2Proof.Machine

/-- A change of a group that does the same to its present record. -/
theorem State.modGroup_congr {s : State} {k : Nat} {f f' : Group → Group} (h : f (s.group k) = f' (s.group k)) :
    s.modGroup k f = s.modGroup k f' := by
  rw [State.group] at h
  simp only [State.modGroup, Map.mod, h]

/-- An operation heads the operations of its group: it is a tile operation that is not done, and was issued before the others. -/
def Group.leads (gr : Group) (o : LaneOp) (rest : List LaneOp) : Prop :=
  gr.ops = o :: rest ∧ (∀ p ∈ rest, o.id < p.id) ∧ o.cls = .t ∧ o.done = false

section
variable {s : State} {h g : Nat} {o : LaneOp} {rest : List LaneOp}

/-- A change by the identifier of the first operation changes it alone. -/
theorem map_first_op (hid : ∀ p ∈ rest, o.id < p.id) (f : LaneOp → LaneOp) :
    (o :: rest).map (fun p => if p.id = o.id then f p else p) = f o :: rest := by
  rw [List.map_cons, if_pos rfl]
  congr 1
  refine (List.map_congr_left fun p hp => ?_).trans (List.map_id rest)
  exact if_neg (Nat.ne_of_gt (hid p hp))

/-! ## The start -/

theorem execTileOpStart_starts (hl : ((s.feedStep h g).group (ckey h g)).leads o rest) (hs : o.started = false)
    (hf : ∀ f off, o.tile = some (.mma f off) → o.fed = true) (hw : (s.feedStep h g).tileWaits h g o = false)
    (hh : (s.feedStep h g).tileHeld h o = false) :
    exec (.tileOpStart h g) s = .next (((s.feedStep h g).modGroup (ckey h g) (fun gr =>
      { gr with ops := { o with started := true, t0 := (s.feedStep h g).gcc } :: rest })).modHearth h (fun hh => hh.bankAsk g (hh.scatUnits o))) := by
  obtain ⟨hops, hid, hcls, hdone⟩ := hl
  show execTileOpStart h g s = _
  unfold execTileOpStart
  dsimp only
  rw [hops, List.filter_cons_of_pos (by simp [hcls, hdone])]
  dsimp only
  rw [if_neg]
  · refine congrArg (fun t : State => Host.Outcome.next (t.modHearth h _)) (State.modGroup_congr ?_)
    rw [hops, map_first_op hid]
  · rw [hs, hw, hh]
    split
    · next f off ht => simp [hf f off ht]
    · simp

theorem execTileOpStart_stays (hl : ((s.feedStep h g).group (ckey h g)).leads o rest)
    (hw : o.started = true ∨ ((∃ f off, o.tile = some (.mma f off)) ∧ o.fed = false) ∨ (s.feedStep h g).tileWaits h g o = true
      ∨ (s.feedStep h g).tileHeld h o = true) : exec (.tileOpStart h g) s = .next (s.feedStep h g) := by
  obtain ⟨hops, hid, hcls, hdone⟩ := hl
  show execTileOpStart h g s = _
  unfold execTileOpStart
  dsimp only
  rw [hops, List.filter_cons_of_pos (by simp [hcls, hdone])]
  dsimp only
  rw [if_pos]
  rcases hw with hw | ⟨⟨f, off, ht⟩, hw⟩ | hw | hw
  · simp [hw]
  · simp [ht, hw]
  · simp [hw]
  · simp [hw]

/-! ## The completion -/

/-- The first operation leaves its group's count. -/
def Group.finish (gr : Group) (rest : List LaneOp) : Group := { gr with ops := retireOps [] rest }

theorem Group.retire_first {gr : Group} (hops : gr.ops = o :: rest) (hid : ∀ p ∈ rest, o.id < p.id) :
    Group.retire { gr with ops := gr.ops.map (fun p => if p.id = o.id then { p with done := true } else p) } = gr.finish rest := by
  rw [hops, map_first_op hid]
  rfl

section
variable {k : TileK} (hl : (s.group (ckey h g)).leads o rest) (hs : o.started = true) (ht : o.tile = some k)
include hl hs ht

theorem execTileOpComplete_waits (hw : s.gcc < o.t0 + tileTime k ∨ s.scattering h g o = true) :
    exec (.tileOpComplete h g) s = .next s := by
  obtain ⟨hops, hid, hcls, hdone⟩ := hl
  show execTileOpComplete h g s = _
  unfold execTileOpComplete
  dsimp only
  rw [hops, List.find?_cons_of_pos (by simp [hcls, hdone, hs])]
  dsimp only
  rw [if_pos]
  simpa [ht] using hw

variable (hd : o.t0 + tileTime k ≤ s.gcc) (hsc : s.scattering h g o = false)
include hd hsc

theorem execTileOpComplete_bad {a : Nat} (hb : (s.hearth h).mmaBad o = some a) :
    exec (.tileOpComplete h g) s = .next ((s.modGroup (ckey h g) (fun gr => { gr with ops := retireOps [] rest })).takeTrap h g
      { cause := 0x0F, agent := 1, d8 := a, mask := maskOf (o.lanes.map (·.1)), who := .group h g
        slot := ((s.group (ckey h g)).blk.getD {}).slot, pos := some (o.pass * 2 ^ 28 + o.word * 2 ^ 16 + o.seq) }) := by
  obtain ⟨hops, hid, hcls, hdone⟩ := hl
  show execTileOpComplete h g s = _
  unfold execTileOpComplete
  dsimp only
  rw [hops, List.find?_cons_of_pos (by simp [hcls, hdone, hs])]
  dsimp only
  rw [if_neg (by simp [ht, hsc, hd]), hb]
  dsimp only
  rw [State.modGroup_congr (f' := fun gr => { gr with ops := retireOps [] rest }) (Group.retire_first hops hid), State.modGroup_group_self]

theorem execTileOpComplete_done (hb : (s.hearth h).mmaBad o = none) (hp : ((tilePerform o s h g).group (ckey h g)).ops = o :: rest) :
    exec (.tileOpComplete h g) s = .next ((tilePerform o s h g).modGroup (ckey h g) (fun gr =>
      (if bumps k && !o.lanes.isEmpty then gr.bump o.bank else gr).finish rest)) := by
  obtain ⟨hops, hid, hcls, hdone⟩ := hl
  show execTileOpComplete h g s = _
  unfold execTileOpComplete
  dsimp only
  rw [hops, List.find?_cons_of_pos (by simp [hcls, hdone, hs])]
  dsimp only
  rw [if_neg (by simp [ht, hsc, hd]), hb]
  dsimp only
  rw [ht, Option.getD_some]
  refine congrArg Host.Outcome.next (State.modGroup_congr (Group.retire_first ?_ hid))
  split
  · exact hp
  · exact hp

end
end
end Sys2Proof.Machine
end

section
/-! PROOFS. Tile operations: what each writes (O26). -/

namespace Sys2Proof.Machine

/-- The cells that an operation with some lanes writes: its lanes with the 32 columns of each. -/
def laneCells (lanes : List (Nat × Word)) : List ((Nat × Word) × Nat) := lanes.product (natsFrom 0 32)

theorem natsFrom_nodup (a n : Nat) : (natsFrom a n).Nodup := by
  rw [natsFrom_eq_map_range]
  exact List.nodup_range.map fun i j h => Nat.add_left_cancel h

theorem mem_laneCells {lanes : List (Nat × Word)} {p : (Nat × Word) × Nat} : p ∈ laneCells lanes ↔ p.1 ∈ lanes ∧ p.2 < 32 := by
  obtain ⟨q, c⟩ := p
  simp [laneCells, mem_natsFrom]

/-- Lane by lane and column by column is cell by cell. -/
theorem foldl_laneCells {σ : Type} (F : σ → (Nat × Word) × Nat → σ) (lanes : List (Nat × Word)) (s : σ) :
    lanes.foldl (fun s q => (natsFrom 0 32).foldl (fun s c => F s (q, c)) s) s = (laneCells lanes).foldl F s := by
  simp only [laneCells, List.product, List.foldl_flatMap, List.foldl_map]

section
variable {lanes : List (Nat × Word)} (hn : (lanes.map (·.1)).Nodup)
include hn

theorem laneCells_nodup : (laneCells lanes).Nodup := (List.Nodup.of_map _ hn).product (natsFrom_nodup 0 32)

theorem laneCells_keys_nodup (b : Nat) (h32 : ∀ q ∈ lanes, q.1 < 32) : ((laneCells lanes).map (fun p => accKey b p.1.1 p.2)).Nodup := by
  refine (laneCells_nodup hn).map_on fun p hp p' hp' he => ?_
  obtain ⟨hq, hc⟩ := mem_laneCells.mp hp
  obtain ⟨hq', hc'⟩ := mem_laneCells.mp hp'
  obtain ⟨-, hr, hcc⟩ := (accKey_inj (h32 _ hq) hc (h32 _ hq') hc').mp he
  exact Prod.ext (List.inj_on_of_nodup_map hn hq hq' hr) hcc

end

/-- An operation has written the cells of its lanes, each from its former value, and nothing else of the group but flags. -/
def LaneOp.wroteCells (o : LaneOp) (new : Nat × Word → Nat → Nat → Nat) (gr gr' : Group) : Prop :=
  gr'.aside = gr.aside
  ∧ (∀ b r c, r < 32 → c < 32 → (b ≠ o.bank ∨ r ∉ o.lanes.map (·.1)) → gr'.accAt b r c = gr.accAt b r c)
  ∧ ∀ q ∈ o.lanes, ∀ c, c < 32 → gr'.accAt o.bank q.1 c = new q c (gr.accAt o.bank q.1 c)

section
variable {o : LaneOp} (hn : (o.lanes.map (·.1)).Nodup) (h32 : ∀ q ∈ o.lanes, q.1 < 32)
include hn h32

/-- Steps that write one cell of the operation each, from its former value. -/
theorem LaneOp.wroteCells_foldl {F : Group → (Nat × Word) × Nat → Group} {new : Nat × Word → Nat → Nat → Nat} (gr : Group)
    (ha : ∀ t p, (F t p).aside = t.aside)
    (hF : ∀ t p n, (F t p).cell n = if n = accKey o.bank p.1.1 p.2 then new p.1 p.2 (t.cell n) else t.cell n) :
    o.wroteCells new gr ((laneCells o.lanes).foldl F gr) := by
  obtain ⟨hother, hown⟩ := foldl_keyed (rd := Group.cell) (new := fun p => new p.1 p.2) (s := gr) (fun t p _ n => hF t p n)
    (laneCells_keys_nodup hn o.bank h32)
  refine ⟨foldl_invariant (P := fun t : Group => t.aside = gr.aside) rfl fun t ht p _ => (ha t p).trans ht, fun b r c hr hc hne => ?_, fun q hq c hc => ?_⟩
  · refine hother _ fun hmem => ?_
    obtain ⟨p, hp, he⟩ := List.mem_map.mp hmem
    obtain ⟨hq, hc'⟩ := mem_laneCells.mp hp
    obtain ⟨hb, hr', -⟩ := (accKey_inj (h32 _ hq) hc' hr hc).mp he
    exact hne.elim (fun hb' => hb' hb.symm) fun hr'' => hr'' (hr' ▸ List.mem_map_of_mem hq)
  · exact hown (q, c) (mem_laneCells.mpr ⟨hq, hc⟩)

/-- The A row that an MMA reads for a lane: a byte that a later STS has replaced is the one before it (R60, R63). -/
def LaneOp.rowOf (o : LaneOp) (hh : Hearth) (f : Nat) (q : Nat × Word) : List Byte :=
  (((hh.under o).padBytes q.2.toNat (fmtHalf f 0).span).zipIdx).map (fun z => (Map.find? o.keep (q.2.toNat + z.2)).getD z.1)

/-- The new value of a cell of an MMA with its flags. -/
def LaneOp.mmaNew (o : LaneOp) (hh : Hearth) (f off : Nat) (q : Nat × Word) (c old : Nat) : Nat × Nat :=
  mmaCell f o.z (fun i => (o.rowOf hh f q).getD i 0) (fun i => (hh.bstBytes c off (fmtHalf f 1).span).getD i 0) old

theorem mma_wroteCells (hh : Hearth) (f off : Nat) (gr : Group) :
    o.wroteCells (fun q c old => (o.mmaNew hh f off q c old).1 % 2 ^ 32) gr (o.lanes.foldl (mmaRow (hh.under o) o f off) gr) := by
  have hfold := foldl_laneCells (fun (t : Group) p => { t.setAcc o.bank p.1.1 p.2 (o.mmaNew hh f off p.1 p.2 (t.accAt o.bank p.1.1 p.2)).1 with
    fflags := t.fflags ||| (o.mmaNew hh f off p.1 p.2 (t.accAt o.bank p.1.1 p.2)).2 }) o.lanes gr
  rw [show o.lanes.foldl (mmaRow (hh.under o) o f off) gr = _ from hfold]
  refine LaneOp.wroteCells_foldl hn h32 gr (fun t p => rfl) fun t p n => ?_
  refine (Group.cell_setAcc t o.bank p.1.1 p.2 _ n).trans ?_
  split
  · next h => rw [h, Group.accAt_eq_cell]
  · rfl

theorem mzero_wroteCells (gr : Group) :
    o.wroteCells (fun _ _ _ => 0) gr (o.lanes.foldl (fun gr q => (natsFrom 0 32).foldl (fun gr c => gr.setAcc o.bank q.1 c 0) gr) gr) := by
  rw [foldl_laneCells (fun (t : Group) p => t.setAcc o.bank p.1.1 p.2 0)]
  exact LaneOp.wroteCells_foldl hn h32 gr (fun t p => rfl) fun t p n => t.cell_setAcc o.bank p.1.1 p.2 0 n

theorem mwr_wroteCells {col : Nat} (hcol : col < 32) (gr : Group) :
    o.wroteCells (fun q c old => if c = col then q.2.toNat else old) gr (o.lanes.foldl (fun gr q => gr.setAcc o.bank q.1 col q.2.toNat) gr) := by
  have hkeys : (o.lanes.map (fun q => accKey o.bank q.1 col)).Nodup := by
    refine (List.Nodup.of_map _ hn).map_on fun q hq q' hq' he => ?_
    exact List.inj_on_of_nodup_map hn hq hq' ((accKey_inj (h32 q hq) hcol (h32 q' hq') hcol).mp he).2.1
  obtain ⟨hother, hown⟩ := foldl_keyed (F := fun t q => t.setAcc o.bank q.1 col q.2.toNat) (rd := Group.cell) (new := fun q _ => q.2.toNat) (s := gr)
    (fun t q _ n => by rw [Group.cell_setAcc, Nat.mod_eq_of_lt q.2.isLt]) hkeys
  have hmem {b r c : Nat} (hr : r < 32) (hc : c < 32) (h : accKey b r c ∈ o.lanes.map (fun q => accKey o.bank q.1 col)) :
      b = o.bank ∧ r ∈ o.lanes.map (·.1) ∧ c = col := by
    obtain ⟨q, hq, he⟩ := List.mem_map.mp h
    obtain ⟨hb, hr', hc'⟩ := (accKey_inj (h32 q hq) hcol hr hc).mp he
    exact ⟨hb.symm, hr' ▸ List.mem_map_of_mem hq, hc'.symm⟩
  refine ⟨foldl_invariant (P := fun t : Group => t.aside = gr.aside) rfl fun t ht q _ => ht, fun b r c hr hc hne => ?_, fun q hq c hc => ?_⟩
  · refine hother _ fun h => ?_
    obtain ⟨hb, hr', -⟩ := hmem hr hc h
    exact hne.elim (fun h => h hb) fun h => h hr'
  · show _ = if c = col then q.2.toNat else gr.accAt o.bank q.1 c
    split
    · next h => subst h; exact hown q hq
    · next h => exact hother _ fun h' => h (hmem (h32 q hq) hc h').2.2
end


/-- The scratchpad byte behind a local address as an operation maps it. -/
def LaneOp.place (o : LaneOp) (hh : Hearth) (a : Nat) : Nat := ((hh.under o).padAddr a).getD 0

/-- One store of an MSCAT: a cell, narrowed, at its place. -/
def mscatStore (o : LaneOp) (hh : Hearth) (h g : Nat) (rm : Rm) (f : AccFmt) (t : State) (p : (Nat × Word) × Nat) : State :=
  let v := accNarrow f rm o.z ((t.group (ckey h g)).accAt o.bank p.1.1 p.2)
  let b := o.place hh (p.1.2.toNat + p.2 * accWidth f)
  (((t.modGroup (ckey h g) (fun gr => { gr with fflags := gr.fflags ||| v.2 })).modHearth h (fun hh => hh.setPad b (bytesOf v.1 (accWidth f)))).wrotePad
    (ckey h g) b (accWidth f))

section
variable {o : LaneOp} {hh : Hearth} {h g : Nat} {rm : Rm} {f : AccFmt} {s t : State} {p : (Nat × Word) × Nat}

@[simp] theorem mscatStore_group : (mscatStore o hh h g rm f t p).group (ckey h g) = { t.group (ckey h g) with
    fflags := (t.group (ckey h g)).fflags ||| (accNarrow f rm o.z ((t.group (ckey h g)).accAt o.bank p.1.1 p.2)).2 } := by
  simp [mscatStore, State.wrotePad]

theorem mscatStore_hearth : (mscatStore o hh h g rm f t p).hearth h = (t.hearth h).setPad (o.place hh (p.1.2.toNat + p.2 * accWidth f))
    (bytesOf (accNarrow f rm o.z ((t.group (ckey h g)).accAt o.bank p.1.1 p.2)).1 (accWidth f)) := by
  simp [mscatStore, State.wrotePad]

@[simp] theorem mscatStore_mem : (mscatStore o hh h g rm f t p).mem = t.mem := rfl

/-- What no store of an MSCAT changes: memory, the cells and the other registers of its group. -/
def State.mscatKept (s : State) (h g : Nat) (t : State) : Prop :=
  t.mem = s.mem ∧ (t.group (ckey h g)).acc = (s.group (ckey h g)).acc ∧ (t.group (ckey h g)).aside = (s.group (ckey h g)).aside

theorem mscatStore_kept (ht : s.mscatKept h g t) : s.mscatKept h g (mscatStore o hh h g rm f t p) := by
  obtain ⟨hm, hacc, ha⟩ := ht
  exact ⟨hm, by rw [mscatStore_group]; exact hacc, by rw [mscatStore_group]; exact ha⟩

theorem State.mscatKept_accAt (ht : s.mscatKept h g t) (b r c : Nat) : (t.group (ckey h g)).accAt b r c = (s.group (ckey h g)).accAt b r c := by
  rw [Group.accAt, Group.accAt, ht.2.1]

/-- The stores of an MSCAT to places that do not meet, in any order of its lanes: each place holds its cell's narrowed value, and no other
byte has changed. -/
theorem foldl_mscatStore {lanes : List (Nat × Word)} (hn : (lanes.map (·.1)).Nodup)
    (hap : ∀ q ∈ lanes, ∀ q' ∈ lanes, ∀ c c', c < 32 → c' < 32 → (q ≠ q' ∨ c ≠ c') →
      o.place hh (q.2.toNat + c * accWidth f) + accWidth f ≤ o.place hh (q'.2.toNat + c' * accWidth f)
        ∨ o.place hh (q'.2.toNat + c' * accWidth f) + accWidth f ≤ o.place hh (q.2.toNat + c * accWidth f)) :
    s.mscatKept h g ((laneCells lanes).foldl (mscatStore o hh h g rm f) s)
    ∧ (∀ q ∈ lanes, ∀ c, c < 32 → (((laneCells lanes).foldl (mscatStore o hh h g rm f) s).hearth h).padNum (o.place hh (q.2.toNat + c * accWidth f)) (accWidth f)
        = (accNarrow f rm o.z ((s.group (ckey h g)).accAt o.bank q.1 c)).1 % 2 ^ (8 * accWidth f))
    ∧ ∀ a, (∀ q ∈ lanes, ∀ c, c < 32 → a < o.place hh (q.2.toNat + c * accWidth f) ∨ o.place hh (q.2.toNat + c * accWidth f) + accWidth f ≤ a) →
        Map.get 0 (((laneCells lanes).foldl (mscatStore o hh h g rm f) s).hearth h).pad a = Map.get 0 (s.hearth h).pad a := by
  have hkept : ∀ t, s.mscatKept h g t → ∀ p ∈ laneCells lanes, s.mscatKept h g (mscatStore o hh h g rm f t p) := fun t ht p _ => mscatStore_kept ht
  have h0 : s.mscatKept h g s := ⟨rfl, rfl, rfl⟩
  refine ⟨foldl_invariant h0 hkept, fun q hq c hc => ?_, fun a ha => ?_⟩
  · have hf := (foldl_keyed_on (key := id) (ok := (· ∈ laneCells lanes)) (new := fun p _ => (accNarrow f rm o.z ((s.group (ckey h g)).accAt o.bank p.1.1 p.2)).1 % 2 ^ (8 * accWidth f))
      (rd := fun t p => (t.hearth h).padNum (o.place hh (p.1.2.toNat + p.2 * accWidth f)) (accWidth f)) h0 hkept
      (fun t ht p hp k hk => ?_) (by rw [List.map_id]; exact laneCells_nodup hn)).2
    · exact hf (q, c) (mem_laneCells.mpr ⟨hq, hc⟩) (mem_laneCells.mpr ⟨hq, hc⟩)
    · rw [mscatStore_hearth, State.mscatKept_accAt ht]
      split
      · next h => subst h; exact Hearth.padNum_setPad _ _ _ _
      · next h =>
        obtain ⟨hq, hc⟩ := mem_laneCells.mp hp
        obtain ⟨hq', hc'⟩ := mem_laneCells.mp hk
        refine Hearth.padNum_setPad_apart _ _ _ _ ?_
        rw [bytesOf_length]
        refine hap _ hq' _ hq _ _ hc' hc (not_and_or.mp fun e => h (Prod.ext e.1 e.2))
  · refine foldl_invariant (P := fun t : State => Map.get 0 (t.hearth h).pad a = Map.get 0 (s.hearth h).pad a) rfl fun t ht p hp => ?_
    obtain ⟨hq, hc⟩ := mem_laneCells.mp hp
    rw [mscatStore_hearth, Hearth.setPad_pad_outside _ _ _ _ (by rw [bytesOf_length]; exact ha p.1 hq p.2 hc)]
    exact ht

end
end Sys2Proof.Machine
end

section
/-! PROOFS. Tile operations: their effect, one MMA step, and the obligation (O26). -/

namespace Sys2Proof.Machine

/-! ## The effect of a completion -/

section
variable {s : State} {h g : Nat} {o : LaneOp} {rest : List LaneOp}

/-- What a completion leaves of a group's operations, lane registers, cells outside the operation's rows and versions of other banks. -/
def LaneOp.leaves (o : LaneOp) (rest : List LaneOp) (gr gr' : Group) : Prop :=
  gr'.ops = retireOps [] rest ∧ gr'.v = gr.v
  ∧ (∀ b r c, r < 32 → c < 32 → (b ≠ o.bank ∨ r ∉ o.lanes.map (·.1)) → gr'.accAt b r c = gr.accAt b r c)
  ∧ ∀ b, b ≠ o.bank → gr'.verOf b = gr.verOf b

theorem Group.verOf_bump (gr : Group) (b b' : Nat) : (gr.bump b).verOf b' = if b' = b then (gr.verOf b + 1) % 2 ^ 16 else gr.verOf b' := by
  unfold Group.verOf Group.bump
  split
  · next h => subst h; exact Map.get_put_self _ _ _ _
  · next h => exact Map.get_put_ne _ _ _ h

/-- An operation that has written its cells, raised the version of its bank if it has lanes, and left the count. -/
theorem LaneOp.wroteCells.finish {gr gr' : Group} {new : Nat × Word → Nat → Nat → Nat} (hw : o.wroteCells new gr gr') :
    let gr'' := (if o.lanes.isEmpty then gr' else gr'.bump o.bank).finish rest
    o.leaves rest gr gr'' ∧ gr''.verOf o.bank = (if o.lanes = [] then gr.verOf o.bank else (gr.verOf o.bank + 1) % 2 ^ 16)
    ∧ ∀ q ∈ o.lanes, ∀ c, c < 32 → gr''.accAt o.bank q.1 c = new q c (gr.accAt o.bank q.1 c) := by
  obtain ⟨haside, hother, hown⟩ := hw
  obtain ⟨-, hv, hver⟩ : gr'.ops = gr.ops ∧ gr'.v = gr.v ∧ gr'.ver = gr.ver := by simpa only [Group.aside, Prod.mk.injEq] using haside
  have hvo (b : Nat) : gr'.verOf b = gr.verOf b := by rw [Group.verOf, hver]; rfl
  intro gr''
  cases he : o.lanes with
  | nil =>
    have hgr : gr'' = gr'.finish rest := by simp only [gr'', he]; rfl
    rw [hgr]
    rw [he] at hown
    exact ⟨⟨rfl, hv, hother, fun b _ => hvo b⟩, hvo o.bank, hown⟩
  | cons q l =>
    have hgr : gr'' = (gr'.bump o.bank).finish rest := by simp only [gr'', he]; rfl
    have hvb (b : Nat) := (gr'.verOf_bump o.bank b).trans (by rw [hvo, hvo])
    rw [hgr]
    rw [he] at hown
    exact ⟨⟨rfl, hv, hother, fun b hb => (hvb b).trans (if_neg hb)⟩, (hvb o.bank).trans (if_pos rfl), hown⟩

/-- What an operation needs to be performed: it is first, has started, has held its quarter for its time, and can be read and written. -/
structure LaneOp.Due (o : LaneOp) (s : State) (h g : Nat) (rest : List LaneOp) (k : TileK) : Prop where
  leads : (s.group (ckey h g)).leads o rest
  started : o.started = true
  tile : o.tile = some k
  time : o.t0 + tileTime k ≤ s.gcc
  nodup : (o.lanes.map (·.1)).Nodup
  lane : ∀ q ∈ o.lanes, q.1 < 32
  settled : s.settleGroup h g = s
  served : s.scattering h g o = false
  read : (s.hearth h).mmaBad o = none

/-- The completion of an operation on cells. -/
theorem execTileOpComplete_cells {k : TileK} (hd : o.Due s h g rest k) (hk : bumps k = true) {W : Group → Group}
    {new : Nat × Word → Nat → Nat → Nat} (hW : tilePerform o s h g = s.modGroup (ckey h g) W)
    (hw : o.wroteCells new (s.group (ckey h g)) (W (s.group (ckey h g)))) :
    ∃ t, exec (.tileOpComplete h g) s = .next t ∧ t.mem = s.mem ∧ t.hearths = s.hearths
      ∧ o.leaves rest (s.group (ckey h g)) (t.group (ckey h g))
      ∧ (t.group (ckey h g)).verOf o.bank = (if o.lanes = [] then (s.group (ckey h g)).verOf o.bank else ((s.group (ckey h g)).verOf o.bank + 1) % 2 ^ 16)
      ∧ ∀ q ∈ o.lanes, ∀ c, c < 32 → (t.group (ckey h g)).accAt o.bank q.1 c = new q c ((s.group (ckey h g)).accAt o.bank q.1 c) := by
  have hops : ((tilePerform o s h g).group (ckey h g)).ops = o :: rest := by
    rw [hW, State.modGroup_group_self, ← hd.leads.1]
    exact congrArg Prod.fst hw.1
  refine ⟨_, execTileOpComplete_done hd.leads hd.started hd.tile hd.time hd.served hd.read hops, ?_⟩
  rw [hW]
  refine ⟨by simp, by simp, ?_⟩
  simp only [State.modGroup_group_self, hk, Bool.true_and]
  rw [show (if (!o.lanes.isEmpty) = true then (W (s.group (ckey h g))).bump o.bank else W (s.group (ckey h g)))
    = (if o.lanes.isEmpty then W (s.group (ckey h g)) else (W (s.group (ckey h g))).bump o.bank) by cases o.lanes <;> rfl]
  exact hw.finish

theorem tilePerform_mma {f off : Nat} (hs : s.settleGroup h g = s) (ht : o.tile = some (.mma f off)) :
    tilePerform o s h g = s.modGroup (ckey h g) (fun gr => o.lanes.foldl (mmaRow ((s.hearth h).under o) o f off) gr) := by
  unfold tilePerform
  rw [hs, ht]

theorem tilePerform_mzero (hs : s.settleGroup h g = s) (ht : o.tile = some .mzero) : tilePerform o s h g = s.modGroup (ckey h g) (fun gr =>
    o.lanes.foldl (fun gr q => (natsFrom 0 32).foldl (fun gr c => gr.setAcc o.bank q.1 c 0) gr) gr) := by
  unfold tilePerform
  rw [hs, ht]

theorem tilePerform_mwr {col : Nat} (hs : s.settleGroup h g = s) (ht : o.tile = some (.mwr col)) :
    tilePerform o s h g = s.modGroup (ckey h g) (fun gr => o.lanes.foldl (fun gr q => gr.setAcc o.bank q.1 col q.2.toNat) gr) := by
  unfold tilePerform
  rw [hs, ht]

theorem tilePerform_mscat {rm : Rm} {f : AccFmt} (hs : s.settleGroup h g = s) (ht : o.tile = some (.mscat rm f)) :
    tilePerform o s h g = (laneCells (freeOrder s.tick 32 o.lanes)).foldl (mscatStore o (s.hearth h) h g rm f) s := by
  rw [← foldl_laneCells]
  unfold tilePerform
  rw [hs, ht]
  rfl

/-- The completion of an MSCAT whose places do not meet. -/
theorem execTileOpComplete_mscat {rm : Rm} {f : AccFmt} (hd : o.Due s h g rest (.mscat rm f)) {place : Nat × Word → Nat → Nat}
    (hpl : ∀ q c, place q c = o.place (s.hearth h) (q.2.toNat + c * accWidth f))
    (hap : ∀ q ∈ o.lanes, ∀ q' ∈ o.lanes, ∀ c c', c < 32 → c' < 32 → (q ≠ q' ∨ c ≠ c') →
      place q c + accWidth f ≤ place q' c' ∨ place q' c' + accWidth f ≤ place q c) :
    ∃ t, exec (.tileOpComplete h g) s = .next t ∧ t.mem = s.mem ∧ (t.group (ckey h g)).ops = retireOps [] rest
      ∧ (t.group (ckey h g)).v = (s.group (ckey h g)).v ∧ (∀ b, (t.group (ckey h g)).verOf b = (s.group (ckey h g)).verOf b)
      ∧ (∀ b r c, (t.group (ckey h g)).accAt b r c = (s.group (ckey h g)).accAt b r c)
      ∧ (∀ q ∈ o.lanes, ∀ c, c < 32 → (t.hearth h).padNum (place q c) (accWidth f)
          = (accNarrow f rm o.z ((s.group (ckey h g)).accAt o.bank q.1 c)).1 % 2 ^ (8 * accWidth f))
      ∧ ∀ a, (∀ q ∈ o.lanes, ∀ c, c < 32 → a < place q c ∨ place q c + accWidth f ≤ a) →
          Map.get 0 (t.hearth h).pad a = Map.get 0 (s.hearth h).pad a := by
  obtain rfl : place = fun q c => o.place (s.hearth h) (q.2.toNat + c * accWidth f) := funext fun q => funext (hpl q)
  have hperm := freeOrder_perm s.tick 32 o.lanes
  have hmem (q : Nat × Word) : q ∈ freeOrder s.tick 32 o.lanes ↔ q ∈ o.lanes := hperm.mem_iff
  obtain ⟨hkept, hbytes, hpad⟩ := foldl_mscatStore (s := s) (h := h) (g := g) (rm := rm) (hperm.map (·.1) |>.nodup_iff.mpr hd.nodup)
    (fun q hq q' hq' => hap q ((hmem q).mp hq) q' ((hmem q').mp hq'))
  rw [← tilePerform_mscat hd.settled hd.tile] at hkept hbytes hpad
  obtain ⟨hm, -, haside⟩ := id hkept
  obtain ⟨hops, hv, hver⟩ : ((tilePerform o s h g).group (ckey h g)).ops = _ ∧ ((tilePerform o s h g).group (ckey h g)).v = _
    ∧ ((tilePerform o s h g).group (ckey h g)).ver = _ := by simpa only [Group.aside, Prod.mk.injEq] using haside
  refine ⟨_, execTileOpComplete_done hd.leads hd.started hd.tile hd.time hd.served hd.read (hops.trans hd.leads.1), hm, ?_⟩
  simp only [bumps, Bool.false_and, Bool.false_eq_true, if_false, State.modGroup_group_self, State.modGroup_hearth]
  refine ⟨rfl, hv, fun b => ?_, State.mscatKept_accAt hkept, fun q hq => hbytes q ((hmem q).mpr hq), fun a ha => hpad a fun q hq => ha q ((hmem q).mp hq)⟩
  exact congrArg (Map.get 0 · b) hver

end

/-! ## One MMA step on a cell -/

section
variable (f : Nat)

theorem fmtHalf_zero_fam : (fmtHalf f 0).fam = f / 2 ^ 8 % 16 := by
  simp only [fmtHalf, bitsOf, Nat.shiftRight_eq_div_pow]
  omega

theorem fmtHalf_zero_krd : (fmtHalf f 0).krd = f / 2 ^ 4 % 16 := by
  simp only [fmtHalf, bitsOf, Nat.shiftRight_eq_div_pow]
  omega

theorem fmtHalf_one_krd : (fmtHalf f 1).krd = f / 2 ^ 20 % 16 := by
  simp only [fmtHalf, bitsOf, Nat.shiftRight_eq_div_pow]
  omega

theorem tileTime_mma (off : Nat) :
    tileTime (.mma f off) = if f / 2 ^ 8 % 16 = 0 then (f / 2 ^ 4 % 16) * (f / 2 ^ 20 % 16) else 8 := by
  rw [tileTime, fmtHalf_zero_fam, fmtHalf_zero_krd, fmtHalf_one_krd]

end

/-- The first k of p binary digits, most significant first, as one number below which the others are 0. -/
theorem foldl_digits (b : Nat → Nat) {k p : Nat} (hk : k ≤ p) :
    (natsFrom 0 k).foldl (fun a i => 2 * a + b i) 0 * 2 ^ (p - k) = ((natsFrom 0 k).map (fun i => 2 ^ (p - 1 - i) * b i)).sum := by
  simp only [natsFrom_eq_map_range, Nat.zero_add, List.map_id']
  induction k with
  | zero => simp
  | succ k ih =>
    have hpow : 2 ^ (p - k) = 2 * 2 ^ (p - 1 - k) := by rw [← Nat.pow_succ', show p - k = (p - 1 - k).succ by omega]
    rw [List.range_succ, List.foldl_append, List.map_append, List.sum_append, ← ih (by omega), hpow, show p - (k + 1) = p - 1 - k by omega]
    simp only [List.foldl_cons, List.foldl_nil, List.map_cons, List.map_nil, List.sum_cons, List.sum_nil, Nat.add_zero]
    ring

theorem bpiElem_digits (p : FmtHalf) (r : Nat → Byte) (j : Nat) (hk : p.krd ≤ p.pst) : bpiElem p r j
    = bpiRead (bpiInt (((natsFrom 0 p.krd).map (fun i => 2 ^ (p.pst - 1 - i) * boolNat ((r (48 * i + j / 8)).getLsbD (j % 8)))).sum) p.pst p.uns) p.pst p.krd p.cen := by
  rw [bpiElem, foldl_digits _ hk]

section
variable {fm : Nat} (z : Bool) (ra rb : Nat → Byte) (acc : Nat)

theorem mmaCell_bpi (hf : (fmtHalf fm 0).fam = 0) :
    let fa := fmtHalf fm 0
    let fb := fmtHalf fm 1
    let total : Int := ((natsFrom 0 384).map (fun j => bpiElem fa ra j * bpiElem fb rb j)).sum
    let term := rangeTerm (decide (total < 0)) total.natAbs (((ra (48 * fa.pst)).toNat : Int) + ((rb (48 * fb.pst)).toNat : Int) - 254)
    mmaCell fm z ra rb acc = ((rndSum f32 .rne z [f32.unpack z acc, term.1]).1, term.2 ||| (rndSum f32 .rne z [f32.unpack z acc, term.1]).2) := by
  intro fa fb total term
  have hsum : (natsFrom 0 384).foldl (fun a j => a + bpiElem fa ra j * bpiElem fb rb j) 0 = total := by
    rw [show total = _ from List.sum_eq_foldl, List.foldl_map]
  unfold mmaCell mmaBpi
  rw [if_pos hf, hsum]

theorem mmaCell_half (hf : (fmtHalf fm 0).fam ≠ 0) :
    let fmt16 := if (fmtHalf fm 0).fam = 1 then bf16 else f16
    let el (r : Nat → Byte) (j : Nat) : Term := fmt16.unpack z ((r (2 * j)).toNat + 256 * (r (2 * j + 1)).toNat)
    mmaCell fm z ra rb acc = rndSum f32 .rne z (f32.unpack z acc :: (natsFrom 0 24).map (fun j => (el ra j).mul (el rb j))) := by
  intro fmt16 el
  unfold mmaCell mmaHalf
  rw [if_neg hf, show (if ((fmtHalf fm 0).fam == 1) = true then bf16 else f16) = fmt16 by simp only [beq_iff_eq, fmt16]]

end

/-! ## The obligation -/

/-- Settles O26: the oldest operation is the head of the group's operations, so a start or a completion changes that one alone; the cells it
writes have different keys, so each takes its new value from its former one and no other changes. -/
theorem tileOperations : Obligations.TileOperations := by
  intro s h g o rest k gr hh fs under unfed time first now due other gone raised
  have htime {kk : TileK} (ht : o.tile = some kk) : tileTime kk = time := by
    cases kk with
    | mma f off => simp only [time, ht]; exact tileTime_mma f off
    | mzero => simp only [time, ht]; rfl
    | mwr col => simp only [time, ht]; rfl
    | mscat rm f => cases f <;> simp only [time, ht] <;> rfl
  have hdue {kk : TileK} (hd : due) (ht : o.tile = some kk) : o.Due s h g rest kk := by
    obtain ⟨hl, hs, ht0, -, hn, h32, hset, hsc, hb⟩ := hd
    exact ⟨hl, hs, ht, by rw [htime ht]; exact ht0, hn, h32, hset, hsc, hb⟩
  have hgone {t : State} (hm : t.mem = s.mem) (hl : o.leaves rest gr (t.group k)) : gone t := by
    obtain ⟨hops, hv, hacc, hver⟩ := hl
    exact ⟨hops, hm, hv, fun b r c hb => hacc b r c hb.1 hb.2.1 hb.2.2, hver⟩
  refine ⟨fun hl hs hf hw hh' => ?_, fun hl hw => ?_, fun a hl hs ht ht0 hsc hb => ?_, fun hl hs ht hw => ?_, fun f off hd ht => ?_, fun hd ht => ?_,
    fun col hcol hd ht => ?_, fun rm f hd ht => ?_, fun fm z ra rb acc => ⟨mmaCell_bpi z ra rb acc, mmaCell_half z ra rb acc, fun j _ => ?_⟩⟩
  · refine ⟨_, execTileOpStart_starts hl hs (fun f off ht => ?_) hw hh', ?_⟩
    · cases hfed : o.fed with
      | true => rfl
      | false => exact absurd ⟨by rw [ht]; rfl, hfed⟩ hf
    · refine ⟨?_, ?_, ?_, ?_⟩ <;> simp [k, fs]
  · refine execTileOpStart_stays hl (hw.imp_right (Or.imp_left fun hf => ⟨?_, hf.2⟩))
    obtain ⟨hf, -⟩ := hf
    cases ht : o.tile with
    | none => rw [ht] at hf; exact absurd hf (by decide)
    | some kk =>
      rw [ht] at hf
      cases kk with
      | mma f off => exact ⟨f, off, rfl⟩
      | mzero => exact absurd hf (by decide)
      | mwr col => exact absurd hf (by simp)
      | mscat rm f => exact absurd hf (by simp)
  · obtain ⟨kk, ht⟩ := Option.ne_none_iff_exists'.mp ht
    exact ⟨_, execTileOpComplete_bad hl hs ht (by rw [htime ht]; exact ht0) hsc hb, rfl⟩
  · obtain ⟨kk, ht⟩ := Option.ne_none_iff_exists'.mp ht
    exact execTileOpComplete_waits hl hs ht (by rw [htime ht]; exact hw)
  · have hd := hdue hd ht
    obtain ⟨t, he, hm, hh', hl, hr, hc⟩ := execTileOpComplete_cells hd rfl (tilePerform_mma hd.settled ht) (mma_wroteCells hd.nodup hd.lane hh f off gr)
    exact ⟨t, he, hgone hm hl, hr, hh', hc⟩
  · have hd := hdue hd ht
    obtain ⟨t, he, hm, hh', hl, hr, hc⟩ := execTileOpComplete_cells hd rfl (tilePerform_mzero hd.settled ht) (mzero_wroteCells hd.nodup hd.lane gr)
    exact ⟨t, he, hgone hm hl, hr, hh', hc⟩
  · have hd := hdue hd ht
    obtain ⟨t, he, hm, hh', hl, hr, hc⟩ := execTileOpComplete_cells hd rfl (tilePerform_mwr hd.settled ht) (mwr_wroteCells hd.nodup hd.lane hcol gr)
    exact ⟨t, he, hgone hm hl, hr, hh', hc⟩
  · intro w place hap
    have hw : accWidth f = w := by cases f <;> rfl
    rw [← hw]
    obtain ⟨t, he, hm, hops, hv, hver, hacc, hbytes, hpad⟩ := execTileOpComplete_mscat (hdue hd ht) (place := place)
      (fun q c => by rw [hw]; rfl) (by rw [hw]; exact hap)
    exact ⟨t, he, ⟨hops, hm, hv, fun b r c _ => hacc b r c, fun b _ => hver b⟩, hver o.bank, hacc, hbytes, hpad⟩
  · exact (Nat.lt_or_ge (fmtHalf fm 0).pst (fmtHalf fm 0).krd).symm.imp_left (bpiElem_digits _ ra j)

end Sys2Proof.Machine
end

section
/-! PROOFS. Engine commands: their accesses to memory (O38). -/

namespace Sys2Proof.Machine

/-! ## What an access of a port follows, and its attempts -/

section
variable {s : State} {a : Port} {t : Tgt} {n va pt cls scope : Nat} {bs : List Byte} {g : Got}

/-- The timestamp of an access: a new one follows `pt` and the local GCC, one under way the local GCC (R375). -/
def State.follows (s : State) (a : Port) (pt : Nat) : Nat :=
  max (if a.x.out = true ∨ a.x.got.isSome = true then a.pts else max a.pts pt) (s.localGcc a.h)

/-- A port that attempts an access to a target at a timestamp. -/
def Port.tries (a : Port) (p : Nat) (t : Tgt) : Port := { a with pts := p, x := { a.x with tgt := some t } }

theorem State.ptsTick_follows : s.ptsTick { a with pts := if a.x.out || a.x.got.isSome then a.pts else max a.pts pt, x := { a.x with tgt := some t } }
    = (a.tries (s.follows a pt) t, decide (s.follows a pt ≤ s.localGcc a.h + 64)) := by
  have hp : (if a.x.out || a.x.got.isSome then a.pts else max a.pts pt) = if a.x.out = true ∨ a.x.got.isSome = true then a.pts else max a.pts pt :=
    if_congr (by simp) rfl rfl
  rw [hp]
  rfl

section
variable (hx : t.external = false)
include hx

theorem State.homeLoad_ahead (h : s.localGcc a.h + 64 < s.follows a pt) : s.homeLoad a t n va pt cls = (.wait, s, a.tries (s.follows a pt) t) := by
  unfold State.homeLoad
  rw [if_neg (by simp [hx]), State.ptsTick_follows]
  dsimp only
  rw [if_pos (by simpa using h)]

variable (h : s.follows a pt ≤ s.localGcc a.h + 64)
include h

theorem State.homeLoad_new (ho : a.x.out = false) (hg : a.x.got = none) :
    s.homeLoad a t n va pt cls = (.wait, s.send (a.tries (s.follows a pt) t) (mkReq (a.tries (s.follows a pt) t) 0 .rd t.atomBase (t.scopeOf 1) cls)) := by
  unfold State.homeLoad
  rw [if_neg (by simp [hx]), State.ptsTick_follows]
  dsimp only
  rw [if_neg (by simpa using h), show (a.tries (s.follows a pt) t).x.got = none from hg]
  dsimp only
  rw [if_neg (by simp [Port.tries, ho])]

theorem State.homeLoad_answered (hg : a.x.got = some g) : s.homeLoad a t n va pt cls
    = (if g.ok then .done (sliceOf g.data (tgtOff t) n) 0 else .bad g.cause g.sub, s, { a with pts := max (s.follows a pt) g.wts, x := {} }) := by
  unfold State.homeLoad
  rw [if_neg (by simp [hx]), State.ptsTick_follows]
  dsimp only
  rw [if_neg (by simpa using h), show (a.tries (s.follows a pt) t).x.got = some g from hg]
  dsimp only
  split <;> rfl

end

section
variable (hx : t.external = false) (hown : s.l1Owner a.h t = a.h) (hl : l1Only t scope = false)
include hown

theorem State.accTick_follows :
    s.accTick a t = (a.tries (s.follows a (s.tgtPts t)) t, decide (s.follows a (s.tgtPts t) ≤ s.localGcc a.h + 64)) := by
  unfold State.accTick
  rw [State.ptsTick_follows]
  dsimp only
  rw [if_pos (by simp [Port.tries, hown])]

theorem State.accStore_ahead (h : s.localGcc a.h + 64 < s.follows a (s.tgtPts t)) :
    s.accStore a t bs va scope cls = (.wait, s, a.tries (s.follows a (s.tgtPts t)) t) := by
  unfold State.accStore
  rw [State.accTick_follows hown]
  dsimp only
  rw [if_pos (by simpa using h)]

variable (h : s.follows a (s.tgtPts t) ≤ s.localGcc a.h + 64)
include hl h

theorem State.accStore_answered (hg : a.x.got = some g) : s.accStore a t bs va scope cls
    = (if g.ok then .done [] 0 else .bad g.cause g.sub, if g.ok then s.l1Keep a.h t bs g.wts else s,
      { a with pts := max (s.follows a (s.tgtPts t)) g.wts, x := {} }) := by
  unfold State.accStore
  rw [State.accTick_follows hown]
  dsimp only
  rw [if_neg (by simpa using h), if_neg (by simp [hl]), show (a.tries (s.follows a (s.tgtPts t)) t).x.got = some g from hg]
  dsimp only
  split <;> rfl

include hx

theorem State.accStore_new (ho : a.x.out = false) (hg : a.x.got = none) : s.accStore a t bs va scope cls
    = (.wait, (s.l1Replace a.h t bs.length).send (a.tries (s.follows a (s.tgtPts t)) t)
      { mkReq (a.tries (s.follows a (s.tgtPts t)) t) ((s.l1Replace a.h t bs.length).epochOf a) .wr t (t.scopeOf scope) cls with bytes := bs.map some }) := by
  unfold State.accStore
  rw [State.accTick_follows hown]
  dsimp only
  rw [if_neg (by simpa using h), if_neg (by simp [hl]), show (a.tries (s.follows a (s.tgtPts t)) t).x.got = none from hg]
  dsimp only
  rw [if_neg (by simp [Port.tries, ho]), if_neg (by simp [hx])]
  rfl

end

theorem l1Only_scopeOf : l1Only t (t.scopeOf 1) = false := by cases t <;> rfl

end

/-! ## What the L1 leaves alone -/

section
variable {s : State} {key h w n : Nat} {t : Tgt} {bs : List Byte} {e : L1E}

theorem State.writeBack_engs : (s.writeBack key).engs = s.engs := by
  unfold State.writeBack
  split
  · rfl
  · split <;> rfl

theorem State.l1Room_engs : (s.l1Room key).engs = s.engs := by
  unfold State.l1Room
  dsimp only
  split
  · rfl
  · split
    · rfl
    · split
      · rfl
      · exact State.writeBack_engs

theorem State.l1Keep_engs : (s.l1Keep h t bs w).engs = s.engs := by
  unfold State.l1Keep
  split
  · rfl
  · split
    · exact State.l1Room_engs
    · dsimp only
      split <;> rfl

/-- A store on its way changes copies of the L1s alone. -/
theorem State.l1Replace_frame : ∃ m, s.l1Replace h t n = { s with l1 := m } := by
  unfold State.l1Replace
  split
  · exact ⟨s.l1, rfl⟩
  · dsimp only
    split
    · exact ⟨s.l1, rfl⟩
    · exact ⟨_, rfl⟩

end

/-! ## Changes of a command -/

section
variable {s : State} {q n : Nat} {f : Cmd → Cmd}

@[simp] theorem State.onCmd_cmd : (s.onCmd q n f).cmd q n = f (s.cmd q n) := by simp [State.onCmd, State.cmd]

@[simp] theorem State.onCmd_pts : ((s.onCmd q n f).eng q).pts = (s.eng q).pts := by simp [State.onCmd]

/-- Two states that differ in the engines' queues alone, and not in the timestamp of queue q. -/
def State.engsApart (q : Nat) (s t : State) : Prop := t = { s with engs := t.engs } ∧ (t.eng q).pts = (s.eng q).pts

theorem State.onCmd_apart : s.engsApart q (s.onCmd q n f) := ⟨rfl, by simp⟩

theorem State.noteExt_apart {t : Tgt} : s.engsApart q (s.noteExt q n t) := by
  unfold State.noteExt
  split
  · exact State.onCmd_apart
  · exact ⟨rfl, rfl⟩

theorem State.engsApart.trans {t u : State} (h : s.engsApart q t) (h' : t.engsApart q u) : s.engsApart q u :=
  ⟨h'.1.trans (by rw [h.1]), h'.2.trans h.2⟩

@[simp] theorem State.setCmdPort_pts {a : Port} : ((s.setCmdPort q n a).eng q).pts = max (s.eng q).pts a.pts := by simp [State.setCmdPort]

@[simp] theorem State.setCmdPort_xact {a : Port} : ((s.setCmdPort q n a).cmd q n).xact = a.x := by simp [State.setCmdPort]

@[simp] theorem State.setCmdPort_reqs {a : Port} : (s.setCmdPort q n a).reqs = s.reqs := rfl

@[simp] theorem State.setCmdPort_l1 {a : Port} : (s.setCmdPort q n a).l1 = s.l1 := rfl

end

end Sys2Proof.Machine
end

section
/-! PROOFS. Engine commands: the answers of their loads and stores (O38). -/

namespace Sys2Proof.Machine

/-! ## Before the access -/

section
variable {s u : State} {q : Nat} (h : s.engsApart q u)
include h

theorem State.engsApart.follows {a : Port} {pt : Nat} : u.follows a pt = s.follows a pt := by rw [h.1]; rfl

theorem State.engsApart.localGcc {i : Nat} : u.localGcc i = s.localGcc i := by rw [h.1]; rfl

theorem State.engsApart.tgtPts {t : Tgt} : u.tgtPts t = s.tgtPts t := by rw [h.1]; rfl

theorem State.engsApart.l1Owner {i : Nat} {t : Tgt} : u.l1Owner i t = s.l1Owner i t := by rw [h.1]; rfl

theorem State.engsApart.epochOf {a : Port} : u.epochOf a = s.epochOf a := by rw [h.1]; rfl

theorem State.engsApart.reqs : u.reqs = s.reqs := by rw [h.1]

theorem State.engsApart.mem : u.mem = s.mem := by rw [h.1]

theorem State.engsApart.gcc : u.gcc = s.gcc := by rw [h.1]

theorem State.engsApart.l1 : u.l1 = s.l1 := by rw [h.1]

end

section
variable {s : State} {q n va cls len : Nat} {t : Tgt} {bs : List Byte} {g : Got}

/-- A request has left for its home: it is the newest, and its command waits for the answer. -/
def State.sent (s u : State) (q n : Nat) (r : Req) : Prop :=
  ∃ home due, u.reqs = s.reqs ++ [{ r with home := home, due := due }] ∧ s.gcc ≤ due ∧ u.mem = s.mem ∧ (u.cmd q n).xact.out = true

theorem State.send_sent {v : State} {a : Port} {r : Req} (hr : v.reqs = s.reqs) (hg : v.gcc = s.gcc) (hm : v.mem = s.mem) :
    s.sent ((v.send a r).1.setCmdPort q n (v.send a r).2) q n r := by
  let home := v.homeAt r.who r.tgt (!r.kind.reads)
  refine ⟨home, v.gcc + transit (v.reqStop r home) (.home home), ?_, ?_, ?_, ?_⟩
  · rw [State.setCmdPort_reqs, ← hr]
    rfl
  · rw [← hg]
    exact Nat.le_add_right _ _
  · rw [State.setCmdPort_mem, State.send_mem, hm]
  · rw [State.setCmdPort_xact]
    rfl

/-- The timestamp of a command's load: that of a shadowed window follows the PUBLISH of the bound set (R65, R73). -/
def State.loadPts (s : State) (q n : Nat) (t : Tgt) : Nat := s.follows (s.cmdPort q n) (if t.shadowed then (s.cmd q n).setPts else 0)

/-- The timestamp of a command's store. -/
def State.storePts (s : State) (q n : Nat) (t : Tgt) : Nat := s.follows (s.cmdPort q n) (s.tgtPts t)

/-! ## Loads -/

theorem eRead_held (h : s.cmdHeld q n { va := va, n := len, cls := cls, st := false } = true) : eRead q n va t len cls s = .wait s := if_pos h

section
variable (hh : ¬ s.cmdHeld q n { va := va, n := len, cls := cls, st := false } = true) (hx : t.external = false)
include hh

theorem eRead_free : eRead q n va t len cls s
    = cmdAcs q n va ((s.noteExt q n t).homeLoad (s.cmdPort q n) t len va (if t.shadowed then (s.cmd q n).setPts else 0) cls) := if_neg hh

include hx

theorem eRead_ahead (h : s.localGcc (engHearth q) + 64 < s.loadPts q n t) :
    ∃ u, eRead q n va t len cls s = .wait u ∧ u.reqs = s.reqs ∧ u.mem = s.mem := by
  have ha : s.engsApart q (s.noteExt q n t) := State.noteExt_apart
  rw [eRead_free hh, State.homeLoad_ahead hx (by rw [ha.localGcc, ha.follows]; exact h)]
  exact ⟨_, rfl, ha.reqs, State.setCmdPort_mem.trans ha.mem⟩

variable (h : s.loadPts q n t ≤ s.localGcc (engHearth q) + 64)
include h

theorem eRead_new (ho : (s.cmd q n).xact.out = false) (hg : (s.cmd q n).xact.got = none) : ∃ u, eRead q n va t len cls s = .wait u
    ∧ s.sent u q n (mkReq ((s.cmdPort q n).tries (s.loadPts q n t) t) 0 .rd t.atomBase (t.scopeOf 1) cls) := by
  have ha : s.engsApart q (s.noteExt q n t) := State.noteExt_apart
  rw [eRead_free hh, State.homeLoad_new hx (by rw [ha.localGcc, ha.follows]; exact h) ho hg, ha.follows]
  exact ⟨_, rfl, State.send_sent ha.reqs ha.gcc ha.mem⟩

variable (hg : (s.cmd q n).xact.got = some g)
include hg

theorem eRead_ok (hok : g.ok = true) : ∃ u, eRead q n va t len cls s = .ok ((g.data.drop (tgtOff t)).take len) u ∧ u.mem = s.mem
    ∧ (u.cmd q n).xact = {} ∧ (u.eng q).pts = max (s.eng q).pts (max (s.loadPts q n t) g.wts) := by
  have ha : s.engsApart q (s.noteExt q n t) := State.noteExt_apart
  rw [eRead_free hh, State.homeLoad_answered hx (by rw [ha.localGcc, ha.follows]; exact h) hg, if_pos hok, ha.follows]
  exact ⟨_, rfl, State.setCmdPort_mem.trans ha.mem, State.setCmdPort_xact, by rw [State.setCmdPort_pts, ha.2]; rfl⟩

theorem eRead_bad (hok : g.ok = false) : ∃ u, eRead q n va t len cls s = .trap (trapVa g.cause g.sub va) u := by
  have ha : s.engsApart q (s.noteExt q n t) := State.noteExt_apart
  rw [eRead_free hh, State.homeLoad_answered hx (by rw [ha.localGcc, ha.follows]; exact h) hg, if_neg (by simp [hok])]
  exact ⟨_, rfl⟩

end

/-! ## Stores -/

theorem eWrite_held (h : s.cmdHeld q n { va := va, n := bs.length, cls := cls, st := true } = true) : eWrite q n va t bs cls s = .wait s := if_pos h

section
variable (hh : ¬ s.cmdHeld q n { va := va, n := bs.length, cls := cls, st := true } = true)
include hh

theorem eWrite_stopped (h : q < 4096 ∧ (s.ctx (engKey q)).trapped.isSome = true ∧ (s.cmd q n).xact.bound = none) :
    eWrite q n va t bs cls s = .wait (s.onCmd q n (fun c => { c with held := some (t, bs, cls) })) := by
  obtain ⟨hq, ht, hb⟩ := h
  unfold eWrite
  rw [if_neg hh, if_pos (by simp [hq, ht, hb])]

variable (hs : ¬ (q < 4096 ∧ (s.ctx (engKey q)).trapped.isSome = true ∧ (s.cmd q n).xact.bound = none))
include hs

/-- A store that goes is performed in a state that differs in the queue alone. -/
theorem eWrite_free : ∃ v, s.engsApart q v ∧ eWrite q n va t bs cls s = cmdAcs q n va (v.accStore (s.cmdPort q n) t bs va (t.scopeOf 1) cls) := by
  refine ⟨(s.onCmd q n (fun c => { c with held := none })).noteExt q n t, State.onCmd_apart.trans State.noteExt_apart, ?_⟩
  have hport : (s.onCmd q n (fun c => { c with held := none })).cmdPort q n = s.cmdPort q n := by
    simp only [State.cmdPort, State.onCmd_pts, State.onCmd_cmd, Port.mk.injEq, true_and, and_true]
    simp only [State.engPart, State.onCmd, State.modEng_eng_self, State.modEng_ctx]
  unfold eWrite
  rw [if_neg hh, if_neg (by simpa [and_assoc] using hs)]
  dsimp only
  rw [hport]

variable (hx : t.external = false) (hown : s.l1Owner (engHearth q) t = engHearth q)
include hown

theorem eWrite_ahead (h : s.localGcc (engHearth q) + 64 < s.storePts q n t) :
    ∃ u, eWrite q n va t bs cls s = .wait u ∧ u.reqs = s.reqs ∧ u.mem = s.mem := by
  obtain ⟨v, ha, he⟩ := eWrite_free hh hs
  rw [he, State.accStore_ahead (by rw [ha.l1Owner]; exact hown) (by rw [ha.localGcc, ha.tgtPts, ha.follows]; exact h)]
  exact ⟨_, rfl, ha.reqs, State.setCmdPort_mem.trans ha.mem⟩

variable (h : s.storePts q n t ≤ s.localGcc (engHearth q) + 64)
include h

include hx in
theorem eWrite_new (ho : (s.cmd q n).xact.out = false) (hg : (s.cmd q n).xact.got = none) : ∃ u, eWrite q n va t bs cls s = .wait u
    ∧ s.sent u q n { mkReq ((s.cmdPort q n).tries (s.storePts q n t) t) (s.epochOf (s.cmdPort q n)) .wr t (t.scopeOf (t.scopeOf 1)) cls with
        bytes := bs.map some } := by
  obtain ⟨v, ha, he⟩ := eWrite_free hh hs
  obtain ⟨m, hm⟩ := State.l1Replace_frame (s := v) (h := (s.cmdPort q n).h) (t := t) (n := bs.length)
  rw [he, State.accStore_new hx (by rw [ha.l1Owner]; exact hown) l1Only_scopeOf (by rw [ha.localGcc, ha.tgtPts, ha.follows]; exact h) ho hg, hm,
    ha.tgtPts, ha.follows, show ({ v with l1 := m } : State).epochOf (s.cmdPort q n) = s.epochOf (s.cmdPort q n) from ha.epochOf]
  exact ⟨_, rfl, State.send_sent ha.reqs ha.gcc ha.mem⟩

variable (hg : (s.cmd q n).xact.got = some g)
include hg

theorem eWrite_ok (hok : g.ok = true) : ∃ u, eWrite q n va t bs cls s = .ok [] u ∧ u.mem = s.mem ∧ (u.cmd q n).xact = {}
    ∧ (u.eng q).pts = max (s.eng q).pts (max (s.storePts q n t) g.wts) ∧ ∃ v : State, u.l1 = (v.l1Keep (engHearth q) t bs g.wts).l1 ∧ v.l1 = s.l1 := by
  obtain ⟨v, ha, he⟩ := eWrite_free hh hs
  rw [he, State.accStore_answered (by rw [ha.l1Owner]; exact hown) l1Only_scopeOf (by rw [ha.localGcc, ha.tgtPts, ha.follows]; exact h) hg, if_pos hok, if_pos hok,
    ha.tgtPts, ha.follows]
  refine ⟨_, rfl, (State.setCmdPort_mem.trans State.l1Keep_mem).trans ha.mem, State.setCmdPort_xact, ?_, v, rfl, ha.l1⟩
  rw [State.setCmdPort_pts, State.eng, State.l1Keep_engs, ← State.eng, ha.2]
  rfl

theorem eWrite_bad (hok : g.ok = false) : ∃ u, eWrite q n va t bs cls s = .trap (trapVa g.cause g.sub va) u := by
  obtain ⟨v, ha, he⟩ := eWrite_free hh hs
  rw [he, State.accStore_answered (by rw [ha.l1Owner]; exact hown) l1Only_scopeOf (by rw [ha.localGcc, ha.tgtPts, ha.follows]; exact h) hg, if_neg (by simp [hok])]
  exact ⟨_, rfl⟩

end
end

end Sys2Proof.Machine
end

section
/-! PROOFS. Engine commands: what brings a lane group and a queue up to date (O38). -/

namespace Sys2Proof.Machine

/-! ## Accumulators while results are written -/

section
variable (g : Group) (a : Map Word) (w : Nat)

/-- A group with other accumulators. -/
def Group.withAcc : Group := { g with acc := a, wrAcc := w }

theorem Group.applyPend_withAcc (p : Pend) : (g.withAcc a w).applyPend p = (g.applyPend p).withAcc a w := by
  unfold Group.applyPend
  cases p.dst with
  | v ph =>
    dsimp only
    rw [List.foldl_hom (fun g : Group => g.withAcc a w) (g₁ := fun g q => g.setV ph q.1 q.2) (fun _ _ => rfl)]
    rfl
  | p i =>
    dsimp only
    rw [List.foldl_hom (fun g : Group => g.withAcc a w) (g₁ := fun g q => g.setP i q.1 (q.2.getLsbD 0)) (fun _ _ => rfl)]
    rfl
  | fflags => cases p.vals <;> rfl
  | nothing => rfl

/-- Results that are due do not meet the accumulators. -/
theorem Group.settle_withAcc (c : Nat) : (g.withAcc a w).settle c = (g.settle c).withAcc a w := by
  unfold Group.settle
  exact List.foldl_hom (fun g : Group => g.withAcc a w) (g₁ := Group.applyPend) (init := { g with pend := g.pend.filter (fun p => decide (c < p.due)) })
    fun g p => g.applyPend_withAcc a w p

theorem Group.settle_acc (c : Nat) : (g.settle c).acc = g.acc := by
  have h := congrArg Group.acc (g.settle_withAcc g.acc g.wrAcc c)
  exact h

theorem Group.applyPend_blk (p : Pend) : (g.applyPend p).blk = g.blk := by
  unfold Group.applyPend
  cases p.dst with
  | v ph => exact foldl_invariant (P := fun t : Group => t.blk = g.blk) rfl fun t ht _ _ => ht
  | p i => exact foldl_invariant (P := fun t : Group => t.blk = g.blk) rfl fun t ht _ _ => ht
  | fflags => cases p.vals <;> rfl
  | nothing => rfl

theorem Group.settle_blk (c : Nat) : (g.settle c).blk = g.blk :=
  foldl_invariant (P := fun t : Group => t.blk = g.blk) rfl fun t ht p _ => (t.applyPend_blk p).trans ht

theorem Group.settle_idle (c : Nat) (h : g.pend.isEmpty = true) : g.settle c = g := by
  have hp := List.isEmpty_iff.mp h
  simp only [Group.settle, hp, List.filter_nil, List.foldl_nil]
  rw [← hp]

end

/-! ## Clearing a bank -/

section
variable (b : Nat) (g : Group)

/-- Every cell of a bank is 0. -/
def Group.clearBank : Group := (natsFrom 0 32).foldl (fun (g : Group) (r : Nat) => (natsFrom 0 32).foldl (fun (g : Group) (k : Nat) => g.setAcc b r k 0) g) g

theorem Group.clearBank_withAcc : ∃ a w, g.clearBank b = g.withAcc a w := by
  refine foldl_invariant (P := fun t : Group => ∃ a w, t = g.withAcc a w) ⟨g.acc, g.wrAcc, rfl⟩ fun t ht r _ => ?_
  refine foldl_invariant (P := fun t : Group => ∃ a w, t = g.withAcc a w) ht fun t ht k _ => ?_
  obtain ⟨a, w, rfl⟩ := ht
  exact ⟨_, _, rfl⟩

/-- An MZERO on every lane clears its bank as well. -/
theorem Group.clearBank_wrote :
    ({ bank := b, lanes := (natsFrom 0 32).map (·, 0) } : LaneOp).wroteCells (fun _ _ _ => 0) g (g.clearBank b) := by
  have hlanes : ((natsFrom 0 32).map (·, (0 : Word))).map (·.1) = natsFrom 0 32 := by rw [List.map_map]; exact List.map_id _
  have h := mzero_wroteCells (o := { bank := b, lanes := (natsFrom 0 32).map (·, 0) }) (by rw [hlanes]; exact natsFrom_nodup 0 32)
    (fun q hq => by obtain ⟨r, hr, rfl⟩ := List.mem_map.mp hq; exact (by simpa using (mem_natsFrom.mp hr))) g
  rw [List.foldl_map] at h
  exact h

theorem Group.clearBank_cell {r k : Nat} (hr : r < 32) (hk : k < 32) : (g.clearBank b).accAt b r k = 0 :=
  (g.clearBank_wrote b).2.2 (r, 0) (List.mem_map_of_mem (mem_natsFrom.mpr ⟨Nat.zero_le r, by omega⟩)) k hk

theorem Group.clearBank_other {b' r k : Nat} (hb : b' ≠ b) (hr : r < 32) (hk : k < 32) : (g.clearBank b).accAt b' r k = g.accAt b' r k :=
  (g.clearBank_wrote b).2.1 b' r k hr hk (.inl hb)

end

/-! ## A group brought to the present cycle -/

section
variable {s : State} {a n h g c : Nat} {bs : List Byte} {b : Blk} {wr : Bool}

/-- The groups and the queues of the engines. -/
def State.agents (s : State) : Map Group × Map EngQ := (s.groups, s.engs)

theorem State.modHearth_agents {f : Hearth → Hearth} : (s.modHearth h f).agents = s.agents := rfl

theorem State.touchFrame_agents : (s.touchFrame a wr).agents = s.agents := by
  unfold State.touchFrame
  split
  · dsimp only
    split
    · rfl
    · obtain ⟨m, z, e⟩ := s.setByte_frame (bitsOf (s.dreg (a / (192 * 2 ^ 30)) 0x000) 51 12 * 4096 + 8 * ((a - a / (192 * 2 ^ 30) * (192 * 2 ^ 30)) / 65536))
        (s.byte (bitsOf (s.dreg (a / (192 * 2 ^ 30)) 0x000) 51 12 * 4096 + 8 * ((a - a / (192 * 2 ^ 30) * (192 * 2 ^ 30)) / 65536)) ||| (if wr then 3 else 1))
      rw [e]
      rfl
  · rfl

theorem State.touchRange_agents : (s.touchRange a n wr).agents = s.agents :=
  foldl_invariant (P := fun t : State => t.agents = s.agents) rfl fun _ ht _ _ => State.touchFrame_agents.trans ht

theorem State.hwBytes_agents : (s.hwBytes a bs).agents = s.agents := by
  obtain ⟨m, e⟩ := s.restamp_frame a bs.length
  obtain ⟨m', z, e'⟩ := (s.restamp a bs.length).setBytes_frame a bs
  rw [State.hwBytes, State.touchRange_agents, e', e]
  rfl

theorem State.hwNum_agents {v : Nat} : (s.hwNum a n v).agents = s.agents := by
  obtain ⟨m, e⟩ := s.restamp_frame a n
  obtain ⟨m', z, e'⟩ := (s.restamp a n).setNum_frame a n v
  rw [State.hwNum, State.touchRange_agents, e', e]
  rfl

theorem State.loopExit_agents : (s.loopExit h g b).agents = s.agents := by
  unfold State.loopExit
  dsimp only
  split
  · rfl
  · split
    · rfl
    · rw [State.modHearth_agents]
      exact foldl_invariant (P := fun t : State => t.agents = s.agents) State.hwBytes_agents fun _ ht _ _ => State.hwNum_agents.trans ht

theorem State.loopExit_group {k : Nat} : (s.loopExit h g b).group k = s.group k := by
  rw [State.group, show (s.loopExit h g b).groups = s.groups from congrArg Prod.fst State.loopExit_agents, State.group]

theorem State.loopExit_engs : (s.loopExit h g b).engs = s.engs := congrArg Prod.snd State.loopExit_agents

/-- A group brought to the present cycle, but for its block, which may have finished. -/
theorem State.settleGroup_cases : ∃ b, ((s.settleGroup h g).group (ckey h g)) = { (s.group (ckey h g)).settle (s.cycle h) with blk := b }
    ∧ (s.settleGroup h g).engs = s.engs := by
  unfold State.settleGroup
  dsimp only
  generalize hu : (if (s.group (ckey h g)).pend.isEmpty then s else s.modGroup (ckey h g) (fun _ => (s.group (ckey h g)).settle (s.cycle h))) = u
  obtain ⟨hgr, hengs⟩ : u.group (ckey h g) = (s.group (ckey h g)).settle (s.cycle h) ∧ u.engs = s.engs := by
    subst hu
    split
    · next hp => exact ⟨((s.group (ckey h g)).settle_idle _ hp).symm, rfl⟩
    · exact ⟨State.modGroup_group_self .., rfl⟩
  split
  · split
    · exact ⟨none, by rw [State.loopExit_group, State.modGroup_group_self, hgr], State.loopExit_engs.trans hengs⟩
    · exact ⟨_, hgr, hengs⟩
  · exact ⟨_, hgr, hengs⟩

theorem State.settleGroup_engs : (s.settleGroup h g).engs = s.engs := by
  obtain ⟨_, -, he⟩ := State.settleGroup_cases (s := s) (h := h) (g := g)
  exact he

theorem State.settleGroup_mem (hb : (s.group (ckey h g)).blk = none) : (s.settleGroup h g).mem = s.mem := by
  have hb' := ((s.group (ckey h g)).settle_blk (s.cycle h)).trans hb
  unfold State.settleGroup
  dsimp only
  rw [hb']
  dsimp only
  split <;> rfl

theorem State.settleGroup_fflags : ((s.settleGroup h g).group (ckey h g)).fflags = ((s.group (ckey h g)).settle (s.cycle h)).fflags := by
  obtain ⟨_, hg, -⟩ := State.settleGroup_cases (s := s) (h := h) (g := g)
  rw [hg]

theorem State.settleGroup_accAt {b r k : Nat} : ((s.settleGroup h g).group (ckey h g)).accAt b r k = (s.group (ckey h g)).accAt b r k := by
  obtain ⟨_, hg, -⟩ := State.settleGroup_cases (s := s) (h := h) (g := g)
  rw [hg, Group.accAt, Group.accAt]
  exact congrArg (fun m => (Map.get 0 m (accKey b r k)).toNat) ((s.group (ckey h g)).settle_acc (s.cycle h))

end

end Sys2Proof.Machine
end

section
/-! PROOFS. Engine commands: the steps of a started command (O38). -/

namespace Sys2Proof.Machine

section
variable {s u : State} {q n k b f : Nat} {i : Trap}

/-! ## A command that completes -/

/-- A queue that holds one command alone drops it once it is done. -/
theorem State.settleQueue_done (hi : (s.eng q).items = [.cmd n]) (hd : (s.cmd q n).done = true) :
    s.settleQueue q = s.modEng q (fun e => { e with items := e.items.tail, cmds := Map.erase e.cmds n }) := by
  have hd' : (Map.get {} (s.eng q).cmds n).done = true := hd
  rw [State.settleQueue, hi, List.length_singleton, State.settleMarkers]
  dsimp only
  rw [hi]
  dsimp only
  rw [if_pos hd', State.settleMarkers]

/-- The bank that a command writes (R251). -/
def CmdK.wroteBank : CmdK → Option Nat
  | .accld b _ => some b
  | .accclr b => some b
  | _ => none

/-- What the completion of a command leaves of its task's lane group. -/
def Cmd.finish (c : Cmd) (g : Group) : Group :=
  match c.kind.wroteBank with
  | some b => { g with fflags := g.fflags ||| c.flags }.bump b
  | none => { g with fflags := g.fflags ||| c.flags }

theorem Cmd.finish_fflags (c : Cmd) (g : Group) : (c.finish g).fflags = g.fflags ||| c.flags := by
  unfold Cmd.finish
  split <;> rfl

theorem Cmd.finish_bump {c : Cmd} {g : Group} (h : c.kind = .accclr b ∨ c.kind = .accld b f) :
    c.finish g = { g with fflags := g.fflags ||| c.flags }.bump b := by
  have hb : c.kind.wroteBank = some b := by rcases h with h | h <;> rw [h] <;> rfl
  rw [Cmd.finish, hb]

theorem Cmd.finish_accAt (c : Cmd) (g : Group) (b r k : Nat) : (c.finish g).accAt b r k = g.accAt b r k := by
  unfold Cmd.finish
  split <;> rfl

/-- The completion of the one command of a task's queue: its group is brought to the present cycle and takes its flags. -/
theorem State.completeCmd_alone (hq : q < 4096) (hi : (s.eng q).items = [.cmd n]) :
    (s.completeCmd q n).group (engKey q) = (s.cmd q n).finish ((s.settleGroup (engHearth q) (engCtx q)).group (engKey q))
    ∧ (s.completeCmd q n).mem = (s.settleGroup (engHearth q) (engCtx q)).mem := by
  unfold State.completeCmd
  dsimp only
  rw [if_pos hq, State.settleQueue_done (n := n)]
  · refine ⟨?_, rfl⟩
    rw [State.modEng_group, State.onCmd, State.modEng_group, State.modGroup_group_self, Cmd.finish]
    cases (s.cmd q n).kind <;> rfl
  · rw [State.onCmd, State.modEng_eng_self]
    refine Eq.trans ?_ hi
    rw [State.modGroup_eng, State.eng, State.settleGroup_engs, State.eng]
  · rw [State.onCmd_cmd]

/-! ## A command that goes on -/

/-- What the answer of an element makes of a state: it counts, and after the last one the command ends. -/
def State.elemAnswered (s : State) (q n : Nat) : Ans Nat → State
  | .ok k u => if (u.elemDone q n k).allMade q n then (u.elemDone q n k).endCmd q n else u.elemDone q n k
  | .wait u => u
  | .trap _ _ => s

/-- A command of a queue that has started and may try its next element. -/
def State.cmdGoes (s : State) (q n : Nat) : Prop :=
  Map.find? (s.eng q).cmds n = some (s.cmd q n) ∧ (s.cmd q n).started = true ∧ (s.cmd q n).pending = true ∧ (s.cmd q n).fault = none
    ∧ s.cmdGo q = true ∧ (s.cmd q n).xf = none

theorem State.sizeCmd_cases : s.sizeCmd q n = s ∨ ∃ m, s.sizeCmd q n = s.onCmd q n (fun c => { c with total := m }) := by
  unfold State.sizeCmd
  dsimp only
  split
  · exact .inr ⟨_, rfl⟩
  · exact .inr ⟨_, rfl⟩
  · exact .inr ⟨_, rfl⟩
  · exact .inl rfl

theorem State.sizeCmd_cmdTry : (s.sizeCmd q n).cmdTry q n = s.cmdTry q n := by
  obtain h | ⟨m, h⟩ := s.sizeCmd_cases (q := q) (n := n)
  · rw [h]
  · rw [h]
    have hgo : (s.onCmd q n (fun c => { c with total := m })).cmdGo q = s.cmdGo q := by
      simp only [State.cmdGo, State.onCmd, State.modEng_ctx, State.modEng_eng_self]
    simp only [State.cmdTry, State.onCmd_cmd, hgo]
    rfl

theorem State.cmdTry_unstarted (h : (s.cmd q n).started = false) : s.cmdTry q n = false := by simp [State.cmdTry, Cmd.running, h]

section
variable (hg : s.cmdGoes q n)
include hg

theorem State.cmdGoes.tries (hr : (s.cmd q n).kind.stream ≠ none → q < 4096 → (s.ctx (engKey q)).st = .running) : s.cmdTry q n = true := by
  obtain ⟨-, hs, hp, hf, hgo, -⟩ := hg
  cases hk : (s.cmd q n).kind.stream with
  | none => simp [State.cmdTry, Cmd.running, hs, hp, hf, hgo, hk]
  | some i =>
    rcases Nat.lt_or_ge q 4096 with hq | hq
    · simp [State.cmdTry, Cmd.running, hs, hp, hf, hgo, hr (by simp [hk]) hq]
    · simp [State.cmdTry, Cmd.running, hs, hp, hf, hgo, hq]

section
variable (hk : (s.cmd q n).kind.stream = none)
include hk

/-- The progress of a started command that is no stream. -/
theorem execEngineCommandComplete_goes : exec (.engineCommandComplete q n) s
    = .next (if (s.sizeCmd q n).allMade q n then (s.sizeCmd q n).endCmd q n else (s.sizeCmd q n).elemAnswered q n (cmdElem q n (s.sizeCmd q n))) := by
  show execEngineCommandComplete q n s = _
  unfold execEngineCommandComplete
  dsimp only
  have hstart : (!(s.cmd q n).started && engCode q != 1 && (s.cmd q n).kind.stream.isNone && s.inOrder q n) = false := by simp [hg.2.1]
  simp only [hstart, Bool.false_eq_true, if_false]
  rw [if_neg (by simp [hg.tries (fun h => absurd hk h), hk])]
  split
  · rfl
  · cases cmdElem q n (s.sizeCmd q n) <;> rfl

variable (hm : (s.sizeCmd q n).allMade q n = false)
include hm

theorem execEngineCommandComplete_element (he : cmdElem q n (s.sizeCmd q n) = .ok k u) : exec (.engineCommandComplete q n) s
    = .next (if (u.elemDone q n k).allMade q n then (u.elemDone q n k).endCmd q n else u.elemDone q n k) := by
  rw [execEngineCommandComplete_goes hg hk, if_neg (by simp [hm]), he, State.elemAnswered]

theorem execEngineCommandComplete_fails (he : cmdElem q n (s.sizeCmd q n) = .trap i u) :
    exec (.engineCommandComplete q n) s = .next (s.sizeCmd q n) := by
  rw [execEngineCommandComplete_goes hg hk, if_neg (by simp [hm]), he, State.elemAnswered]

theorem execCommandElementFault_parks (he : cmdElem q n (s.sizeCmd q n) = .trap i u) (hi : i.cause = 0x0B) :
    exec (.commandElementFault q n) s = .next (u.parkCmd q n i) := by
  have ht : s.cmdTry q n = true := hg.tries (fun h => absurd hk h)
  show execCommandElementFault q n s = _
  unfold execCommandElementFault
  dsimp only
  rw [if_pos ht, if_neg (by simp [State.sizeCmd_cmdTry, ht, hm]), he]
  dsimp only
  rw [if_pos hi]

theorem execCommandElementFault_traps (he : cmdElem q n (s.sizeCmd q n) = .trap i u) (hi : i.cause ≠ 0x0B) (hl : (u.cmd q n).kind ≠ .slred) :
    exec (.commandElementFault q n) s
      = .next (((u.trapFlags q n).onCmd q n (fun c => { c with dead := true })).engFail q (u.cmd q n).pc (.cmd q n) i) := by
  have ht : s.cmdTry q n = true := hg.tries (fun h => absurd hk h)
  have hleaf : u.leafFail q n = u := by simp [State.leafFail, hl]
  show execCommandElementFault q n s = _
  unfold execCommandElementFault
  dsimp only
  rw [if_pos ht, if_neg (by simp [State.sizeCmd_cmdTry, ht, hm]), he]
  dsimp only
  rw [if_neg hi, hleaf, ite_self]

end

section
variable (hk : (s.cmd q n).kind.stream ≠ none) (hr : q < 4096 → (s.ctx (engKey q)).st = .running)
include hk hr

theorem execStreamElement_made (hm : (s.cmd q n).total ≤ (s.cmd q n).elem) : exec (.streamElement q n) s = .next (s.endCmd q n) := by
  show execStreamElement q n s = _
  unfold execStreamElement
  dsimp only
  rw [if_neg (by simp [hg.tries (fun _ => hr), Option.isNone_iff_eq_none, hk]), if_pos hm]

theorem execStreamElement_element (hm : (s.cmd q n).elem < (s.cmd q n).total) (he : cmdElem q n s = .ok k u) : exec (.streamElement q n) s
    = .next (if ((u.elemDone q n k).cmd q n).total ≤ ((u.elemDone q n k).cmd q n).elem then (u.elemDone q n k).endCmd q n else u.elemDone q n k) := by
  show execStreamElement q n s = _
  unfold execStreamElement
  dsimp only
  rw [if_neg (by simp [hg.tries (fun _ => hr), Option.isNone_iff_eq_none, hk]), if_neg (Nat.not_le.mpr hm), he]

end
end

theorem execStreamElement_unstreamed (hk : (s.cmd q n).kind.stream = none) : exec (.streamElement q n) s = .next s := by
  show execStreamElement q n s = _
  unfold execStreamElement
  dsimp only
  rw [if_pos (by simp [hk])]

theorem execCommandElementFault_unstarted (h : (s.cmd q n).started = false) : exec (.commandElementFault q n) s = .next s := by
  have ht := State.cmdTry_unstarted h
  show execCommandElementFault q n s = _
  unfold execCommandElementFault
  dsimp only
  simp only [ht, Bool.false_eq_true, if_false, Bool.not_false, Bool.true_or, if_true]

/-! ## A stream that opens -/

theorem execStreamOpen_unstreamed (hk : (s.cmd q n).kind.stream = none) : exec (.streamOpen q n) s = .next s := by
  show execStreamOpen q n s = _
  unfold execStreamOpen
  dsimp only
  rw [hk]

section
variable {z : Bool × Nat} (hk : (s.cmd q n).kind.stream = some z)
include hk

theorem execStreamOpen_behind (h : ∃ x ∈ (s.eng q).cmds, x.1 < n ∧ x.2.pending = true ∧ x.2.kind.stream = (s.cmd q n).kind.stream) :
    exec (.streamOpen q n) s = .next s := by
  show execStreamOpen q n s = _
  unfold execStreamOpen
  dsimp only
  rw [hk]
  dsimp only
  rw [if_pos]
  rw [Bool.or_eq_true, List.any_eq_true]
  obtain ⟨x, hx, hlt, hp, hs⟩ := h
  exact .inl ⟨x, hx, by simp [hlt, hp, hs, hk]⟩

theorem execStreamOpen_opens (h : ¬ ∃ x ∈ (s.eng q).cmds, x.1 < n ∧ x.2.pending = true ∧ x.2.kind.stream = (s.cmd q n).kind.stream)
    (hs : s.startable q n = true) (ht : (s.cmd q n).total ≠ 0) : exec (.streamOpen q n) s = .next (s.startCmd q n) := by
  show execStreamOpen q n s = _
  unfold execStreamOpen
  dsimp only
  rw [hk]
  dsimp only
  rw [if_neg, if_neg ht]
  rw [Bool.or_eq_true, List.any_eq_true, hs]
  rintro (⟨x, hx, hb⟩ | hb)
  · rw [hk] at h
    simp only [Bool.and_eq_true, decide_eq_true_eq, beq_iff_eq] at hb
    exact h ⟨x, hx, hb.1.1, hb.1.2, hb.2⟩
  · exact absurd hb (by simp)

end

theorem State.startCmd_started : ((s.startCmd q n).cmd q n).started = true := by simp [State.startCmd]

end

end Sys2Proof.Machine
end

section
/-! PROOFS. Engine commands: elements of ACCCLR, ACCST, ZERO and OSTRM, and the obligation (O38). -/

namespace Sys2Proof.Machine

section
variable {s u : State} {q n k b f va cls : Nat} {t : Tgt} {bs d : List Byte}

/-! ## The stages of a store -/

/-- A new access of a command is translated. -/
theorem eXlate_new {acc : Acc} (hx : (s.cmd q n).xf = none) (hf : (s.cmd q n).fault = none) (hb : (s.cmd q n).xact.bound = none)
    (hr : s.reachBy (s.cmdPlace q n) (engHearth q) (s.engPart q) va acc = .ok t) : eXlate q n va acc s = .ok t s := by
  unfold eXlate
  simp only [hx, hf, hb, hr, Option.isSome_none, Bool.false_eq_true, if_false]

/-- A store of one piece is one stage. -/
theorem eStores_one (hx : (s.cmd q n).xf = none) (hf : (s.cmd q n).fault = none) (hp : (s.cmd q n).part = 0) (hb : (s.cmd q n).xact.bound = none)
    (hr : s.reachBy (s.cmdPlace q n) (engHearth q) (s.engPart q) (va % 2 ^ 64) .write = .ok t) (hl : bs.length ≤ k)
    (hw : eWrite q n va t bs cls s = .ok d u) :
    eStores q n cls 0 [(va, k)] bs s = .ok () (u.onCmd q n (fun c => { c with part := 1, hold := c.hold ++ d })) := by
  simp only [eStores, eStage, hp, Nat.not_lt_zero, if_false, eXlate_new hx hf hb hr, Ans.bind, List.take_of_length_le hl, hw]

/-! ## Elements -/

theorem cmdElem_accclr (hk : (s.cmd q n).kind = .accclr b) (ha : s.aliasCmd q (s.cmd q n) (bankSpan b true) = false) :
    cmdElem q n s = .ok 1 (s.modGroup (engKey q) (Group.clearBank b)) := by
  unfold cmdElem
  rw [hk]
  dsimp only
  rw [accclrElem, if_neg (by simp [ha])]
  rfl

theorem cmdElem_accst_misaligned (hk : (s.cmd q n).kind = .accst b f) (ha : s.aliasCmd q (s.cmd q n) (bankSpan b false) = false)
    (hm : accRow (s.cmd q n) % 16 ≠ 0) : cmdElem q n s = .trap { cause := 0x0D, d8 := accRow (s.cmd q n) } s := by
  unfold cmdElem
  rw [hk]
  dsimp only
  rw [accstElem]
  dsimp only
  rw [if_neg (by simp [ha]), eAlign, if_neg hm]
  rfl

theorem cmdElem_zero {len : Nat} (hk : (s.cmd q n).kind = .zero) (hlen : unitLen ((s.cmd q n).arg 0) (s.cmd q n).elem ((s.cmd q n).arg 1 % 2 ^ 40) = len)
    (hroom : s.copyRoom q len = true)
    (hst : eStores q n ((s.cmd q n).arg 1 / 2 ^ 40 % 4) 0 [(((s.cmd q n).arg 0 + (s.cmd q n).elem) % 2 ^ 64, len)] (List.replicate len 0) s = .ok () u) :
    cmdElem q n s = .ok len (u.copied q n len) := by
  unfold cmdElem
  rw [hk]
  dsimp only
  rw [zeroElem]
  dsimp only [sizeOf']
  rw [hlen, if_neg (by simp [hroom]), hst]
  rfl

theorem cmdElem_ostrm {oq : Nat} {ent : List Word} {rest : List (List Word)} (hk : (s.cmd q n).kind = .ostrm oq)
    (he : Map.get [] (s.group (engKey q)).oq oq = ent :: rest)
    (ha : strmAddr (s.cmd q n).args (s.cmd q n).elem % strmWidth ((s.cmd q n).arg 3) = 0)
    (hst : eStores q n ((s.cmd q n).arg 3 % 4) 0 [(strmAddr (s.cmd q n).args (s.cmd q n).elem, strmWidth ((s.cmd q n).arg 3))]
      (bytesOf (ent.getD ((s.cmd q n).elem % 32) 0).toNat (strmWidth ((s.cmd q n).arg 3))) s = .ok () u) :
    cmdElem q n s = .ok 1 (if (s.cmd q n).elem % 32 = 31 ∨ (s.cmd q n).total ≤ (s.cmd q n).elem + 1 then
      u.modGroup (engKey q) (fun g => { g with oq := Map.put g.oq oq rest }) else u) := by
  unfold cmdElem
  rw [hk]
  dsimp only
  rw [ostrmElem, he]
  dsimp only
  rw [eAlign, if_pos ha, Ans.bind, hst, Ans.bind]
  simp only [decide_eq_true_eq, Bool.or_eq_true]

/-! ## Elements that ZERO, ACCST and OSTRM make -/

section
variable (hg : s.cmdGoes q n)
include hg

/-- A ZERO stores the next unit of zeros. -/
theorem execEngineCommandComplete_zero {len : Nat} (hk : (s.cmd q n).kind = .zero) (he : (s.cmd q n).elem < (s.cmd q n).arg 1 % 2 ^ 40)
    (hlen : unitLen ((s.cmd q n).arg 0) (s.cmd q n).elem ((s.cmd q n).arg 1 % 2 ^ 40) = len) (hroom : s.copyRoom q len = true)
    (hp : (s.cmd q n).part = 0) (hb : (s.cmd q n).xact.bound = none)
    (hr : s.reachBy (s.cmdPlace q n) (engHearth q) (s.engPart q) (((s.cmd q n).arg 0 + (s.cmd q n).elem) % 2 ^ 64) .write = .ok t)
    (hw : eWrite q n (((s.cmd q n).arg 0 + (s.cmd q n).elem) % 2 ^ 64) t (List.replicate len 0) ((s.cmd q n).arg 1 / 2 ^ 40 % 4) s = .ok d u) :
    let v := ((u.onCmd q n (fun c => { c with part := 1, hold := c.hold ++ d })).copied q n len).elemDone q n len
    exec (.engineCommandComplete q n) s = .next (if v.allMade q n then v.endCmd q n else v) := by
  have hsize : s.sizeCmd q n = s := by simp only [State.sizeCmd, hk]
  obtain ⟨-, -, -, hf, -, hx⟩ := id hg
  have hst := eStores_one (k := len) hx hf hp hb (by rw [Nat.mod_mod]; exact hr) (by simp) hw
  refine execEngineCommandComplete_element hg (by rw [hk]; rfl) ?_ (by rw [hsize]; exact cmdElem_zero hk hlen hroom hst)
  rw [hsize]
  simpa [State.allMade, State.cmdTotal, sizeOf', hk] using he

/-- An ACCST traps at a row that is not aligned. -/
theorem accst_misaligned (hk : (s.cmd q n).kind = .accst b f) (he : (s.cmd q n).elem < (s.cmd q n).total)
    (ha : s.aliasCmd q (s.cmd q n) (bankSpan b false) = false) (hm : accRow (s.cmd q n) % 16 ≠ 0) :
    exec (.engineCommandComplete q n) s = .next s
    ∧ exec (.commandElementFault q n) s = .next (((s.trapFlags q n).onCmd q n (fun c => { c with dead := true })).engFail q (s.cmd q n).pc (.cmd q n)
        { cause := 0x0D, d8 := accRow (s.cmd q n) }) := by
  have hsize : s.sizeCmd q n = s := by simp only [State.sizeCmd, hk]
  have hmade : (s.sizeCmd q n).allMade q n = false := by
    rw [hsize]
    simpa [State.allMade, State.cmdTotal, hk] using he
  have hel : cmdElem q n (s.sizeCmd q n) = .trap { cause := 0x0D, d8 := accRow (s.cmd q n) } s := by
    rw [hsize]
    exact cmdElem_accst_misaligned hk ha hm
  have hns : (s.cmd q n).kind.stream = none := by rw [hk]; rfl
  exact ⟨(execEngineCommandComplete_fails hg hns hmade hel).trans (by rw [hsize]),
    execCommandElementFault_traps hg hns hmade hel (show (0x0D : Nat) ≠ 0x0B by decide) (by rw [hk]; exact CmdK.noConfusion)⟩

/-- An OSTRM stores its position of the entry at the head of its queue, which leaves with its last. -/
theorem execStreamElement_ostrm {oq : Nat} {ent : List Word} {rest : List (List Word)} (hk : (s.cmd q n).kind = .ostrm oq)
    (hrun : (s.ctx (engKey q)).st = .running) (hm : (s.cmd q n).elem < (s.cmd q n).total) (he : Map.get [] (s.group (engKey q)).oq oq = ent :: rest)
    (ha : strmAddr (s.cmd q n).args (s.cmd q n).elem % strmWidth ((s.cmd q n).arg 3) = 0) (hp : (s.cmd q n).part = 0)
    (hb : (s.cmd q n).xact.bound = none)
    (hr : s.reachBy (s.cmdPlace q n) (engHearth q) (s.engPart q) (strmAddr (s.cmd q n).args (s.cmd q n).elem % 2 ^ 64) .write = .ok t)
    (hw : eWrite q n (strmAddr (s.cmd q n).args (s.cmd q n).elem) t
      ((bytesOf (ent.getD ((s.cmd q n).elem % 32) 0).toNat (strmWidth ((s.cmd q n).arg 3))).take (strmWidth ((s.cmd q n).arg 3)))
      ((s.cmd q n).arg 3 % 4) s = .ok d u) :
    let w := u.onCmd q n (fun c => { c with part := 1, hold := c.hold ++ d })
    let v := (if (s.cmd q n).elem % 32 = 31 ∨ (s.cmd q n).total ≤ (s.cmd q n).elem + 1 then
      w.modGroup (engKey q) (fun g => { g with oq := Map.put g.oq oq rest }) else w).elemDone q n 1
    exec (.streamElement q n) s = .next (if (v.cmd q n).total ≤ (v.cmd q n).elem then v.endCmd q n else v) := by
  obtain ⟨-, -, -, hf, -, hx⟩ := id hg
  have hl : (bytesOf (ent.getD ((s.cmd q n).elem % 32) 0).toNat (strmWidth ((s.cmd q n).arg 3))).length ≤ strmWidth ((s.cmd q n).arg 3) := by
    rw [bytesOf_length]
  rw [List.take_of_length_le hl] at hw
  exact execStreamElement_element hg (by rw [hk]; exact Option.some_ne_none _) (fun _ => hrun) hm
    (cmdElem_ostrm hk he ha (eStores_one hx hf hp hb hr hl hw))

end

/-! ## An ACCCLR -/

section
variable (hg : s.cmdGoes q n) (hk : (s.cmd q n).kind = .accclr b) (he : (s.cmd q n).elem = 0) (ht : (s.cmd q n).total = 1) (hx : (s.cmd q n).ext = false)
  (ha : s.aliasCmd q (s.cmd q n) (bankSpan b true) = false)
include hg hk he ht hx ha

/-- An ACCCLR completes with its one element. -/
theorem execEngineCommandComplete_accclr : exec (.engineCommandComplete q n) s
    = .next (((s.modGroup (engKey q) (Group.clearBank b)).elemDone q n 1).completeCmd q n) := by
  have hsize : s.sizeCmd q n = s := by simp only [State.sizeCmd, hk]
  have hc : ((s.modGroup (engKey q) (Group.clearBank b)).elemDone q n 1).cmd q n
      = { s.cmd q n with elem := (s.cmd q n).elem + 1, part := 0, hold := [], xact := {}, since := s.gcc } := State.onCmd_cmd
  have htry := execEngineCommandComplete_element hg (by rw [hk]; rfl) (by rw [hsize]; simp [State.allMade, hk, State.cmdTotal, he, ht])
    (by rw [hsize]; exact cmdElem_accclr hk ha)
  rw [htry, if_pos (by simp [State.allMade, hc, hk, State.cmdTotal, he, ht]), State.endCmd, if_pos (by simp [State.relReady, hc, hx])]

variable (hq : q < 4096) (hi : (s.eng q).items = [.cmd n])
include hq hi

theorem accclr_clears : ∃ v, exec (.engineCommandComplete q n) s = .next v ∧ ((s.group (engKey q)).blk = none → v.mem = s.mem)
    ∧ (v.group (engKey q)).fflags = ((s.settleGroup (engHearth q) (engCtx q)).group (engKey q)).fflags ||| (s.cmd q n).flags
    ∧ (∀ r k, r < 32 → k < 32 → (v.group (engKey q)).accAt b r k = 0)
    ∧ ∀ b' r k, b' ≠ b → b' < 4 → r < 32 → k < 32 →
        (v.group (engKey q)).accAt b' r k = ((s.settleGroup (engHearth q) (engCtx q)).group (engKey q)).accAt b' r k := by
  refine ⟨_, execEngineCommandComplete_accclr hg hk he ht hx ha, ?_⟩
  have hgr : (((s.modGroup (engKey q) (Group.clearBank b)).elemDone q n 1).group (engKey q)) = (s.group (engKey q)).clearBank b :=
    State.modGroup_group_self ..
  have hflags : ((((s.modGroup (engKey q) (Group.clearBank b)).elemDone q n 1)).cmd q n).flags = (s.cmd q n).flags := by
    rw [State.elemDone, State.onCmd_cmd]
    rfl
  obtain ⟨hv, hmem⟩ := State.completeCmd_alone (s := (s.modGroup (engKey q) (Group.clearBank b)).elemDone q n 1) (n := n) hq
    (by rw [State.elemDone, State.onCmd, State.modEng_eng_self]; exact hi)
  obtain ⟨a, w, hw⟩ := (s.group (engKey q)).clearBank_withAcc b
  rw [hv, hmem]
  simp only [Cmd.finish_accAt, Cmd.finish_fflags, hflags]
  refine ⟨fun hb => ?_, ?_, fun r k hr hk => ?_, fun b' r k hb _ hr hk => ?_⟩
  · exact State.settleGroup_mem (by rw [show ckey (engHearth q) (engCtx q) = engKey q from rfl, hgr, hw]; exact hb)
  · rw [engKey, State.settleGroup_fflags, State.settleGroup_fflags, ← engKey, hgr, hw, Group.settle_withAcc]
    rfl
  · rw [engKey, State.settleGroup_accAt, ← engKey, hgr, Group.clearBank_cell b _ hr hk]
  · rw [engKey, State.settleGroup_accAt, State.settleGroup_accAt, ← engKey, hgr, Group.clearBank_other b _ hb hr hk]

end
end

end Sys2Proof.Machine
end

section
/-! PROOFS. The obligation on the elements of engine commands (O38). -/

namespace Sys2Proof.Machine

/-- Settles O38: each step of a command is its next element and then its completion or trap, by what the element answers; an access answers by
the stage of its request. -/
theorem engineElements : Obligations.EngineElements := by
  refine ⟨?_, ?_⟩
  · intro s u q n b f d i t ent rest oq c g ended made held len zva sva sw goes older
    refine ⟨fun hg hk hm => ?_, fun hq hi v hv => ?_,
      fun hg hk he ht hx ha hq _ hi => accclr_clears hg hk he ht hx ha hq hi, fun hg hk he hroom hp hb hr hw => ?_, fun hg hk he ht ha hm hq => ?_,
      fun hg hk hm he hi => ?_, execCommandElementFault_unstarted, fun hg hk he hq hst hoq hal hp hb hr hw => ?_,
      fun hg hk hr hm => ?_, fun hk => ?_, fun hk ho => ?_, fun hk ho hs ht _ => ?_⟩
    · rw [execEngineCommandComplete_goes hg hk, if_pos hm]
      rfl
    · obtain ⟨hv', -⟩ := State.completeCmd_alone hq hi
      rw [hv, hv']
      refine ⟨Cmd.finish_fflags c g, fun hk => ?_⟩
      rw [Cmd.finish_bump hk, Group.verOf_bump, if_pos rfl]
      rfl
    · exact execEngineCommandComplete_zero hg hk he rfl hroom hp hb hr hw
    · exact accst_misaligned hg hk (Nat.lt_of_lt_of_eq he ht.symm) ha hm
    · exact execCommandElementFault_parks hg hk hm he hi
    · exact execStreamElement_ostrm hg hk hst he hoq hal hp hb hr hw
    · exact execStreamElement_made hg hk hr hm
    · exact ⟨execStreamOpen_unstreamed hk, execStreamElement_unstreamed hk⟩
    · obtain ⟨z, hz⟩ := Option.ne_none_iff_exists'.mp hk
      exact execStreamOpen_behind hz ho
    · obtain ⟨z, hz⟩ := Option.ne_none_iff_exists'.mp hk
      exact ⟨execStreamOpen_opens hz ho hs ht, State.startCmd_started⟩
  · intro s q n va cls len t bs g port x now held bound lp sp stops new load store req left
    refine ⟨eRead_held, eWrite_held, eWrite_stopped, fun hx hh => ⟨eRead_ahead hh hx, fun h ho => eRead_new hh hx h ho.1 ho.2, fun h hg => eRead_ok hh hx h hg,
      fun h hg => eRead_bad hh hx h hg⟩, fun hx hh hs hown => ⟨eWrite_ahead hh hs hown, fun h ho => eWrite_new hh hs hx hown h ho.1 ho.2,
      fun h hg => eWrite_ok hh hs hown h hg, fun h hg => eWrite_bad hh hs hown h hg⟩⟩

end Sys2Proof.Machine
end
